-- ==== Sys2Proof/Word.lean ====
section
/-! DEFINITION. The word types of the device, the register files an operand field can name (R26, R34, R44), and the sparse
stores that hold memory, tiles, tables and pools. -/

namespace Sys2Proof

/-- A 64-bit register image (R26). -/
abbrev Word := BitVec 64
/-- One byte of memory. -/
abbrev Byte := BitVec 8
/-- One 32-bit instruction word (R37). -/
abbrev W32 := BitVec 32

/-- The register files an operand field can name: x, f and w (32 each), q and ta (8 each), lp (4) and the decode
tables (4) (R26, R34, R39, R156). -/
inductive File where
  | x | f | w | q | ta | lp | dtab
deriving DecidableEq, Repr, Inhabited

/-- Registers in a file (R39, R47). -/
def File.size : File → Nat
  | .x => 32 | .f => 32 | .w => 32 | .q => 8 | .ta => 8 | .lp => 4 | .dtab => 4

/-- A sparse store in canonical form: addresses strictly rising, no entry equal to 0, which is what an unlisted
address reads as (Store.wf says so). Memory is the store of width 8. -/
abbrev Store (w : Nat) := List (Nat × BitVec w)

/-- The value at an address: the listed one, or 0. -/
def Store.get {w : Nat} : Store w → Nat → BitVec w
  | [], _ => 0#w
  | (a, v) :: m, k => if a = k then v else Store.get m k

/-- Puts a value at an address, keeping the canonical form: writing 0 removes the entry. -/
def Store.set {w : Nat} : Store w → Nat → BitVec w → Store w
  | [], k, v => if v = 0#w then [] else [(k, v)]
  | (a, u) :: m, k, v =>
    if k < a then (if v = 0#w then (a, u) :: m else (k, v) :: (a, u) :: m)
    else if a = k then (if v = 0#w then m else (k, v) :: m)
    else (a, u) :: Store.set m k v

/-- Every listed address lies above `lo` or is `lo` itself. -/
def Store.above {w : Nat} (lo : Nat) : Store w → Bool
  | [] => true
  | (a, v) :: m => decide (lo ≤ a) && decide (v ≠ 0#w) && Store.above (a + 1) m

/-- The canonical form: addresses strictly rising, no entry 0. -/
def Store.wf {w : Nat} (m : Store w) : Bool := Store.above 0 m

/-- `n` consecutive entries from an address on, lowest first. -/
def Store.slice {w : Nat} (m : Store w) (k : Nat) : Nat → List (BitVec w)
  | 0 => []
  | n + 1 => Store.get m k :: Store.slice m (k + 1) n

/-- Writes a list of values from an address on. -/
def Store.fill {w : Nat} (m : Store w) (k : Nat) : List (BitVec w) → Store w
  | [] => m
  | v :: vs => Store.fill (Store.set m k v) (k + 1) vs

/-- Drops every entry with `lo ≤ address < hi`, which then read 0. -/
def Store.clear {w : Nat} (lo hi : Nat) (m : Store w) : Store w :=
  m.filter fun p => decide (p.1 < lo) || decide (hi ≤ p.1)

/-- An association list keyed by rising numbers, for parts of the device that start in a known state: a key not listed
has the default that the reader names. -/
def assocGet {α : Type} (d : α) : List (Nat × α) → Nat → α
  | [], _ => d
  | (a, v) :: m, k => if a = k then v else assocGet d m k

/-- Puts a key's value, keeping the keys rising. -/
def assocSet {α : Type} : List (Nat × α) → Nat → α → List (Nat × α)
  | [], k, v => [(k, v)]
  | (a, u) :: m, k, v =>
    if k < a then (k, v) :: (a, u) :: m
    else if a = k then (k, v) :: m
    else (a, u) :: assocSet m k v

end Sys2Proof
end

