-- ==== Sys2Proof/Machine/Numeric.lean ====
section
/-! DEFINITION. Numbers: exact values, the rounding modes to the bit (R74, R75), the formats and their special values (R80, R81,
R92), the fitting of results (R72, R73, R77, R82, R83), and the exact operations whose results are rounded once (R78, R79). -/

namespace Sys2Proof.Machine

/-- The magnitude m × 2^e of a number with its sign; `st` says that the magnitude lies strictly between m and m + 1 units, as a
quotient, a root or a transcendental value does. -/
structure Ex where
  neg : Bool := false
  m   : Nat := 0
  e   : Int := 0
  st  : Bool := false
deriving DecidableEq, Repr, Inhabited

/-- A value of a format: a NaN (quiet or signalling), an infinity, or a number; zero keeps its sign. -/
inductive Val where
  | nan (signalling : Bool)
  | inf (neg : Bool)
  | num (x : Ex)
deriving DecidableEq, Repr, Inhabited

def Ex.zero (x : Ex) : Bool := x.m == 0 && !x.st
/-- Bits of a natural number. -/
def bitLen (m : Nat) : Nat := if m = 0 then 0 else Nat.log2 m + 1
/-- floor(log2 |v|) of a nonzero number. -/
def Ex.top (x : Ex) : Int := x.e + bitLen x.m - 1
/-- m × 2^k for k ≥ 0. -/
def shl (m : Nat) (k : Int) : Nat := m * 2 ^ k.toNat
/-- The signed integer that a number is in units of 2^q, for q at or below its exponent. -/
def Ex.units (x : Ex) (q : Int) : Int := if x.neg then -(shl x.m (x.e - q) : Int) else (shl x.m (x.e - q) : Int)
/-- A number from a signed integer in units of 2^q. -/
def Ex.ofUnits (i : Int) (q : Int) : Ex := { neg := decide (i < 0), m := i.natAbs, e := q }

/-! ### Flags (R30) -/

def flagNV : BitVec 5 := 16
def flagDZ : BitVec 5 := 8
def flagOF : BitVec 5 := 4
def flagUF : BitVec 5 := 2
def flagNX : BitVec 5 := 1
/-- A flag where its condition holds. -/
def flagIf (b : Bool) (f : BitVec 5) : BitVec 5 := if b then f else 0

/-! ### Rounding (R74, R75) -/

/-- One step of the generator of R75: the new state and the draw. -/
def srStep (g : Word) : Word × Word :=
  let g := g ^^^ (g >>> 12)
  let g := g ^^^ (g <<< 25)
  let g := g ^^^ (g >>> 27)
  (g, g * 0x2545F4914F6CDD1D#64)

/-- Rounds a number to a multiple of 2^q: the multiple's magnitude and whether the rounding was inexact. `draw` is the draw that SR
uses. -/
def roundAt (q : Int) (mode : BitVec 3) (draw : Word) (x : Ex) : Nat × Bool :=
  if q ≤ x.e ∧ !x.st then (shl x.m (x.e - q), false)
  else
    let sh := (q - x.e).toNat
    let t := x.m / 2 ^ sh
    let rem := x.m % 2 ^ sh
    if rem = 0 ∧ !x.st then (t, false)
    else
      let half := 2 ^ sh
      let up :=
        match mode.toNat with
        | 0 => half < 2 * rem || (half == 2 * rem && (x.st || t % 2 == 1))
        | 1 => half ≤ 2 * rem
        | 2 => false
        | 3 => x.neg
        | 4 => !x.neg
        | 5 => t % 2 == 0
        | _ => decide (draw.toNat < rem * 2 ^ 64 / 2 ^ sh)
      (if up then t + 1 else t, true)

/-- round_to(p, mode, v) of R74, with unbounded exponents, and whether it was inexact. -/
def roundTo (p : Nat) (mode : BitVec 3) (draw : Word) (x : Ex) : Ex × Bool :=
  let q := x.top - p + 1
  let r := roundAt q mode draw x
  ({ neg := x.neg, m := r.1, e := q }, r.2)

/-- An overflow gives infinity, not the largest finite magnitude (R77). -/
def overInf (mode : BitVec 3) (neg : Bool) : Bool :=
  match mode.toNat with
  | 2 | 5 => false
  | 3 => neg
  | 4 => !neg
  | _ => true
/-- A Poant underflow gives the least normal magnitude, not zero (R77). -/
def underNormal (mode : BitVec 3) (neg : Bool) : Bool :=
  match mode.toNat with
  | 3 => neg
  | 4 => !neg
  | 5 => true
  | _ => false

/-! ### Binary formats (R80, R81) -/

/-- Exponent and fraction widths of a format. -/
structure Fmt where
  eb : Nat
  fb : Nat
deriving DecidableEq, Repr, Inhabited

def binary16 : Fmt := { eb := 5, fb := 10 }
def bfloat16 : Fmt := { eb := 8, fb := 7 }
def binary32 : Fmt := { eb := 8, fb := 23 }
def binary64 : Fmt := { eb := 11, fb := 52 }
def e8m10 : Fmt := { eb := 8, fb := 10 }
def a48 : Fmt := { eb := 9, fb := 38 }

def Fmt.bias (F : Fmt) : Nat := 2 ^ (F.eb - 1) - 1
def Fmt.p (F : Fmt) : Nat := F.fb + 1
def Fmt.emin (F : Fmt) : Int := 1 - F.bias
/-- The all-ones exponent field. -/
def Fmt.emask (F : Fmt) : Nat := 2 ^ F.eb - 1
def Fmt.pack (F : Fmt) (neg : Bool) (e f : Nat) : Nat := ((if neg then 2 ^ F.eb else 0) + e) * 2 ^ F.fb + f
/-- The canonical NaN (R81): in the IEEE formats, E8M10 and A48 alike the all-ones exponent and the top fraction bit. -/
def Fmt.nan (F : Fmt) : Nat := F.pack false F.emask (2 ^ (F.fb - 1))
def Fmt.infBits (F : Fmt) (neg : Bool) : Nat := F.pack neg F.emask 0
def Fmt.zeroBits (F : Fmt) (neg : Bool) : Nat := F.pack neg 0 0

/-- The value of a pattern. `ieee`: signalling NaNs exist (R81). `flush`: a subnormal reads as zero of its sign (R83, R84, R92). -/
def Fmt.value (F : Fmt) (ieee flush : Bool) (b : Nat) : Val :=
  let neg := b / 2 ^ (F.eb + F.fb) % 2 == 1
  let e := b / 2 ^ F.fb % 2 ^ F.eb
  let f := b % 2 ^ F.fb
  if e = F.emask then (if f = 0 then .inf neg else .nan (ieee && f / 2 ^ (F.fb - 1) == 0))
  else if e = 0 then .num { neg := neg, m := if flush then 0 else f, e := F.emin - F.fb }
  else .num { neg := neg, m := f + 2 ^ F.fb, e := (e : Int) - F.bias - F.fb }

/-- Packs a number that has been rounded to at most p bits and lies in the format's range, subnormals included. -/
def Fmt.packNum (F : Fmt) (x : Ex) : Nat :=
  if x.m = 0 then F.zeroBits x.neg
  else if x.top < F.emin then F.pack x.neg 0 (x.units (F.emin - F.fb)).natAbs
  else F.pack x.neg (x.top + F.bias).toNat (shl x.m (x.e - (x.top - F.fb)) % 2 ^ F.fb)

/-- The same when the exponent may stand below the place of the last bit. -/
def Fmt.packExact (F : Fmt) (x : Ex) : Nat :=
  let k := bitLen x.m - F.p
  F.packNum (if F.p < bitLen x.m then { x with m := x.m / 2 ^ k, e := x.e + k } else x)

/-- A delivered result: its bits, its flags, and whether it takes a generator step (an inexact rounding, R75). -/
structure Rounded where
  bits  : Nat
  flags : BitVec 5 := 0
  step  : Bool := false
deriving DecidableEq, Repr, Inhabited

/-- The overflow of a format (R77). -/
def Fmt.overflow (F : Fmt) (mode : BitVec 3) (neg : Bool) (step : Bool) : Rounded :=
  { bits := if overInf mode neg then F.infBits neg else F.pack neg (F.emask - 1) (2 ^ F.fb - 1)
    flags := flagOF ||| flagNX, step := step }

/-- Rounds a nonzero number to the scalar unit's formats, with gradual underflow and tininess after rounding (R82). `step` tells an
inexact rounding under SR: a result that is inexact only by overflowing takes no generator step (R76; DESIGN CHOICE, log 125). -/
def Fmt.roundScalar (F : Fmt) (mode : BitVec 3) (draw : Word) (x : Ex) : Rounded :=
  let w := roundTo F.p mode draw x
  let tiny := decide (w.1.top < F.emin)
  let q := max (x.top - F.p + 1) (F.emin - F.fb)
  let r := roundAt q mode draw x
  let y : Ex := { neg := x.neg, m := r.1, e := q }
  if y.m ≠ 0 ∧ (F.bias : Int) < y.top then F.overflow mode x.neg r.2
  else { bits := F.packExact y, flags := flagIf r.2 flagNX ||| flagIf (tiny && r.2) flagUF, step := r.2 }

/-- Rounds a nonzero number to the wide unit's formats and to A48: a tiny result is written as zero of its sign (R83, R93). A result that
is inexact only by overflowing or by being flushed takes no generator step (R76; DESIGN CHOICE, log 125). -/
def Fmt.roundWide (F : Fmt) (mode : BitVec 3) (draw : Word) (x : Ex) : Rounded :=
  let w := roundTo F.p mode draw x
  if w.1.top < F.emin then { bits := F.zeroBits x.neg, flags := flagUF ||| flagNX, step := w.2 }
  else if (F.bias : Int) < w.1.top then F.overflow mode x.neg w.2
  else { bits := F.packExact w.1, flags := flagIf w.2 flagNX, step := w.2 }

/-- Delivers an exact value in a format: special values as they are, numbers rounded once (R79, R81). -/
def Fmt.deliver (F : Fmt) (wide : Bool) (mode : BitVec 3) (draw : Word) : Val → Rounded
  | .nan _ => { bits := F.nan }
  | .inf neg => { bits := F.infBits neg }
  | .num x =>
    if x.zero then { bits := F.zeroBits x.neg }
    else if wide then F.roundWide mode draw x else F.roundScalar mode draw x

/-! ### Exact operations (R78) -/

/-- A result before rounding: its value, and the flags that the operation itself raises. -/
structure Op where
  v     : Val
  flags : BitVec 5 := 0
deriving DecidableEq, Repr, Inhabited

def Val.isNan : Val → Bool
  | .nan _ => true
  | _ => false
def Val.sNan : Val → Bool
  | .nan b => b
  | _ => false
def Val.neg? : Val → Bool
  | .nan _ => false
  | .inf b => b
  | .num x => x.neg
/-- The value with the other sign. -/
def Val.negate : Val → Val
  | .nan b => .nan b
  | .inf b => .inf (!b)
  | .num x => .num { x with neg := !x.neg }
def Val.isZero : Val → Bool
  | .num x => x.zero
  | _ => false
def Val.isInf : Val → Bool
  | .inf _ => true
  | _ => false
def Val.invalid : Op := { v := .nan false, flags := flagNV }

/-- The exact sum of two numbers; zero sums take their sign by R78. -/
def addEx (mode : BitVec 3) (a b : Ex) : Ex :=
  if a.m = 0 ∧ b.m = 0 then { neg := if a.neg = b.neg then a.neg else decide (mode = 3) }
  else if a.m = 0 then b
  else if b.m = 0 then a
  else
    let q := min a.e b.e
    let i := a.units q + b.units q
    if i = 0 then { neg := decide (mode = 3) } else Ex.ofUnits i q
/-- The exact product. -/
def mulEx (a b : Ex) : Ex := { neg := xor a.neg b.neg, m := a.m * b.m, e := a.e + b.e }

/-- A NaN operand's result: NV where one signals (R81, R82). -/
def nanOp (vs : List Val) : Op := { v := .nan false, flags := flagIf (vs.any Val.sNan) flagNV }

def opAdd (mode : BitVec 3) (a b : Val) : Op :=
  match a, b with
  | .num x, .num y => { v := .num (addEx mode x y) }
  | .inf s, .num _ => { v := .inf s }
  | .num _, .inf s => { v := .inf s }
  | .inf s, .inf r => if s = r then { v := .inf s } else Val.invalid
  | _, _ => nanOp [a, b]
def opSub (mode : BitVec 3) (a b : Val) : Op := opAdd mode a b.negate
def opMul (a b : Val) : Op :=
  if a.isNan || b.isNan then nanOp [a, b]
  else if (a.isInf && b.isZero) || (a.isZero && b.isInf) then Val.invalid
  else
    match a, b with
    | .num x, .num y => { v := .num (mulEx x y) }
    | _, _ => { v := .inf (xor a.neg? b.neg?) }

/-- Bits that a quotient or a root is formed to: the widest precision, the 64 bits that SR reads, and more. -/
def workBits : Nat := 340
/-- The quotient of two nonzero numbers. -/
def divEx (a b : Ex) : Ex :=
  let k := workBits + bitLen b.m
  { neg := xor a.neg b.neg, m := a.m * 2 ^ k / b.m, e := a.e - b.e - k, st := a.m * 2 ^ k % b.m != 0 }
def opDiv (a b : Val) : Op :=
  if a.isNan || b.isNan then nanOp [a, b]
  else
    let s := xor a.neg? b.neg?
    match a, b with
    | .inf _, .inf _ => Val.invalid
    | .inf _, _ => { v := .inf s }
    | _, .inf _ => { v := .num { neg := s } }
    | .num x, .num y =>
      if y.m = 0 then (if x.m = 0 then Val.invalid else { v := .inf s, flags := flagDZ })
      else if x.m = 0 then { v := .num { neg := s } }
      else { v := .num (divEx x y) }
    | _, _ => nanOp [a, b]

/-- The integer square root, bit by bit from bit `k - 1` down. -/
def isqrtFrom (n : Nat) : Nat → Nat → Nat
  | 0, r => r
  | k + 1, r => let c := r + 2 ^ k; if c * c ≤ n then isqrtFrom n k c else isqrtFrom n k r
def isqrt (n : Nat) : Nat := isqrtFrom n (bitLen n / 2 + 1) 0
/-- The root of a positive number. -/
def sqrtEx (a : Ex) : Ex :=
  let e0 := a.e - 2 * workBits
  let odd := e0 % 2 != 0
  let m := a.m * 2 ^ (2 * workBits) * (if odd then 2 else 1)
  let e := if odd then e0 - 1 else e0
  let r := isqrt m
  { m := r, e := e / 2, st := r * r != m }
def opSqrt (a : Val) : Op :=
  match a with
  | .nan _ => nanOp [a]
  | .inf s => if s then Val.invalid else { v := .inf false }
  | .num x => if x.m = 0 then { v := a } else if x.neg then Val.invalid else { v := .num (sqrtEx x) }

/-- a × b + c, exact (R124): ∞ × 0 is invalid whatever c is (R82). -/
def opFma (mode : BitVec 3) (a b c : Val) : Op :=
  let p := opMul a b
  if a.isNan || b.isNan then nanOp [a, b, c]
  else if p.v.isNan then Val.invalid
  else opAdd mode p.v c

/-- The order of two values that are no NaN: -1, 0 or 1; zeros are equal. -/
def cmpVal (a b : Val) : Int :=
  match a, b with
  | .inf s, .inf r => if s = r then 0 else if s then -1 else 1
  | .inf s, _ => if s then -1 else 1
  | _, .inf r => if r then 1 else -1
  | .num x, .num y =>
    let q := min x.e y.e
    let d := x.units q - y.units q
    if d < 0 then -1 else if d = 0 then 0 else 1
  | _, _ => 0

/-! ### Integers (R72, R73) -/

/-- Fits an exact integer to n bits under SAT (R72). -/
def fitInt (sat : BitVec 2) (n : Nat) (i : Int) : Int :=
  match sat.toNat with
  | 1 => max (-(2 ^ (n - 1) : Int)) (min i (2 ^ (n - 1) - 1))
  | 2 => max 0 (min i (2 ^ n - 1))
  | _ => i
/-- The low n bits of a fitted integer. -/
def fitBits (sat : BitVec 2) (n : Nat) (i : Int) : BitVec n := BitVec.ofInt n (fitInt sat n i)

/-- The conversion to an integer in [lo, hi] (R73): the integer, its flags, and whether the rounding was inexact. -/
def toInteger (lo hi : Int) (mode : BitVec 3) (draw : Word) (v : Val) : Int × BitVec 5 × Bool :=
  match v with
  | .nan _ => (0, flagNV, false)
  | .inf s => (if s then lo else hi, flagNV, false)
  | .num x =>
    if x.zero then (0, 0, false)
    else
      let r := roundAt 0 mode draw x
      let i : Int := if x.neg then -(r.1 : Int) else r.1
      if i < lo then (lo, flagNV, r.2) else if hi < i then (hi, flagNV, r.2) else (i, flagIf r.2 flagNX, r.2)
/-- The exact value of an integer. -/
def ofInteger (i : Int) : Val := .num (Ex.ofUnits i 0)

end Sys2Proof.Machine
end

