-- ==== Sys2Proof/Machine/Transcend.lean ====
section
/-! DEFINITION. The unary functions of R167: 2^a, log₂ a, 1/a, 1/√a and tanh a, formed to far more bits than any rounding of the
wide unit reads (log 11). -/

namespace Sys2Proof.Machine

/-- Bits after the point of the fixed-point values below. -/
def fixBits : Nat := 640
def fixOne : Nat := 2 ^ fixBits

/-- Σ 1 / ((2k + 1) 3^(2k + 1)) from a power of 3 on. -/
def atanhThird : Nat → Nat → Nat → Nat
  | 0, _, _ => 0
  | f + 1, k, p => fixOne / ((2 * k + 1) * p) + atanhThird f (k + 1) (9 * p)
/-- ln 2 = 2 atanh (1/3). -/
def fixLn2 : Nat := 2 * atanhThird 210 0 3

/-- y + y²/2 + y³/6 + …: e^y - 1 for a fixed-point y below 1, from the k-th term on. -/
def expTail (y : Nat) : Nat → Nat → Nat → Nat
  | 0, _, _ => 0
  | f + 1, k, t =>
    let t := t * y / fixOne / k
    if t = 0 then 0 else t + expTail y f (k + 1) t
def fixExpm1 (y : Nat) : Nat := expTail y 200 1 fixOne

/-- atanh z = z + z³/3 + z⁵/5 + … for a fixed-point z up to 1/3, from the k-th term on. -/
def atanhTail (z2 : Nat) : Nat → Nat → Nat → Nat
  | 0, _, _ => 0
  | f + 1, k, p => if p = 0 then 0 else p / (2 * k + 1) + atanhTail z2 f (k + 1) (p * z2 / fixOne)
def fixAtanh (z : Nat) : Nat := atanhTail (z * z / fixOne) 230 0 z

/-- A number between a fixed-point value and the next. -/
def fixEx (v : Int) : Ex := { neg := decide (v < 0), m := if v < 0 then (-v - 1).toNat else v.toNat, e := -(fixBits : Int), st := true }

/-- 2^a (R167). -/
def exp2Ex (a : Ex) : Ex :=
  if 0 ≤ a.e ∨ a.m % 2 ^ (-a.e).toNat = 0 then
    { m := 1, e := if 0 ≤ a.e then a.units 0 else (if a.neg then -1 else 1) * (a.m / 2 ^ (-a.e).toNat : Nat) }
  else
    let i := a.units a.e
    let d : Int := 2 ^ (-a.e).toNat
    let n := i.fdiv d
    let y := (i - n * d).toNat * fixLn2 / d.toNat
    { m := fixOne + fixExpm1 y, e := n - fixBits, st := true }
def opExp2 (a : Val) : Op :=
  match a with
  | .nan _ => nanOp [a]
  | .inf s => { v := if s then .num {} else .inf false }
  | .num x => { v := .num (if x.m = 0 then { m := 1 } else exp2Ex x) }

/-- log₂ a of a positive number (R167). -/
def log2Ex (a : Ex) : Ex :=
  let k := bitLen a.m - 1
  let e := a.e + k
  if a.m = 2 ^ k then Ex.ofUnits e 0
  else
    let z := (a.m - 2 ^ k) * fixOne / (a.m + 2 ^ k)
    fixEx (e * fixOne + (2 * fixAtanh z * fixOne / fixLn2 : Nat))
def opLog2 (a : Val) : Op :=
  match a with
  | .nan _ => nanOp [a]
  | .inf s => if s then Val.invalid else { v := a }
  | .num x => if x.m = 0 then { v := .inf true, flags := flagDZ } else if x.neg then Val.invalid else { v := .num (log2Ex x) }

/-- 1 / a. -/
def opRcp (a : Val) : Op := opDiv (.num { m := 1 }) a

/-- 1 / √a of a positive number. -/
def rsqEx (a : Ex) : Ex :=
  let odd := a.e % 2 != 0
  let m := if odd then 2 * a.m else a.m
  let h := (if odd then a.e - 1 else a.e) / 2
  let k := workBits + bitLen m
  let r := isqrt (2 ^ (2 * k) / m)
  { m := r, e := -h - k, st := r * r * m != 2 ^ (2 * k) }
def opRsq (a : Val) : Op :=
  match a with
  | .nan _ => nanOp [a]
  | .inf s => if s then Val.invalid else { v := .num {} }
  | .num x => if x.m = 0 then { v := .inf x.neg, flags := flagDZ } else if x.neg then Val.invalid else { v := .num (rsqEx x) }

/-- tanh of a nonzero number: u / (u + 2) with u = e^(2|a|) - 1; from 200 on it lies within the last unit below 1. -/
def tanhEx (a : Ex) : Ex :=
  let y := if 0 ≤ a.e + fixBits then a.m * 2 ^ (a.e + fixBits + 1).toNat else 2 * a.m / 2 ^ (-(a.e + fixBits)).toNat
  if a.top ≥ 8 ∨ 400 * fixOne ≤ y then { neg := a.neg, m := fixOne - 1, e := -(fixBits : Int), st := true }
  else
    let n := y / fixLn2
    let u := (fixOne + fixExpm1 (y - n * fixLn2)) * 2 ^ n - fixOne
    { neg := a.neg, m := min (fixOne - 1) (u * fixOne / (u + 2 * fixOne)), e := -(fixBits : Int), st := true }
def opTanh (a : Val) : Op :=
  match a with
  | .nan _ => nanOp [a]
  | .inf s => { v := .num { neg := s, m := 1 } }
  | .num x => { v := .num (if x.m = 0 then x else tanhEx x) }

end Sys2Proof.Machine
end

