-- ==== Sys2Proof/Config.lean ====
section
/-! DEFINITION. What an implementation fixes and the values the spec leaves open. A free value is a constant with no body, so
no proof can see what it is. -/

namespace Sys2Proof

/-- A word that the spec leaves unspecified, drawn afresh for each number (log 4): the bits a poisoned access reads, the bytes
of a collective whose participants disagree (R247), a standby register after it lost power (R325). -/
opaque Config.freeWord : Nat → Word
/-- Which loft layer takes a bulk line while both are on (R9; log 19). -/
opaque Config.loftLayer : Nat → Bool
/-- Whether a die's TLB serves an address from the entry of another page of its CONTIG group, which R336 allows (log 26). -/
opaque Config.tlbGroup : Nat → Word → Bool
/-- MOD_ID, which the management path sets before DEV_READY (R344; log 5). -/
opaque Config.modId : BitVec 12
/-- The fused anti-rollback count (R353, R356; log 5). -/
opaque Config.fusedRollback : BitVec 7
/-- The KILL fuse as the part leaves the factory (R355, R356; log 5). -/
opaque Config.fusedKilled : Bool
/-- The fused 2-bit action of each alarm, 0 tamper, 1 glitch, 2 over-temperature (R355; log 5). -/
opaque Config.alarmPolicy : Nat → BitVec 2
/-- The parts of a firmware image (R353; log 5): the bytes that are signed, the signature, the public key and the version. The spec prints
no layout of an image. -/
opaque Config.imageBody : List Byte → List Byte
opaque Config.imageSignature : List Byte → List Byte
opaque Config.imageKey : List Byte → List Byte
opaque Config.imageVersion : List Byte → Nat
/-- The four fused digests of vendor keys, and which of them have been revoked (R353; log 5). -/
opaque Config.vendorDigest : Nat → List Byte
opaque Config.vendorRevoked : Nat → Bool
/-- The sill firmware that the flash holds at power-up, and the cox-core firmware that a sill firmware brings up (R353; log 5). -/
opaque Config.flashImage : List Byte
opaque Config.coxImage : List Byte → List Byte
/-- The PUF response with the fused seed, from which the identity key is derived (R354; log 5). -/
opaque Config.identitySeed : List Byte

/-- The first offset past a cell's LM: 3 MiB (R18, R23). -/
def Config.lmBytes : Nat := 0x300000
/-- The first offset past a channel core's memory: 256 KiB (R251). -/
def Config.cmBytes : Nat := 0x40000
/-- The offsets that a q pointer counts through (R28). -/
def Config.aperture : Nat := 0x400000
/-- Logical cells, and the first node id of a channel core (R10, R251). -/
def Config.cells : Nat := 2048
/-- Channel cores (R20). -/
def Config.channels : Nat := 384

end Sys2Proof
end

