-- ==== Sys2Proof/Syntax.lean ====
section
/-! DEFINITION. Every row of the spec's table of operations and events as one constructor of Instr. The first part are the
instructions (R52 to R56), each with its control part (stall count and prefix chain) and its operand fields as the word
carries them; the second part are the device's own steps (95_what_each_step_holds.md), which have no word. -/

namespace Sys2Proof

/-- What an instruction carries beside its own fields: the STALL count (R37, R49) and the payloads of its chain's prefixes
(R41 to R47): one or two PFX.IMM, and at most one each of PFX.REG, PFX.MOD and PFX.REP. PFX.PAGE is implied by the
instruction, since page 2 alone is reached through it (R45, R55). -/
structure Ctl where
  stall : BitVec 3 := 0
  imms  : List (BitVec 27) := []
  reg   : Option (BitVec 27) := none
  mod   : Option (BitVec 27) := none
  rep   : Option (BitVec 27) := none
deriving DecidableEq, Repr, Inhabited

/-- What a frame from a peer brings (R350): its sequence number, its flit, which is empty where it carries control alone, the number of
the first frame that the peer has not received, and whether it asks for a replay from there. -/
structure OptFrame where
  seq    : BitVec 24
  flit   : List (BitVec 64)
  ack    : BitVec 24
  resend : Bool
deriving DecidableEq, Repr, Inhabited

/-- One operation or event of the device, one constructor a row of the table. Register fields are named by slot: d is rd,
a is rs1, b is rs2, e is rs3 (R38); i is the immediate, k the constant-window index, w2 the second word of a long word, t the
element type, w the atomic's width bit, n the granule count and fn the pair code. -/
inductive Instr where
  | add (c : Ctl) (d : BitVec 5) (a : BitVec 5) (b : BitVec 5)
  | sub (c : Ctl) (d : BitVec 5) (a : BitVec 5) (b : BitVec 5)
  | and (c : Ctl) (d : BitVec 5) (a : BitVec 5) (b : BitVec 5)
  | or (c : Ctl) (d : BitVec 5) (a : BitVec 5) (b : BitVec 5)
  | xor (c : Ctl) (d : BitVec 5) (a : BitVec 5) (b : BitVec 5)
  | shl (c : Ctl) (d : BitVec 5) (a : BitVec 5) (b : BitVec 5)
  | shr (c : Ctl) (d : BitVec 5) (a : BitVec 5) (b : BitVec 5)
  | sha (c : Ctl) (d : BitVec 5) (a : BitVec 5) (b : BitVec 5)
  | rol (c : Ctl) (d : BitVec 5) (a : BitVec 5) (b : BitVec 5)
  | ror (c : Ctl) (d : BitVec 5) (a : BitVec 5) (b : BitVec 5)
  | slt (c : Ctl) (d : BitVec 5) (a : BitVec 5) (b : BitVec 5)
  | sltu (c : Ctl) (d : BitVec 5) (a : BitVec 5) (b : BitVec 5)
  | min (c : Ctl) (d : BitVec 5) (a : BitVec 5) (b : BitVec 5)
  | max (c : Ctl) (d : BitVec 5) (a : BitVec 5) (b : BitVec 5)
  | minu (c : Ctl) (d : BitVec 5) (a : BitVec 5) (b : BitVec 5)
  | maxu (c : Ctl) (d : BitVec 5) (a : BitVec 5) (b : BitVec 5)
  | mul (c : Ctl) (d : BitVec 5) (a : BitVec 5) (b : BitVec 5)
  | mulh (c : Ctl) (d : BitVec 5) (a : BitVec 5) (b : BitVec 5)
  | mulhu (c : Ctl) (d : BitVec 5) (a : BitVec 5) (b : BitVec 5)
  | div (c : Ctl) (d : BitVec 5) (a : BitVec 5) (b : BitVec 5)
  | divu (c : Ctl) (d : BitVec 5) (a : BitVec 5) (b : BitVec 5)
  | rem (c : Ctl) (d : BitVec 5) (a : BitVec 5) (b : BitVec 5)
  | remu (c : Ctl) (d : BitVec 5) (a : BitVec 5) (b : BitVec 5)
  | clz (c : Ctl) (d : BitVec 5) (a : BitVec 5)
  | ctz (c : Ctl) (d : BitVec 5) (a : BitVec 5)
  | popc (c : Ctl) (d : BitVec 5) (a : BitVec 5)
  | addi (c : Ctl) (d : BitVec 5) (a : BitVec 5) (i : BitVec 10)
  | andi (c : Ctl) (d : BitVec 5) (a : BitVec 5) (i : BitVec 10)
  | ori (c : Ctl) (d : BitVec 5) (a : BitVec 5) (i : BitVec 10)
  | xori (c : Ctl) (d : BitVec 5) (a : BitVec 5) (i : BitVec 10)
  | shli (c : Ctl) (d : BitVec 5) (a : BitVec 5) (i : BitVec 6)
  | shri (c : Ctl) (d : BitVec 5) (a : BitVec 5) (i : BitVec 6)
  | shai (c : Ctl) (d : BitVec 5) (a : BitVec 5) (i : BitVec 6)
  | slti (c : Ctl) (d : BitVec 5) (a : BitVec 5) (i : BitVec 10)
  | sltiu (c : Ctl) (d : BitVec 5) (a : BitVec 5) (i : BitVec 10)
  | muli (c : Ctl) (d : BitVec 5) (a : BitVec 5) (i : BitVec 10)
  | ldc (c : Ctl) (d : BitVec 5) (k : BitVec 8)
  | addc (c : Ctl) (d : BitVec 5) (a : BitVec 5) (k : BitVec 8)
  | subc (c : Ctl) (d : BitVec 5) (a : BitVec 5) (k : BitVec 8)
  | mulc (c : Ctl) (d : BitVec 5) (a : BitVec 5) (k : BitVec 8)
  | sextB (c : Ctl) (d : BitVec 5) (a : BitVec 5)
  | sextH (c : Ctl) (d : BitVec 5) (a : BitVec 5)
  | sextW (c : Ctl) (d : BitVec 5) (a : BitVec 5)
  | zextB (c : Ctl) (d : BitVec 5) (a : BitVec 5)
  | zextH (c : Ctl) (d : BitVec 5) (a : BitVec 5)
  | zextW (c : Ctl) (d : BitVec 5) (a : BitVec 5)
  | qset (c : Ctl) (d : BitVec 5) (a : BitVec 5) (b : BitVec 5)
  | qget (c : Ctl) (d : BitVec 5) (a : BitVec 5)
  | liw (c : Ctl) (d : BitVec 5) (w2 : BitVec 32)
  | addiw (c : Ctl) (d : BitVec 5) (a : BitVec 5) (w2 : BitVec 32)
  | rdcyc (c : Ctl) (d : BitVec 5)
  | beq (c : Ctl) (a : BitVec 5) (b : BitVec 5) (i : BitVec 10)
  | bne (c : Ctl) (a : BitVec 5) (b : BitVec 5) (i : BitVec 10)
  | blt (c : Ctl) (a : BitVec 5) (b : BitVec 5) (i : BitVec 10)
  | bge (c : Ctl) (a : BitVec 5) (b : BitVec 5) (i : BitVec 10)
  | bltu (c : Ctl) (a : BitVec 5) (b : BitVec 5) (i : BitVec 10)
  | bgeu (c : Ctl) (a : BitVec 5) (b : BitVec 5) (i : BitVec 10)
  | jal (c : Ctl) (d : BitVec 5) (i : BitVec 15)
  | jalr (c : Ctl) (d : BitVec 5) (a : BitVec 5) (i : BitVec 10)
  | jalw (c : Ctl) (d : BitVec 5) (w2 : BitVec 32)
  | loop (c : Ctl) (d : BitVec 5) (a : BitVec 5) (b : BitVec 5)
  | loopi (c : Ctl) (d : BitVec 5) (a : BitVec 5) (i : BitVec 10)
  | lpbrk (c : Ctl) (d : BitVec 5)
  | endTask (c : Ctl)
  | ldB (c : Ctl) (d : BitVec 5) (a : BitVec 5) (i : BitVec 10)
  | ldH (c : Ctl) (d : BitVec 5) (a : BitVec 5) (i : BitVec 10)
  | ldW (c : Ctl) (d : BitVec 5) (a : BitVec 5) (i : BitVec 10)
  | ldD (c : Ctl) (d : BitVec 5) (a : BitVec 5) (i : BitVec 10)
  | stB (c : Ctl) (a : BitVec 5) (b : BitVec 5) (i : BitVec 10)
  | stH (c : Ctl) (a : BitVec 5) (b : BitVec 5) (i : BitVec 10)
  | stW (c : Ctl) (a : BitVec 5) (b : BitVec 5) (i : BitVec 10)
  | stD (c : Ctl) (a : BitVec 5) (b : BitVec 5) (i : BitVec 10)
  | ldBu (c : Ctl) (d : BitVec 5) (a : BitVec 5) (i : BitVec 10)
  | ldHu (c : Ctl) (d : BitVec 5) (a : BitVec 5) (i : BitVec 10)
  | ldWu (c : Ctl) (d : BitVec 5) (a : BitVec 5) (i : BitVec 10)
  | ldvB (c : Ctl) (d : BitVec 5) (a : BitVec 5) (i : BitVec 10)
  | ldvH (c : Ctl) (d : BitVec 5) (a : BitVec 5) (i : BitVec 10)
  | ldvW (c : Ctl) (d : BitVec 5) (a : BitVec 5) (i : BitVec 10)
  | ldvD (c : Ctl) (d : BitVec 5) (a : BitVec 5) (i : BitVec 10)
  | ldvBu (c : Ctl) (d : BitVec 5) (a : BitVec 5) (i : BitVec 10)
  | ldvHu (c : Ctl) (d : BitVec 5) (a : BitVec 5) (i : BitVec 10)
  | ldvWu (c : Ctl) (d : BitVec 5) (a : BitVec 5) (i : BitVec 10)
  | stvB (c : Ctl) (a : BitVec 5) (b : BitVec 5) (i : BitVec 10)
  | stvH (c : Ctl) (a : BitVec 5) (b : BitVec 5) (i : BitVec 10)
  | stvW (c : Ctl) (a : BitVec 5) (b : BitVec 5) (i : BitVec 10)
  | stvD (c : Ctl) (a : BitVec 5) (b : BitVec 5) (i : BitVec 10)
  | amoAdd (c : Ctl) (w : BitVec 1) (d : BitVec 5) (a : BitVec 5) (b : BitVec 5)
  | amoAnd (c : Ctl) (w : BitVec 1) (d : BitVec 5) (a : BitVec 5) (b : BitVec 5)
  | amoOr (c : Ctl) (w : BitVec 1) (d : BitVec 5) (a : BitVec 5) (b : BitVec 5)
  | amoXor (c : Ctl) (w : BitVec 1) (d : BitVec 5) (a : BitVec 5) (b : BitVec 5)
  | amoMin (c : Ctl) (w : BitVec 1) (d : BitVec 5) (a : BitVec 5) (b : BitVec 5)
  | amoMax (c : Ctl) (w : BitVec 1) (d : BitVec 5) (a : BitVec 5) (b : BitVec 5)
  | amoMinu (c : Ctl) (w : BitVec 1) (d : BitVec 5) (a : BitVec 5) (b : BitVec 5)
  | amoMaxu (c : Ctl) (w : BitVec 1) (d : BitVec 5) (a : BitVec 5) (b : BitVec 5)
  | amoSwap (c : Ctl) (w : BitVec 1) (d : BitVec 5) (a : BitVec 5) (b : BitVec 5)
  | amoCas (c : Ctl) (d : BitVec 5) (a : BitVec 5) (b : BitVec 5) (e : BitVec 5)
  | decn (c : Ctl) (a : BitVec 5) (b : BitVec 5)
  | fence (c : Ctl) (i : BitVec 10)
  | efence (c : Ctl)
  | spawn (c : Ctl) (a : BitVec 5) (b : BitVec 5)
  | arm (c : Ctl) (a : BitVec 5) (b : BitVec 5)
  | bara (c : Ctl) (a : BitVec 5) (b : BitVec 5)
  | barx (c : Ctl) (a : BitVec 5) (b : BitVec 5)
  | htset (c : Ctl) (a : BitVec 5) (b : BitVec 5)
  | htclr (c : Ctl) (a : BitVec 5)
  | csrr (c : Ctl) (d : BitVec 5) (i : BitVec 10)
  | csrw (c : Ctl) (a : BitVec 5) (i : BitVec 10)
  | tlbi (c : Ctl) (a : BitVec 5) (b : BitVec 5)
  | halt (c : Ctl)
  | brk (c : Ctl) (a : BitVec 5)
  | pwrq (c : Ctl) (d : BitVec 5) (a : BitVec 5)
  | faddS (c : Ctl) (d : BitVec 5) (a : BitVec 5) (b : BitVec 5)
  | fsubS (c : Ctl) (d : BitVec 5) (a : BitVec 5) (b : BitVec 5)
  | fmulS (c : Ctl) (d : BitVec 5) (a : BitVec 5) (b : BitVec 5)
  | fdivS (c : Ctl) (d : BitVec 5) (a : BitVec 5) (b : BitVec 5)
  | fsqrtS (c : Ctl) (d : BitVec 5) (a : BitVec 5)
  | fminS (c : Ctl) (d : BitVec 5) (a : BitVec 5) (b : BitVec 5)
  | fmaxS (c : Ctl) (d : BitVec 5) (a : BitVec 5) (b : BitVec 5)
  | fcsgnS (c : Ctl) (d : BitVec 5) (a : BitVec 5) (b : BitVec 5)
  | fnsgnS (c : Ctl) (d : BitVec 5) (a : BitVec 5) (b : BitVec 5)
  | fxsgnS (c : Ctl) (d : BitVec 5) (a : BitVec 5) (b : BitVec 5)
  | fcmpqS (c : Ctl) (d : BitVec 5) (a : BitVec 5) (b : BitVec 5)
  | fcmpsS (c : Ctl) (d : BitVec 5) (a : BitVec 5) (b : BitVec 5)
  | ftypeS (c : Ctl) (d : BitVec 5) (a : BitVec 5)
  | faddD (c : Ctl) (d : BitVec 5) (a : BitVec 5) (b : BitVec 5)
  | fsubD (c : Ctl) (d : BitVec 5) (a : BitVec 5) (b : BitVec 5)
  | fmulD (c : Ctl) (d : BitVec 5) (a : BitVec 5) (b : BitVec 5)
  | fdivD (c : Ctl) (d : BitVec 5) (a : BitVec 5) (b : BitVec 5)
  | fsqrtD (c : Ctl) (d : BitVec 5) (a : BitVec 5)
  | fminD (c : Ctl) (d : BitVec 5) (a : BitVec 5) (b : BitVec 5)
  | fmaxD (c : Ctl) (d : BitVec 5) (a : BitVec 5) (b : BitVec 5)
  | fcsgnD (c : Ctl) (d : BitVec 5) (a : BitVec 5) (b : BitVec 5)
  | fnsgnD (c : Ctl) (d : BitVec 5) (a : BitVec 5) (b : BitVec 5)
  | fxsgnD (c : Ctl) (d : BitVec 5) (a : BitVec 5) (b : BitVec 5)
  | fcmpqD (c : Ctl) (d : BitVec 5) (a : BitVec 5) (b : BitVec 5)
  | fcmpsD (c : Ctl) (d : BitVec 5) (a : BitVec 5) (b : BitVec 5)
  | ftypeD (c : Ctl) (d : BitVec 5) (a : BitVec 5)
  | fmaddS (c : Ctl) (d : BitVec 5) (a : BitVec 5) (b : BitVec 5) (e : BitVec 5)
  | fmsubS (c : Ctl) (d : BitVec 5) (a : BitVec 5) (b : BitVec 5) (e : BitVec 5)
  | fmaddD (c : Ctl) (d : BitVec 5) (a : BitVec 5) (b : BitVec 5) (e : BitVec 5)
  | fmsubD (c : Ctl) (d : BitVec 5) (a : BitVec 5) (b : BitVec 5) (e : BitVec 5)
  | fcvF64F32 (c : Ctl) (d : BitVec 5) (a : BitVec 5)
  | fcvF32F64 (c : Ctl) (d : BitVec 5) (a : BitVec 5)
  | fcvF32I32 (c : Ctl) (d : BitVec 5) (a : BitVec 5)
  | fcvI32F32 (c : Ctl) (d : BitVec 5) (a : BitVec 5)
  | fcvF32I64 (c : Ctl) (d : BitVec 5) (a : BitVec 5)
  | fcvI64F32 (c : Ctl) (d : BitVec 5) (a : BitVec 5)
  | fcvF64I32 (c : Ctl) (d : BitVec 5) (a : BitVec 5)
  | fcvI32F64 (c : Ctl) (d : BitVec 5) (a : BitVec 5)
  | fcvF64I64 (c : Ctl) (d : BitVec 5) (a : BitVec 5)
  | fcvI64F64 (c : Ctl) (d : BitVec 5) (a : BitVec 5)
  | fcvF32U64 (c : Ctl) (d : BitVec 5) (a : BitVec 5)
  | fcvU64F32 (c : Ctl) (d : BitVec 5) (a : BitVec 5)
  | fcvF64U64 (c : Ctl) (d : BitVec 5) (a : BitVec 5)
  | fcvU64F64 (c : Ctl) (d : BitVec 5) (a : BitVec 5)
  | fgetD (c : Ctl) (d : BitVec 5) (a : BitVec 5)
  | fsetD (c : Ctl) (d : BitVec 5) (a : BitVec 5)
  | fgetS (c : Ctl) (d : BitVec 5) (a : BitVec 5)
  | fsetS (c : Ctl) (d : BitVec 5) (a : BitVec 5)
  | fldS (c : Ctl) (d : BitVec 5) (a : BitVec 5) (i : BitVec 10)
  | fldD (c : Ctl) (d : BitVec 5) (a : BitVec 5) (i : BitVec 10)
  | fstS (c : Ctl) (a : BitVec 5) (b : BitVec 5) (i : BitVec 10)
  | fstD (c : Ctl) (a : BitVec 5) (b : BitVec 5) (i : BitVec 10)
  | poalloc (c : Ctl) (d : BitVec 5)
  | poallocX (c : Ctl) (d : BitVec 5) (a : BitVec 5)
  | pofree (c : Ctl) (d : BitVec 5)
  | poadd (c : Ctl) (d : BitVec 5) (a : BitVec 5) (b : BitVec 5)
  | posub (c : Ctl) (d : BitVec 5) (a : BitVec 5) (b : BitVec 5)
  | pomul (c : Ctl) (d : BitVec 5) (a : BitVec 5) (b : BitVec 5)
  | podiv (c : Ctl) (d : BitVec 5) (a : BitVec 5) (b : BitVec 5)
  | posqrt (c : Ctl) (d : BitVec 5) (a : BitVec 5)
  | pofma (c : Ctl) (d : BitVec 5) (a : BitVec 5) (b : BitVec 5) (e : BitVec 5)
  | pocmpEq (c : Ctl) (d : BitVec 5) (a : BitVec 5) (b : BitVec 5)
  | pocmpLt (c : Ctl) (d : BitVec 5) (a : BitVec 5) (b : BitVec 5)
  | pocmpLe (c : Ctl) (d : BitVec 5) (a : BitVec 5) (b : BitVec 5)
  | poldS (c : Ctl) (n : BitVec 4) (d : BitVec 5) (a : BitVec 5)
  | poldP (c : Ctl) (d : BitVec 5) (a : BitVec 5) (b : BitVec 5)
  | posvS (c : Ctl) (n : BitVec 4) (d : BitVec 5) (a : BitVec 5)
  | posvP (c : Ctl) (d : BitVec 5) (a : BitVec 5) (b : BitVec 5)
  | pocvtPD (c : Ctl) (d : BitVec 5) (a : BitVec 5)
  | pocvtPS (c : Ctl) (d : BitVec 5) (a : BitVec 5)
  | pocvtPL (c : Ctl) (d : BitVec 5) (a : BitVec 5)
  | pocvtDP (c : Ctl) (d : BitVec 5) (a : BitVec 5)
  | pocvtSP (c : Ctl) (d : BitVec 5) (a : BitVec 5)
  | pocvtLP (c : Ctl) (d : BitVec 5) (a : BitVec 5)
  | pocvtPP (c : Ctl) (d : BitVec 5) (a : BitVec 5)
  | podot (c : Ctl) (d : BitVec 5) (a : BitVec 5) (b : BitVec 5) (e : BitVec 5)
  | tcfg (c : Ctl) (d : BitVec 5) (a : BitVec 5)
  | tzero (c : Ctl) (d : BitVec 5)
  | tld (c : Ctl) (d : BitVec 5) (a : BitVec 5)
  | tst (c : Ctl) (d : BitVec 5) (a : BitVec 5)
  | tldd (c : Ctl) (d : BitVec 5) (a : BitVec 5) (b : BitVec 5) (w2 : BitVec 32)
  | tstd (c : Ctl) (d : BitVec 5) (a : BitVec 5) (b : BitVec 5) (w2 : BitVec 32)
  | twait (c : Ctl) (d : BitVec 5) (a : BitVec 5)
  | wld (c : Ctl) (a : BitVec 5) (b : BitVec 5)
  | dtld (c : Ctl) (d : BitVec 5) (a : BitVec 5) (w2 : BitVec 32)
  | mma (c : Ctl) (d : BitVec 5) (a : BitVec 5) (b : BitVec 5) (e : BitVec 5)
  | mmas (c : Ctl) (d : BitVec 5) (a : BitVec 5) (b : BitVec 5) (e : BitVec 5)
  | mmao (c : Ctl) (d : BitVec 5) (a : BitVec 5) (b : BitVec 5) (e : BitVec 5)
  | mmad (c : Ctl) (fn : BitVec 5) (d : BitVec 5) (a : BitVec 5) (b : BitVec 5) (w2 : BitVec 32)
  | mmasd (c : Ctl) (fn : BitVec 5) (d : BitVec 5) (a : BitVec 5) (b : BitVec 5) (w2 : BitVec 32)
  | mmaod (c : Ctl) (fn : BitVec 5) (d : BitVec 5) (a : BitVec 5) (b : BitVec 5) (w2 : BitVec 32)
  | vadd (c : Ctl) (t : BitVec 5) (d : BitVec 5) (a : BitVec 5) (b : BitVec 5)
  | vsub (c : Ctl) (t : BitVec 5) (d : BitVec 5) (a : BitVec 5) (b : BitVec 5)
  | vmul (c : Ctl) (t : BitVec 5) (d : BitVec 5) (a : BitVec 5) (b : BitVec 5)
  | vfma (c : Ctl) (d : BitVec 5) (a : BitVec 5) (b : BitVec 5) (e : BitVec 5)
  | vmax (c : Ctl) (t : BitVec 5) (d : BitVec 5) (a : BitVec 5) (b : BitVec 5)
  | vmin (c : Ctl) (t : BitVec 5) (d : BitVec 5) (a : BitVec 5) (b : BitVec 5)
  | vexp2 (c : Ctl) (t : BitVec 5) (d : BitVec 5) (a : BitVec 5)
  | vlog2 (c : Ctl) (t : BitVec 5) (d : BitVec 5) (a : BitVec 5)
  | vrcp (c : Ctl) (t : BitVec 5) (d : BitVec 5) (a : BitVec 5)
  | vrsq (c : Ctl) (t : BitVec 5) (d : BitVec 5) (a : BitVec 5)
  | vtanh (c : Ctl) (t : BitVec 5) (d : BitVec 5) (a : BitVec 5)
  | vrsum (c : Ctl) (t : BitVec 5) (d : BitVec 5) (a : BitVec 5)
  | vrmax (c : Ctl) (t : BitVec 5) (d : BitVec 5) (a : BitVec 5)
  | vcvt (c : Ctl) (t : BitVec 5) (d : BitVec 5) (a : BitVec 5)
  | vxpose (c : Ctl) (t : BitVec 5) (d : BitVec 5) (a : BitVec 5)
  | vbcast (c : Ctl) (t : BitVec 5) (d : BitVec 5) (a : BitVec 5)
  | vscale (c : Ctl) (t : BitVec 5) (d : BitVec 5) (a : BitVec 5) (b : BitVec 5)
  | vcvtd (c : Ctl) (d : BitVec 5) (a : BitVec 5) (b : BitVec 5) (w2 : BitVec 32)
  | recStart (c : Ctl) (a : BitVec 5)
  | recStop (c : Ctl)
  | rvs (c : Ctl) (d : BitVec 5) (a : BitVec 5)
  | gmap (c : Ctl) (a : BitVec 5)
  | send (c : Ctl) (a : BitVec 5) (b : BitVec 5) (w2 : BitVec 32)
  | cpy (c : Ctl) (d : BitVec 5) (a : BitVec 5) (b : BitVec 5) (e : BitVec 5) (w2 : BitVec 32)
  | cpym (c : Ctl) (d : BitVec 5) (a : BitVec 5) (b : BitVec 5) (e : BitVec 5) (w2 : BitVec 32)
  | coll (c : Ctl) (d : BitVec 5) (a : BitVec 5) (b : BitVec 5) (e : BitVec 5) (w2 : BitVec 32)
  | engp (c : Ctl) (d : BitVec 5) (w2 : BitVec 32)
  | engq (c : Ctl) (d : BitVec 5) (w2 : BitVec 32)
  | hld (c : Ctl) (d : BitVec 5) (a : BitVec 5) (i : BitVec 10)
  | hst (c : Ctl) (a : BitVec 5) (b : BitVec 5) (i : BitVec 10)
  | hpf (c : Ctl) (a : BitVec 5) (i : BitVec 10)
  | hfl (c : Ctl) (a : BitVec 5) (b : BitVec 5)
  /-- A variable-latency result is written and its full/empty bit set full. (R50) -/
  | variableLatencyResult (node : Nat) (thr : Nat) (k : Nat)
  /-- The wide unit starts a queued instruction once its pipe and dependences allow. (R144) -/
  | wuInstructionStart (node : Nat) (core : Nat)
  /-- A wide-unit instruction has written all its effects and flags. (R145) -/
  | wuInstructionComplete (node : Nat) (core : Nat)
  /-- A wide-unit fault found during execution freezes the enqueuing thread and holds its queue. (R147) -/
  | wuFault (node : Nat) (core : Nat)
  /-- The 256-cycle slot boundary of the rotation applies WU_SLOTS and changes ownership. (R149) -/
  | wuSlotBoundary (node : Nat)
  /-- A 200-fabric-cycle window closes and the ballast sequencer sets targets and start limits. (R322) -/
  | ballastWindow (node : Nat)
  /-- The sequencer issues a ballast start in an idle issue cycle. (R324) -/
  | ballastStart (node : Nat)
  /-- A fired descriptor is inserted into a ready bank when a place is free. (R263) -/
  | descriptorInsert (node : Nat)
  /-- A free thread pops a ready descriptor and starts the task. (R264) -/
  | pop (node : Nat)
  /-- END completes: error check, outbox release, landing slot freed, thread free. (R267) -/
  | runEnd (node : Nat) (thr : Nat)
  /-- BUDGET.REMAIN reaches 0 and the thread takes cause 0x30. (R269) -/
  | budgetExpiry (node : Nat) (thr : Nat)
  /-- A released outbox slot is injected once its release condition holds. (R221) -/
  | slotInject (node : Nat) (k : Nat)
  /-- A NACKed message's back-off expires and it is retried with a fresh translation. (R275) -/
  | retryTimer (node : Nat) (k : Nat)
  /-- A write of CTX_STATE puts a context slot in DRAIN. (R271) -/
  | ctxSlotDrain (node : Nat) (slot : Nat)
  /-- A write of 0 to CTX_STATE returns a slot to IN. (R271) -/
  | ctxSlotIn (node : Nat) (slot : Nat)
  /-- The slot's running count reaches 0 and the slot becomes OUT. (R271) -/
  | ctxSlotOut (node : Nat) (slot : Nat)
  /-- Every 4,096 fabric cycles a cell compares depths and selects floating tasks to move. (R277) -/
  | balanceExchange (node : Nat)
  /-- After its forward buffer is published the cell sends a TASKMOVE. (R277) -/
  | balanceMoveSend (node : Nat)
  /-- A barrier timer reaches TICKS and cause 0x32 is sent. (R280) -/
  | barrierTimeout (node : Nat) (k : Nat)
  /-- A remote load request is performed at the home and the sharer recorded. (R212) -/
  | msgLoad (k : Nat)
  /-- A remote store is performed at its home after invalidations and acknowledged. (R209) -/
  | msgStore (k : Nat)
  /-- An AMO message is performed at the home bank. (R233) -/
  | msgAmo (k : Nat)
  /-- A compare-and-swap message is performed at the home bank. (R234) -/
  | msgCas (k : Nat)
  /-- A DECN is performed at the counter's bank, possibly firing an armed descriptor. (R235) -/
  | msgDecn (k : Nat)
  /-- A SEND is checked at its destination and accepted into a landing slot or NACKed. (R274) -/
  | msgSend (k : Nat)
  /-- A SPAWN message forms a fired descriptor or is NACKed. (R297) -/
  | msgSpawn (k : Nat)
  /-- An ARM message is performed at the counter's bank, arming or firing the entry. (R293) -/
  | msgArm (k : Nat)
  /-- A barrier arrival is performed, possibly completing the generation. (R280) -/
  | msgBara (k : Nat)
  /-- A barrier absence or presence token is performed. (R280) -/
  | msgBarx (k : Nat)
  /-- A copy command reaches the engine. (R243) -/
  | msgCpy (k : Nat)
  /-- A copy-to-box command reaches the engine. (R245) -/
  | msgCpym (k : Nat)
  /-- A collective command reaches the collective engine and is matched by TAG. (R247) -/
  | msgColl (k : Nat)
  /-- An engine begins a command once the pusher's writes are visible at its scope. (R224) -/
  | engineCommandBegin (node : Nat) (k : Nat)
  /-- A copy command's writes are performed and it decrements and appends its element. (R243) -/
  | cpyComplete (node : Nat) (k : Nat)
  /-- All box copies are performed and the result element is appended. (R245) -/
  | cpymComplete (node : Nat) (k : Nat)
  /-- A participant's collective completes and decrements its counter. (R247) -/
  | collComplete (node : Nat) (k : Nat)
  /-- An engine meets a fault part-way and stops the command with cause 0x27. (R248) -/
  | engineFault (node : Nat) (k : Nat)
  /-- A collective contribution reaches the root and is combined or held. (R247) -/
  | msgContrib (k : Nat)
  /-- A collective result is written at a participant. (R247) -/
  | msgResult (k : Nat)
  /-- An engine data line is written at its home. (R225) -/
  | msgLine (node : Nat) (k : Nat)
  /-- Load data returns and fills the destination and L1D. (R210) -/
  | msgData (k : Nat)
  /-- A write acknowledgement frees the forward-buffer entry. (R209) -/
  | msgAck (k : Nat)
  /-- A sharer's invalidation acknowledgement reaches the home. (R213) -/
  | msgInvack (k : Nat)
  /-- A NACK puts the message in back-off or makes it undeliverable. (R275) -/
  | msgNack (k : Nat)
  /-- An invalidation drops a line from the cell's L1Ds and is acknowledged. (R213) -/
  | msgInval (k : Nat)
  /-- A balanced descriptor is inserted at the neighbour or NACKed BUSY. (R277) -/
  | msgTaskmove (k : Nat)
  /-- A message of invalid class, kind or reserved bits is discarded and counted. (R255) -/
  | malformedMessage (k : Nat)
  /-- At each period boundary a cell sends strokes, counts missed strokes and ages vote rounds. (R383) -/
  | strokePeriod (node : Nat)
  /-- A neighbour's stroke is judged good or babbling. (R384) -/
  | msgStroke (k : Nat)
  /-- An accusation sets a bit and may reach the fencing quorum. (R386) -/
  | msgAccuse (k : Nat)
  /-- A FENCE message moves the router's view of the suspect to FENCED. (R386) -/
  | msgFence (k : Nat)
  /-- A fenced cell freezes its threads and stops injecting non-MNT traffic. (R388) -/
  | msgFreeze (k : Nat)
  /-- The cox cores write STATE FENCED and begin remapping to a spare. (R392) -/
  | msgFenced (k : Nat)
  /-- The cox cores bring up a spare, write its LPT entries and send cause 0x52 reports. (R392) -/
  | remapToSpare (lid : Nat)
  /-- A fenced cell discards its state and starts its self-test. (R395) -/
  | msgTest (k : Nat)
  /-- The self-test ends, and a passing cell sends APPEAL. (R395) -/
  | selfTestComplete (phys : Nat) (pass : Bool) (sig : BitVec 32)
  /-- An appeal moves the neighbour's vote state to APPEAL. (R386) -/
  | msgAppeal (k : Nat)
  /-- The cox cores collect ADMIT answers and readmit on unanimity. (R396) -/
  | msgAdmit (k : Nat)
  /-- A refusal leaves the appellant fenced until power-up. (R396) -/
  | msgRefuse (k : Nat)
  /-- A neighbour reopens its port to a readmitted cell. (R386) -/
  | msgReopen (k : Nat)
  /-- A fault packet is written to the supervisor's ring or host fault ring. (R376) -/
  | msgFault (k : Nat)
  /-- An LPT copy turning FENCED makes pending messages to that cell act as NACK FENCED. (R393) -/
  | lptEntryFenced (deck : Nat) (lid : Nat)
  /-- A miss that found the walk queue full is retried after 64 fabric cycles. (R338) -/
  | tlbMissRetry (die : Nat)
  /-- A page walk ends with a translation or a fault. (R337) -/
  | walkComplete (die : Nat)
  /-- The cox cores complete a NOP command. (R283) -/
  | cmdNop
  /-- The cox cores check a launch record, write images and windows, arm and fire tasks. (R285) -/
  | cmdLaunch
  /-- The device holds, drains, retunes and trains the named optical ports. (R348) -/
  | cmdLinkmap
  /-- CTXSET sets the context's slots IN in every cell. (R283) -/
  | cmdCtxsetIn
  /-- CTXSET drains the context's slots and completes when all are OUT. (R283) -/
  | cmdCtxsetDrain
  /-- A command with an unknown OP or bad fields completes ILLEGAL. (R283) -/
  | cmdIllegal
  /-- The port's queues drain or the 10 ms bound stops running commands. (R348) -/
  | linkmapDrainEnd (timeout : Bool)
  /-- The rings are tuned and training begins. (R348) -/
  | linkmapRetuneEnd
  /-- Training ends UP, MISMATCH or FAILED and held commands stop. (R348) -/
  | linkmapTrainEnd (port : Nat) (trained : Bool) (peer : BitVec 12) (peerPort : BitVec 3)
  /-- The host advances the command queue tail. (R282) -/
  | cqTailWrite (v : BitVec 64)
  /-- A write of word 0 commits a context-table entry or fails. (R330) -/
  | contextCommit (ctx : Nat) (v : BitVec 64)
  /-- A commit with V = 0 tears down the context and clears its grants. (R333) -/
  | contextTeardown (ctx : Nat)
  /-- The host's TLBI control word removes translations at device scope. (R342) -/
  | hostTlbi (v : BitVec 64)
  /-- A LNK_CTL write parks wavelengths and narrows the stripe at an agreed flit. (R351) -/
  | wavelengthPark (port : Nat) (park : BitVec 8)
  /-- The transmit queue rises above WTHRESH and parked wavelengths are woken. (R361) -/
  | automaticWake (port : Nat)
  /-- Woken wavelengths are trained and the stripe widens. (R351) -/
  | wakeComplete (port : Nat)
  /-- An optical frame is received, checked and acknowledged or replayed. (R350) -/
  | opticalFrame (port : Nat) (frame : OptFrame) (crcOk : Bool)
  /-- Resumes a frozen thread from PC. (R380) -/
  | dbgResume (node : Nat) (thr : Nat)
  /-- Re-executes a held wide-unit instruction and resumes. (R147) -/
  | dbgRetry (node : Nat) (thr : Nat)
  /-- Discards a held wide-unit instruction and resumes. (R147) -/
  | dbgSkip (node : Nat) (thr : Nat)
  /-- Ends a frozen task, dropping its outbox and reservations. (R380) -/
  | dbgAbandon (node : Nat) (thr : Nat)
  /-- Rolls back a frozen restartable run and redelivers it. (R380) -/
  | dbgRedeliver (node : Nat) (thr : Nat)
  /-- Resumes for one instruction or iteration then freezes with cause 0x61. (R380) -/
  | dbgStep (node : Nat) (thr : Nat)
  /-- Freezes a running thread at the next boundary with cause 0x62. (R380) -/
  | dbgFreeze (node : Nat) (thr : Nat)
  /-- A write to a thread's debug window register, held until SETTLED. (R378) -/
  | debugWindowWrite (pa : BitVec 48) (v : BitVec 64)
  /-- A write to a register with no row of its own, under its field rules. (R5) -/
  | registerWrite (host : Bool) (pa : BitVec 48) (v : BitVec 64)
  /-- A host CXL.mem access is performed at its loft slice or home. (R226) -/
  | hostMemoryAccess (wr : Bool) (pa : BitVec 48) (v : BitVec 64)
  /-- A nonce request is answered with a signed attestation report. (R354) -/
  | attestationRequest (nonce : List (BitVec 8))
  /-- A new firmware image arriving after failed verification is verified. (R353) -/
  | recoveryImage (image : List (BitVec 8))
  /-- A cell samples its junction temperature, setting HOT or THERM. (R313) -/
  | temperatureSample (node : Nat) (temp : BitVec 8)
  /-- The power manager recomputes every cell's ceiling once per microsecond. (R311) -/
  | ceilingUpdate
  /-- Every 100 us LIMIT moves one step against the 10 ms power average. (R312) -/
  | limitStep (watts10 : BitVec 13)
  /-- A boost window open for 10 ms closes by force and recovery begins. (R312) -/
  | boostWindowExpiry
  /-- The 10 ms boost recovery ends. (R312) -/
  | boostRecoveryEnd
  /-- A regulator step completes and the clock moves to the next operating point. (R314) -/
  | opStep (node : Nat)
  /-- An idle cell enters retention after RET_IDLE. (R315) -/
  | retentionEntry (node : Nat)
  /-- A fire, message or debug read raises a retained cell to OP_0. (R315) -/
  | retentionWake (node : Nat)
  /-- A cell above 100 C for 1 ms is selected, set MOVING and quiesced. (R320) -/
  | migrationStart (node : Nat)
  /-- Quiesce ends and the cell's state is copied to the target. (R320) -/
  | migrationCopy (node : Nat)
  /-- The copy ends and the LPT is switched to the target. (R320) -/
  | migrationSwitch (node : Nat)
  /-- The transferred forward buffer drains and STATE becomes NORMAL. (R320) -/
  | migrationDrain (node : Nat)
  /-- The core rail trips and every ceiling drops to OP_0. (R326) -/
  | overCurrent
  /-- The 48 V input exceeds 54 V. (R326) -/
  | overVoltage
  /-- The 48 V input stays below 42 V for 10 us. (R326) -/
  | underVoltage
  /-- Below 38 V the sill withdraws power-good and the device stops. (R326) -/
  | powerGoodLoss
  /-- A supply condition absent for 1 ms lifts its ceiling limit. (R326) -/
  | supplyRecovery (cond : Nat)
  /-- Inlet temperature or flow out of bounds for 100 ms sets COOL. (R325) -/
  | coolantFault (inlet : BitVec 8) (flow : BitVec 8)
  /-- The slope monitor measures over 200 A/us and sets SLOPE. (R325) -/
  | slopeBreach
  /-- Power-good starts verification, training, self-test and sets DEV_READY. (R403) -/
  | powerUp
  /-- The tamper mesh alarm takes its fused action. (R355) -/
  | tamperAlarm
  /-- The supply-glitch alarm takes its fused action. (R355) -/
  | glitchAlarm
  /-- The sill over-temperature alarm takes its fused action. (R355) -/
  | overtempAlarm
  /-- A flit fails its CRC, lanes are tested and remapped, and the link replays. (R397) -/
  | linkCrcFailure (node : Nat) (dir : Nat) (lanes : Nat)
  /-- A link loses more lanes than its spares allow. (R398) -/
  | linkLost (node : Nat) (dir : Nat)
  /-- The cox cores install routing around a lost link. (R399) -/
  | faultRegionRouting (node : Nat) (dir : Nat)
  /-- A vertical link recalibrates its lanes every 10 ms. (R287) -/
  | laneRecalibration (node : Nat) (dir : Nat)
  /-- A loft layer reports lost dirty lines and is drained and disabled. (R401) -/
  | loftLoss (layer : Nat) (lost : List Nat)
  /-- The scrubber reads the next LM line, correcting or poisoning it. (R364) -/
  | eccScrub (node : Nat) (line : Nat) (err : Nat)
  /-- An uncorrectable error in a device structure drops the entry and reports cause 0x50. (R364) -/
  | uncorrectableStructureError (node : Nat) (unit : Nat) (k : Nat) (readable : Bool)
  /-- An instruction word or chain that is unassigned, broken or too long is decoded and raises cause 0x01, 0x02 or 0x03 with no state change. (R51) -/
  | decodeFault (cause : BitVec 8)
  /-- A word of the next instruction cannot be fetched (translation fault or poisoned word) and the thread freezes precisely at that instruction. (R51) -/
  | instructionFetchFault (cause : BitVec 8) (va : BitVec 64) (detail : BitVec 32)
  /-- The 20 periods after an APPEAL run out without an ADMIT from every live neighbour, and the cell stays fenced until power-up. (R396) -/
  | appealAnswerTimeout (phys : Nat)
  /-- The sill's standby domain, fed by the management auxiliary supply, loses power and OC_CAUSE becomes unknown until LOST is set at the next power-up. (R325) -/
  | standbyDomainPowerLoss
deriving DecidableEq, Repr, Inhabited

end Sys2Proof
end

