-- ==== Sys2Proof/Machine/State.lean ====
section
/-! DEFINITION. The state of the device as plain data: every thread, cell, channel core and device register the spec names, the
messages in flight, the queues of the engines, and what the model adds to say which step comes next. -/

namespace Sys2Proof.Machine

/-- Why the machine stops. No instruction and no event of the spec stops it: a trap freezes a thread and the device goes on. -/
inductive Fault where
  /-- Raised by step when State names a current thread on a node that the device does not have (State.cur beyond the cells
  and channel cores); no reachable state does. Safe. -/
  | noSuchNode (node : Nat)
deriving DecidableEq, Repr, Inhabited

/-- Why an instruction has no meaning. -/
inductive Refusal where
  /-- Raised by exec's arm for an instruction the model gives no meaning; no arm does. Safe. -/
  | notModelled (mnemonic : String)
deriving DecidableEq, Repr, Inhabited

/-- The box of cells of a launch (R36, R284): origin and extent. -/
structure Region where
  ox : Nat := 0
  oy : Nat := 0
  oz : Nat := 0
  ex : Nat := 1
  ey : Nat := 1
  ez : Nat := 1
deriving DecidableEq, Repr, Inhabited

/-- A launch that the cox cores have performed (R285): its sequence number, context, region, the region supervisor's cell
when it has one (R284), and its constant-window image, which a remap replays (R392). -/
structure Launch where
  seq    : Nat
  ctx    : Nat
  region : Region
  sup    : Option Nat
  supCtr : BitVec 22 := 0
  cwin   : List Word := []
  chans  : List Nat := []
deriving DecidableEq, Repr, Inhabited

/-- A task descriptor (R258), with what the device keeps beside it: a handler run's x10, x11 and landing slot (R274), a launched
task's granary bounds (R262), its launch, its context, whether its run is a supervisor run (R375), and its rollback count
(R369). -/
structure Desc where
  entry     : BitVec 58
  arg       : BitVec 58 := 0
  slot      : BitVec 2 := 0
  budget    : BitVec 5 := 20
  radius    : BitVec 3 := 0
  stage     : BitVec 8 := 0
  prio      : BitVec 4 := 0
  home      : BitVec 11 := 0
  ctr       : BitVec 22 := 0
  handler   : Option (Word × Word) := none
  landing   : Option Nat := none
  granary   : Option (BitVec 17 × BitVec 17) := none
  launch    : Nat := 0
  ctx       : Nat := 0
  super     : Bool := false
  rollbacks : Nat := 0
deriving DecidableEq, Repr, Inhabited

/-- A fixed-latency result on its way: written when the core's cycle count reaches `due` (R49). -/
structure PendWrite where
  file  : File
  reg   : Nat
  value : Word
  due   : Nat
deriving DecidableEq, Repr, Inhabited

/-- The checking scoreboard's view of a fixed-latency result: the issue distance still missing (R49). -/
structure Score where
  file : File
  reg  : Nat
  left : Nat
deriving DecidableEq, Repr, Inhabited

/-- A message (R254): in an outbox slot, in a forward buffer or in the network. Source and destination are node ids: a logical
cell id, or 2,048 plus a channel id (R251). `va` is the virtual address that a slot was translated from and `lvl` its leaf's level (R342), `pc` the load
that a remote load's freeze names (R379), `phys` a physical index for the messages that name one (R385). -/
structure Msg where
  id      : Nat := 0
  cls     : BitVec 3 := 0
  kind    : BitVec 8 := 0
  src     : Nat := 0
  dst     : Nat := 0
  thr     : Nat := 0
  ctx     : Nat := 0
  opa     : Word := 0
  opb     : Word := 0
  aux     : BitVec 6 := 0
  sat     : BitVec 2 := 0
  scope   : BitVec 3 := 0
  dor     : BitVec 3 := 0
  stroke  : BitVec 32 := 0
  payload : List Word := []
  va      : Option Word := none
  lvl     : Nat := 3
  pc      : Word := 0
  launch  : Nat := 0
  phys    : Nat := 0
  bytes   : Nat := 0
  /-- the descriptor of a TASKMOVE -/
  desc    : Option Desc := none
  seq     : BitVec 16 := 0
  /-- header bits [6:3], which are reserved (R254, R255) -/
  rsv     : BitVec 4 := 0
  /-- a TLBI removed the translation that the slot holds (R342) -/
  retr    : Bool := false
  /-- the slot's place in its thread's program order (R366) -/
  ord     : Nat := 0
deriving DecidableEq, Repr, Inhabited

/-- A variable-latency result on its way (R50). `wait` is the message that a remote load waits for; `laid` are the writes of the forward
buffer and then of the outbox that lie over the line it reads, in their order (R210), and `ord` is its place in the thread's program
order (R366). -/
structure Outst where
  file    : File
  reg     : Nat
  value   : Word
  wait    : Option Nat := none
  size    : Nat := 8
  sext    : Bool := false
  laid    : List Msg := []
  addr    : Word := 0
  poison  : Bool := false
  /-- the thread waits at its load for clean data (R366, ERR_CTL.PRECISE) -/
  held    : Bool := false
  /-- the load is a repeated subject, and its iteration (R47, R374) -/
  rep     : Bool := false
  idx     : BitVec 8 := 0
  ord     : Nat := 0
deriving DecidableEq, Repr, Inhabited

/-- The states of R275: released and waiting for its condition (R211), SENT, WAIT(i). -/
inductive FwdSt where
  | queued
  | sent
  | wait (due : Nat)
deriving DecidableEq, Repr, Inhabited

/-- An entry of a forward buffer (R209), or a message that is retried in the same way (R275): a remote load, an engine's line or
partial result, a fault packet. `inj` numbers its first injection, and `nofill` marks a load whose line a home has invalidated while
the load was on its way (R213). -/
structure FwdEnt where
  msg   : Msg
  st    : FwdSt := .queued
  nacks : Nat := 0
  load  : Bool := false
  inj   : Nat := 0
  nofill : Bool := false
  /-- the writes that a release waits for: ids of forward-buffer entries (R218, R219, R221) -/
  needs : List Nat := []
deriving DecidableEq, Repr, Inhabited

/-- An undo entry (R367): the line's physical address, its bytes before the run first wrote them, and the byte mask. -/
structure Undo where
  line  : Nat
  bytes : List Byte
  mask  : BitVec 64
deriving DecidableEq, Repr, Inhabited

/-- A gradient map entry, bytes 0 to 7 and 8 to 15 (R191). -/
structure GEnt where
  w0 : Word := 0
  w1 : Word := 0
deriving DecidableEq, Repr, Inhabited

/-- An entry of the producer window (R188). -/
structure Prod where
  hdr    : BitVec 17
  addr   : BitVec 22
  stride : BitVec 16
  count  : Nat
  width  : Nat
  depth  : Nat
deriving DecidableEq, Repr, Inhabited

/-- A thread's state (R380). -/
inductive RunSt where
  | free
  | running
  | frozen
  | parked
deriving DecidableEq, Repr, Inhabited

/-- The wide-unit instructions (R150 to R174); the last letter d marks the long form of a matrix or move instruction. -/
inductive WuKind where
  | tcfg | tzero | tld | tst | tldd | tstd | wld | dtld
  | mma | mmas | mmao | mmad | mmasd | mmaod
  | vadd | vsub | vmul | vfma | vmax | vmin | vexp2 | vlog2 | vrcp | vrsq | vtanh
  | vrsum | vrmax | vcvt | vxpose | vbcast | vscale | vcvtd
deriving DecidableEq, Repr, Inhabited

/-- A wide-unit instruction: its element type or pair code, its register numbers, the file of its rd field, its first word as it
stood, and its second word, which for a short matrix form is the one that the tile's configuration implies (R161, R182). `rvs` marks an adjoint that RVS
issued, with the LM offset of its sheaf's first byte and its LEN (R193). -/
structure WuOp where
  kind : WuKind
  fn   : Nat := 0
  d    : Nat := 0
  a    : Nat := 0
  b    : Nat := 0
  e    : Nat := 0
  file : File := .x
  w1   : BitVec 32 := 0
  w2   : BitVec 32 := 0
  rvs  : Option (Nat × Nat) := none
deriving DecidableEq, Repr, Inhabited

/-- An operand entry of a sheaf (R184). -/
structure SEnt where
  flag   : BitVec 2 := 3
  kind   : BitVec 2 := 0
  role   : BitVec 4 := 0
  stride : BitVec 16 := 0
  prod   : BitVec 17 := 0
  addr   : BitVec 22 := 0
deriving DecidableEq, Repr, Inhabited

/-- A captured stream: its first element's LM offset and its stride (R142). -/
structure Stream where
  addr   : BitVec 22 := 0
  stride : BitVec 16 := 0
deriving DecidableEq, Repr, Inhabited

/-- The effects of a started wide-unit instruction that are written at its completion (R145): LM elements in order, a scalar
result, flags, its sheaf and its count for RVS_STAT. -/
structure WuEff where
  lm    : List (Nat × List Byte) := []
  reg   : Option (File × Nat × Word) := none
  flags : BitVec 5 := 0
  olf   : Bool := false
  sheaf : List (Nat × List Byte) := []
  stale : Nat := 0
deriving DecidableEq, Repr, Inhabited

/-- Where a queued wide-unit instruction stands (R144, R145, R147): a faulted one is held once its thread has frozen for it. -/
inductive WuSt where
  | queued
  | started
  | faulted (cause : BitVec 8) (addr : Word) (detail : BitVec 32)
  | held
deriving DecidableEq, Repr, Inhabited

/-- A wide-unit instruction as it was captured at enqueue (R142, R409): its thread, context, slot and address, whether a repeat
carries it, mode, SAT, private SR state, scalar operand, streams, the configuration of the tile it names, its sheaf's place and
entries, and for an adjoint the gradient map, the granary's base and the sheaf's FOLD and CLR. An orphan's task was abandoned. -/
structure WuEnt where
  op     : WuOp
  thr    : Nat
  ctx    : Nat
  slot   : BitVec 2
  pc     : Word
  rep    : Bool := false
  rm     : BitVec 3 := 0
  sat    : BitVec 2 := 0
  seed   : Word := 0
  xs     : Word := 0
  sd     : Stream := {}
  s1     : Stream := {}
  s2     : Stream := {}
  s3     : Stream := {}
  cfg    : Word := 0
  sheaf  : Option (Nat × Nat) := none
  ents   : List SEnt := []
  gmap   : List GEnt := []
  granBase : BitVec 17 := 0
  fold   : BitVec 32 := 0
  clr    : Bool := false
  orphan : Bool := false
  st     : WuSt := .queued
  eff    : WuEff := {}
deriving DecidableEq, Repr, Inhabited

/-- The control registers of a thread (R29 to R31, R179, R196). BUDGET is LOG2 and REMAIN; REMAIN stands as it was at the core
cycle `chargedAt` and runs down while the thread is RUNNING (R269). -/
structure Ctrl where
  prec      : Word := 53
  fcsr      : Word := 0
  srs       : Word := 1
  log2      : BitVec 5 := 20
  remain    : BitVec 32 := 0
  chargedAt : Nat := 0
  scoreEn   : Bool := false
  recd      : Bool := false
  granBase  : BitVec 17 := 0
  granLimit : BitVec 17 := 0
  granHead  : BitVec 17 := 0
  recPol    : BitVec 6 := 0
  stale     : BitVec 16 := 0
  repIdx    : BitVec 8 := 0
deriving DecidableEq, Repr, Inhabited

/-- A thread's copy of SRS and the granary registers for a context slot (R262). -/
structure SlotCopy where
  srs       : Word := 1
  granBase  : BitVec 17 := 0
  granLimit : BitVec 17 := 0
  granHead  : BitVec 17 := 0
deriving DecidableEq, Repr, Inhabited

/-- A piece of a thread's state under one codeword (R364): a register, a granule of the pool, a control register. -/
inductive Spot where
  | reg (file : File) (r : Nat)
  | granule (k : Nat)
  | csr (num : Nat)
deriving DecidableEq, Repr, Inhabited

/-- A pending error (R366): the address of the earliest failing operation, the source of the error as DETAIL codes it, and that
operation's place in the thread's program order. -/
structure PendErr where
  addr : Word
  src  : BitVec 32
  ord  : Nat := 0
deriving DecidableEq, Repr, Inhabited

/-- The run-time side of a thread: its run state, freeze, timing and the run's outbox, undo buffer and pending error. -/
structure Run where
  st       : RunSt := .free
  desc     : Option Desc := none
  lastSlot : BitVec 2 := 0
  copies   : Vector SlotCopy 4 := Vector.replicate 4 {}
  readyAt  : Nat := 0
  freeAt   : Nat := 0
  ending   : Bool := false
  halting  : Bool := false
  restart  : Bool := false
  /-- the pending error (R366) -/
  pendErr  : Option PendErr := none
  /-- instructions that the run has issued, which orders its operations (R366) -/
  ops      : Nat := 0
  outbox   : List Msg := []
  /-- outbox slots and payload bytes that the run has taken so far (R239) -/
  boxSlots : Nat := 0
  boxBytes : Nat := 0
  undo     : List Undo := []
  cause    : BitVec 8 := 0
  ign      : Bool := false
  stepping : Bool := false
  /-- END has entered its step 3 (R267) -/
  leaving  : Bool := false
  /-- the messages that a FENCE or a TLBI under way waits for (R218, R342) -/
  fence    : Option (List Nat) := none
  /-- the sheaves that an RVS under way has passed (R193) -/
  rvsDone  : Nat := 0
  packet   : List Word := []
  /-- tiles that the run has written, and whether it has read the weight buffer or each decode table (R368) -/
  wrote    : BitVec 8 := 0
  readWb   : Bool := false
  readTab  : BitVec 4 := 0
  /-- the next checker mismatches to come: 1 executes once more, 2 or more raises 0x51 (R362; an input of the environment) -/
  mismatch : Nat := 0
  /-- what of the thread's state holds an uncorrectable error (R364; an input of the environment) -/
  bad      : List Spot := []
  /-- the words of a repeat under way, as they were fetched and decoded before its first iteration (R47) -/
  chain    : Option (List W32) := none
  /-- a REDELIVER under way, whose undo waits for invalidations (R213, R369, R380) -/
  rolling  : Bool := false
deriving DecidableEq, Repr, Inhabited

/-- A hardware thread (R26). -/
structure Thread where
  x       : Vector Word 32 := Vector.replicate 32 0
  f       : Vector Word 32 := Vector.replicate 32 0
  w       : Vector Word 32 := Vector.replicate 32 0
  pool    : Store 16 := []
  q       : Vector Word 8 := Vector.replicate 8 0
  lpStart : Vector Word 4 := Vector.replicate 4 0
  lpEnd   : Vector Word 4 := Vector.replicate 4 0
  lpCount : Vector Word 4 := Vector.replicate 4 0
  pc      : BitVec 58 := 0
  ctrl    : Ctrl := {}
  /-- full/empty bits, 1 full (R26, R50) -/
  fullX   : BitVec 32 := -1
  fullF   : BitVec 32 := -1
  fullW   : BitVec 32 := -1
  outs    : List Outst := []
  pend    : List PendWrite := []
  score   : List Score := []
  gmap    : List GEnt := []
  prods   : List Prod := []
  run     : Run := {}
deriving DecidableEq, Repr, Inhabited

/-- A line of a first-level data cache (R212). -/
structure L1Line where
  line  : Nat
  bytes : List Byte
deriving DecidableEq, Repr, Inhabited

/-- A core: its cycle count, the thread that issued last (R49), its wide-unit dispatch queue (R140), its operating-point request
(R302) and its L1D (R212). -/
structure Core where
  now  : Nat := 0
  last : Nat := 3
  /-- the model's own: threads that could not issue in this cycle (log 2) -/
  tried : List Nat := []
  wuq  : List WuEnt := []
  req  : BitVec 3 := 4
  l1d  : List L1Line := []
deriving DecidableEq, Repr, Inhabited

/-- A tile register: its configuration in the layout of TCFG_k and its elements (R150). -/
structure Tile where
  cfg : Word := 0
  el  : Store 48 := []
deriving DecidableEq, Repr, Inhabited

/-- A decode table: entries of E8M10 and MODE (R85). -/
structure DTab where
  ent  : Store 19 := []
  mode : BitVec 2 := 0
deriving DecidableEq, Repr, Inhabited

/-- The wide unit of a cell (R34, R148 to R155, R363) and its ballast sequencer (R322, R323). -/
structure Wide where
  tiles    : Vector Tile 8 := Vector.replicate 8 {}
  dtabs    : Vector DTab 4 := Vector.replicate 4 {}
  wb       : Store 8 := []
  slots    : Word := 0
  inForce  : Word := 0
  rotation : Nat := 0
  rrCtx    : Nat := 3
  rrCore   : Vector Nat 4 := Vector.replicate 4 3
  recheck  : BitVec 8 := 0
  mismatch : Nat := 0
  starts   : Nat := 0
  ballasts : Nat := 0
  lastWin  : Nat := 0
  target   : Nat := 0
  fade     : Nat := 0
  peak     : Nat := 0
  limit    : Option Nat := none
  /-- what holds an uncorrectable error (R364; an input of the environment): tile k at k, dtab_k at 8 + k, weight-buffer line k at
  16 + k -/
  bad      : List Nat := []
deriving DecidableEq, Repr, Inhabited

/-- The states of an arm entry that is not FREE (R292). -/
inductive ArmSt where
  | reserved
  | armed
  | fired
deriving DecidableEq, Repr, Inhabited

/-- An arm entry (R260, R292): the counter's LM offset gives its bank; `msg` is the ARM message that a RESERVED one waits for. -/
structure ArmEnt where
  ctr   : BitVec 22
  st    : ArmSt
  desc  : Desc
  msg   : Nat := 0
deriving DecidableEq, Repr, Inhabited

/-- Where a fired descriptor waits: in its arm entry, in a fired place, or in the thread whose run was rolled back (R261). -/
inductive FiredAt where
  | arm
  | place
  | thread (t : Nat)
deriving DecidableEq, Repr, Inhabited

/-- A fired descriptor (R259, R261). -/
structure FiredEnt where
  desc : Desc
  place : FiredAt
deriving DecidableEq, Repr, Inhabited

/-- An entry of a ready bank (R263, R264), and whether balance is moving it (R277). -/
structure ReadyEnt where
  desc : Desc
  age  : Nat
  lead : Nat
  pass : Nat
  moving : Bool := false
deriving DecidableEq, Repr, Inhabited

/-- A balance move (R277): the entry's AGE, the neighbour, the writes that it waits for, and its message once it is sent. -/
structure Move where
  age   : Nat
  dst   : Nat
  needs : List Nat
  msg   : Option Nat := none
deriving DecidableEq, Repr, Inhabited

/-- A barrier timer (R280): the barrier's LM offset, the fabric cycle it started, and whether it is suspended. -/
structure Timer where
  off       : Nat
  started   : Nat
  suspended : Bool := false
deriving DecidableEq, Repr, Inhabited

/-- The ready structure, arm tables and handler table of a cell (R259 to R281). -/
structure Sched where
  arms     : List ArmEnt := []
  fired    : List FiredEnt := []
  ready    : Vector (List ReadyEnt) 8 := Vector.replicate 8 []
  overdue  : List Nat := []
  ages     : Nat := 0
  insPtr   : Nat := 0
  gen      : BitVec 32 := 1
  handlers : Vector Word 64 := Vector.replicate 64 0
  inbox    : Word := 0
  landing  : List Nat := []
  balCtl   : Word := 0x1208
  moves    : List Move := []
  barTmo   : Word := 2000000
  timers   : List Timer := []
  /-- barriers whose generation found no free timer (R280), by LM offset -/
  untimed  : List Nat := []
  ctxSt    : BitVec 8 := 0
  slotCtx  : Vector (Option Nat) 4 := Vector.replicate 4 none
  park     : BitVec 16 := 0
deriving DecidableEq, Repr, Inhabited

/-- A directory entry (R212, R214): an overflowed one names its 256-byte entry in the overflow area. -/
structure DirEnt where
  line    : Nat
  sharers : List Nat
  ovf     : Bool := false
  place   : Nat := 0
deriving DecidableEq, Repr, Inhabited

/-- A request that waits in a bank's pending slots for invalidation acknowledgements (R213). One with an owner stands for a write of the
home node's own, which makes it when its turn has come: a thread's, at the thread's number, core k's wide unit instruction's, at 16 + k, or
an engine command's or an arrived message's, at 32 + its id. -/
structure PendReq where
  msg   : Msg
  line  : Nat
  left  : List Nat
  owner : Option Nat := none
deriving DecidableEq, Repr, Inhabited

/-- A copy or collective command in an engine (R224, R242 to R248). `held` is a LINKMAP's hold (R348), `port` the optical port of
its destination, `got` the participants whose contribution is combined, `acc` the exact sums of a bfloat16 SUM; `rpos` source bytes are
read, of which `buf` are not yet sent; `lines` are the messages that are not yet performed, with their nodes and bytes; a command that is
`closing` has found its counters, of which those of `todo`, by node and offset, are still to be decremented. -/
structure EngCmd where
  id     : Nat
  kind   : BitVec 8
  ctx    : Nat
  slot   : BitVec 2
  thr    : Nat
  launch : Nat
  scope  : BitVec 3
  w1     : BitVec 32
  w2     : BitVec 32
  dst    : Word
  src    : Word
  len    : Nat
  ctr    : Word
  hasCtr : Bool := false
  begun  : Bool := false
  held   : Bool := false
  port   : Option Nat := none
  /-- the port's GEN when the command was pushed (R348) -/
  gen    : BitVec 8 := 0
  target : Nat := 0
  pos    : Nat := 0
  done   : Nat := 0
  status : BitVec 8 := 0
  fail   : Word := 0
  stopped : Bool := false
  got    : List Nat := []
  acc    : List (Int × Int) := []
  sent   : Bool := false
  rpos   : Nat := 0
  buf    : List Byte := []
  lines  : List (Nat × Nat × Nat) := []
  closing : Bool := false
  todo   : List (Nat × Nat) := []
deriving DecidableEq, Repr, Inhabited

/-- A contribution that reached the root before the root's own command, or a result that reached a participant before its own (R247). -/
structure Contrib where
  msg : Msg
deriving DecidableEq, Repr, Inhabited

/-- The memory side of a cell: directory, forward buffer, engines and their result FIFOs (R209 to R215, R236, R241), and the
sequence numbers by 8 × destination + class (R254). -/
structure MemSide where
  seqs    : List (Nat × BitVec 16) := []
  dir     : List DirEnt := []
  pending : List PendReq := []
  dirOvf  : Word := 0
  fwd     : List FwdEnt := []
  ctrErr  : Word := 0
  engines : List EngCmd := []
  held    : List Contrib := []
  fifoC   : Vector (List Word) 4 := Vector.replicate 4 []
  fifoL   : Vector (List Word) 4 := Vector.replicate 4 []
deriving DecidableEq, Repr, Inhabited

/-- The thermal migration of a cell (R320): the source's and the target's physical index, the fabric cycle in which the pause began, the
phase, and the forward-buffer entries that must drain. -/
structure Migration where
  began  : Nat
  source : Nat
  target : Nat
  phase  : Nat
  drain  : List Nat := []
deriving DecidableEq, Repr, Inhabited

/-- The power side of a cell (R311 to R316). -/
structure CellPower where
  temp : BitVec 8 := 0
  hot  : Bool := false
  ret  : Bool := false
  ceil : BitVec 3 := 7
  op   : BitVec 3 := 4
  /-- the last fabric cycle in which something other than a thread of the cell was found busy (R315) -/
  busyAt : Nat := 0
  hotSince : Option Nat := none
  mig  : Option Migration := none
deriving DecidableEq, Repr, Inhabited

/-- A router's view of one neighbour (R384, R386, R389). -/
structure Vote where
  last    : BitVec 32 := 0
  acc     : BitVec 6 := 0
  round   : BitVec 4 := 0
  st      : BitVec 3 := 0
  judge   : BitVec 4 := 0
  missed  : BitVec 2 := 0
  seen    : Bool := false
  /-- the fabric cycle of the last stroke, 0 where none has come -/
  lastAt  : Nat := 0
  strokes : Nat := 0
  msgs    : Nat := 0
  malf    : Nat := 0
  closed  : Bool := false
  /-- the neighbour's ready depth as its last stroke gave it (R277, R383) -/
  depth   : Nat := 0
deriving DecidableEq, Repr, Inhabited

/-- One of a cell's links: its width, the lanes lost in each group (R397, R398), and whether its ring is routed around it (R399). -/
structure Link where
  width  : BitVec 4
  lost   : Vector Nat 8 := Vector.replicate 8 0
  around : Bool := false
deriving DecidableEq, Repr, Inhabited

/-- Heartbeat, vote and link state of a cell's fabric die (R383 to R400). -/
structure NetSide where
  stroke  : BitVec 32 := 1
  votes   : Vector Vote 6 := Vector.replicate 6 {}
  links   : Vector Link 6 := #v[{ width := 1 }, { width := 1 }, { width := 1 }, { width := 1 }, { width := 4 }, { width := 4 }]
  lanerep : BitVec 16 := 0
  cf      : Bool := false
  cd      : Bool := false
  /-- the stroke transmitter has failed while the count of strokes runs on (an input of the environment) -/
  mute    : Bool := false
  frozen  : Bool := false
deriving DecidableEq, Repr, Inhabited

/-- Error registers and fault rings of a cell (R371 to R375). `shadow` is the sill's record of what software last wrote to each
supervisor register (R392). -/
structure ErrSide where
  ce       : BitVec 16 := 0
  ue       : BitVec 16 := 0
  rollback : BitVec 16 := 0
  chkm     : BitVec 16 := 0
  ctl      : Word := 3
  faultQ   : Vector Word 4 := Vector.replicate 4 0
  grants   : Vector Word 4 := Vector.replicate 4 0
  seq      : BitVec 32 := 0
  touch    : Word := 0
  shadow   : List (Nat × Word) := []
deriving DecidableEq, Repr, Inhabited

/-- A cell, or a channel core, which uses the parts it has (R17, R34, R251). -/
structure Cell where
  threads : List (Nat × Thread) := []
  cores   : Vector Core 4 := Vector.replicate 4 {}
  wide    : Wide := {}
  sched   : Sched := {}
  mem     : MemSide := {}
  power   : CellPower := {}
  net     : NetSide := {}
  err     : ErrSide := {}
deriving DecidableEq, Repr, Inhabited

/-- A context-table entry: eight committed words and the staged ones, and whether a teardown runs (R328 to R330). -/
structure CtxEnt where
  words  : Vector Word 8 := Vector.replicate 8 0
  staged : Vector Word 8 := Vector.replicate 8 0
  busy   : Bool := false
  /-- the fabric cycle in which a teardown's ports began to drain (R333, R348) -/
  drain  : Option Nat := none
deriving DecidableEq, Repr, Inhabited

/-- A cached translation (R338, R339): the die (0 to 7 a fabric die, 8 the sill), the context, the level of the leaf, the virtual
page number at that level, and the leaf. -/
structure TlbEnt where
  die   : Nat
  ctx   : Nat
  level : Nat
  vpn   : Nat
  leaf  : Word
deriving DecidableEq, Repr, Inhabited

/-- A queued TLB miss (R338). -/
structure Miss where
  die : Nat
  ctx : Nat
  va  : Word
deriving DecidableEq, Repr, Inhabited

/-- An optical frame (R350): its sequence number, the wavelength whose number its lane tag gives, and its flit. -/
structure LaneFrame where
  seq  : BitVec 24
  lane : BitVec 8
  flit : List Word
deriving DecidableEq, Repr, Inhabited

/-- A message of the peer that the home banks perform at an optical port (R345): the messages of it that are not yet performed, and the flit
that answers it then. -/
structure Owed where
  ids   : List Nat
  reply : List Word
deriving DecidableEq, Repr, Inhabited

/-- An optical port (R344 to R351). -/
structure Port where
  gen      : BitVec 8 := 0
  parked   : BitVec 8 := 0
  wlit     : BitVec 8 := 0
  peer     : BitVec 12 := 0
  peerPort : BitVec 3 := 0
  wake     : Bool := false
  st       : BitVec 3 := 0
  wthresh  : BitVec 16 := 0
  autowake : Bool := false
  park     : BitVec 8 := 0
  minw     : BitVec 3 := 0
  parkReq  : Option (BitVec 8) := none
  /-- the flits of the transmit queue, and the frames that the peer has not acknowledged (R348, R350) -/
  queue    : List (List Word) := []
  unacked  : List LaneFrame := []
  /-- the sequence number of the next frame, the number k of the next flit, and the flit s at which the stripe took effect (R350) -/
  txSeq    : BitVec 24 := 0
  flitNo   : Nat := 0
  flit0    : Nat := 0
  /-- the wavelengths that carry the flits, whose number is STRIPE (R346, R350) -/
  lanes    : BitVec 8 := 0
  /-- a park under way: the fabric cycle in which the parked wavelengths leave the stripe (R351) -/
  narrow   : Option Nat := none
  /-- the queue stood above WTHRESH when it was last looked at, and a rise has called for a wake that is still to begin (R351, R361) -/
  above    : Bool := false
  call     : Bool := false
  /-- the messages that went to the peer and that it has not answered (R345) -/
  away     : List Msg := []
  /-- the next frame that the receiver delivers, the flits of the message under way (R350), and what is owed to the peer (R345) -/
  rxSeq    : BitVec 24 := 0
  rxFlits  : List (List Word) := []
  owed     : List Owed := []
deriving DecidableEq, Repr, Inhabited

/-- A command the cox cores have taken and not completed (R283), with its TAG: a LINKMAP's ports, their records and its phase
(R348), or a CTXSET drain. -/
inductive Pending where
  | none
  | linkmap (tag mask recs phase : Nat)
  | drain (tag ctx : Nat)
deriving DecidableEq, Repr, Inhabited

/-- The command queue and the host fault ring (R282, R377), the launches, and the launch sequence number (R36). -/
structure Cox where
  cqBase    : Word := 4
  cqCbase   : Word := 0
  cqHead    : BitVec 32 := 0
  cqTail    : BitVec 32 := 0
  hfqBase   : Word := 4
  hfqHead   : BitVec 32 := 0
  hfqTail   : BitVec 32 := 0
  hfqLost   : BitVec 32 := 0
  pending   : Pending := .none
  launches  : List Launch := []
  launchSeq : Word := 0
  tlbiAddr  : Word := 0
  tlbiCtl   : Word := 0
  tlbiWait  : List Nat := []
  msix      : List Nat := []
  teardowns : List Nat := []
deriving DecidableEq, Repr, Inhabited

/-- Device power (R311 to R318, R325, R326): `ocCause` is held across reset; `present` are the conditions still there. -/
structure DevPower where
  pmCtl    : Word := 0x4007
  ocCause  : BitVec 8 := 0
  present  : BitVec 8 := 0
  limit    : BitVec 3 := 7
  watts10  : BitVec 13 := 0
  watts    : BitVec 13 := 0
  bwin     : Bool := false
  recovery : Bool := false
  /-- the fabric cycles at which the window opened and the recovery began (R312) -/
  bwinAt   : Nat := 0
  recAt    : Nat := 0
  flow     : BitVec 8 := 0
  inlet    : BitVec 8 := 0
  /-- the coolant is outside its limits (R325, R326) -/
  warm     : Bool := false
  standbyLost : Bool := false
deriving DecidableEq, Repr, Inhabited

/-- The security block (R353 to R356). -/
structure Security where
  boot     : BitVec 2 := 0
  key      : Bool := false
  tamper   : Bool := false
  glitch   : Bool := false
  overtemp : Bool := false
  killed   : Bool := Config.fusedKilled
  /-- an alarm has stopped the device, until the next power-up (R355) -/
  halted   : Bool := false
  /-- the sill firmware that has been verified (R353, R354) -/
  firmware : List Byte := []
  mailbox  : List Byte := []
deriving DecidableEq, Repr, Inhabited

/-- A router's port to a fenced physical cell (R386): the vote's fields, and the periods with only good MNT strokes since the APPEAL. -/
structure Appeal where
  vote : Vote
  good : Nat := 0
deriving DecidableEq, Repr, Inhabited

/-- A physical cell (R13, R319, R395, R396): fenced, the appeals it has been granted, the coordinate it may not take again, its
last sample, and the answers to its appeal. -/
structure Phys where
  fenced  : Bool := false
  appeals : Nat := 0
  oldLid  : Option Nat := none
  temp    : BitVec 8 := 0
  testing : Bool := false
  appealing : Bool := false
  dead    : Bool := false
  asked   : List Nat := []
  /-- the ports that the cell's old neighbours hold closed against it, by neighbour (R386, R388) -/
  ports   : List (Nat × Appeal) := []
  /-- the number of the cell's next stroke and the periods in which it still strokes on MNT (R383, R395), and whether its compute die
  fails the probe (CD, an input of the environment) -/
  stroke  : BitVec 32 := 1
  left    : Nat := 0
  erratic : Bool := false
  /-- no spare stood free for the cell, and its coordinate stays FENCED (R394) -/
  unmapped : Bool := false
  admits  : List Nat := []
  refused : Bool := false
deriving DecidableEq, Repr, Inhabited

/-- A bulk-space line that a loft layer holds (R9, R226): its physical address, its layer, and whether HBM still holds an older value. -/
structure LoftLine where
  line  : Nat
  layer : Nat
  dirty : Bool
deriving DecidableEq, Repr, Inhabited

/-- What power-up will find (R403; an input of the environment): bond groups with failed lanes, by cell, direction, group and count; loft
layers that fail their check; physical cells that fail their self-test. -/
structure Found where
  lanes  : List (Nat × Nat × Nat × Nat) := []
  layers : List Nat := []
  cells  : List Nat := []
deriving DecidableEq, Repr, Inhabited

/-- The loft, DEV_STAT's counts and the fencing register (R24, R390, R402, R405). -/
structure DevMisc where
  ready    : Bool := false
  step     : BitVec 3 := 0
  spares   : BitVec 8 := 128
  remapped : BitVec 8 := 0
  unmapped : BitVec 8 := 0
  fenceCtl : Word := 0x10000402
  dord     : Vector (BitVec 3) 6 := #v[0, 0, 0, 5, 0, 0]
  loftSt   : Vector (BitVec 2) 2 := Vector.replicate 2 0
  loftLost : BitVec 16 := 0
  /-- the lines that the layers hold, oldest first, and counters HIT, MISS, WBACK and EVICT of each layer (R24) -/
  loft     : List LoftLine := []
  loftCnt  : Vector (Vector Word 4) 2 := Vector.replicate 2 (Vector.replicate 4 0)
  /-- debug-window writes held until their thread has settled (R378) -/
  dbgHeld  : List (BitVec 48 × Word) := []
  stopped  : Bool := false
  /-- bulk lines lost with a loft layer: poison whose source is the loft (R401) -/
  loftBad  : List Nat := []
  found    : Found := {}
deriving DecidableEq, Repr, Inhabited

/-- One entry of the model's own schedule (log 2): a step of the device or of the outside world, or an issue of one core. -/
inductive Turn where
  | event (i : Instr)
  | core (node k : Nat)
deriving DecidableEq, Repr, Inhabited

/-- The device. -/
structure State where
  /-- memory by physical address (R22): LM, channel memory, bulk space, host memory -/
  mem      : Store 8
  /-- poisoned lines, by physical address (R365) -/
  poison   : List Nat
  /-- cells and channel cores by node id; one that is not listed is as R404 leaves it. The network interface of an optical port stands at
  the port's own number (log 18), and only its memory side is used -/
  cells    : List (Nat × Cell)
  /-- the eight LPT copies, entry i of deck d at 2048 d + i; one not listed holds the reset mapping (R14, R15) -/
  lpt      : List (Nat × BitVec 32)
  phys     : List (Nat × Phys)
  ctxs     : List (Nat × CtxEnt)
  tlb      : List TlbEnt
  walks    : List Miss
  misses   : List Miss
  ports    : Vector Port 8
  cox      : Cox
  power    : DevPower
  sec      : Security
  misc     : DevMisc
  /-- messages in flight, in injection order (R207) -/
  net      : List Msg
  nextId   : Nat
  /-- fabric cycles since DEV_READY (R111) -/
  fab      : Nat
  /-- the model's own: how many free values have been drawn (log 4) -/
  draws    : Nat
  /-- the model's own: the node and thread whose turn it is, and whether it has had its turn (log 2) -/
  cur      : Nat × Nat
  blocked  : Bool
  /-- the model's own: what comes next, in order, where it does not go by the model's default order (log 2) -/
  schedule : List Turn
  /-- the model's own: fabric cycles that each coming step takes; 1 when the list has ended (log 3) -/
  ticks    : List Nat
deriving DecidableEq, Repr, Inhabited

/-- The physical deck at a logical z (R12). -/
def deckOfZ (z : Nat) : Nat := [0, 2, 4, 6, 7, 5, 3, 1].getD z 0

/-- The physical index of a position (R264): py × 16 + px + 272 × deck. -/
def physIndex (px py deck : Nat) : Nat := py * 16 + px + 272 * deck

/-- The reset LPT entry of a logical cell (R13, R15). -/
def lptReset (i : Nat) : BitVec 32 :=
  BitVec.ofNat 32 (deckOfZ (i / 256) * 512 + i / 16 % 16 * 16 + i % 16)

/-- The physical index that an LPT entry names. -/
def lptPhys (e : BitVec 32) : Nat :=
  physIndex (e.extractLsb' 0 4).toNat (e.extractLsb' 4 5).toNat (e.extractLsb' 9 3).toNat

/-- A node as R404 leaves it: registers at their reset values, SRAM zero, and the pop generator at 1 + the physical cell index
(R264); a channel core's generator likewise starts at 1 + its channel id (log 6). -/
def Cell.init (node : Nat) : Cell :=
  { sched := { gen := BitVec.ofNat 32 (1 + if node < Config.cells then lptPhys (lptReset node) else node - Config.cells) } }

/-- The device right after reset and before power-up (R403): every register at its reset value, memory with nothing listed, and
POWER_UP as the step to come. -/
def State.reset : State :=
  { mem := [], poison := [], cells := [], lpt := [], phys := [], ctxs := [], tlb := [], walks := [], misses := []
    ports := Vector.replicate 8 {}, cox := {}, power := {}, sec := {}, misc := {}, net := [], nextId := 0, fab := 0, draws := 0
    cur := (0, 0), blocked := true, schedule := [.event .powerUp], ticks := [] }

end Sys2Proof.Machine
end

