-- ==== Sys2Proof/Machine/Ops.lean ====
section
/-! DEFINITION. The shared operations over nodes, registers' homes, memory and threads: reading and writing a bank (R208, R209,
R213, R365, R367), the checks of an offset access (R119), the core clock and the budget (R49, R269), taking a trap (R373 to R377)
and resuming from one (R380). -/

namespace Sys2Proof.Machine

/-- What an instruction answers. -/
abbrev Out := Host.Outcome State Fault Refusal

/-! ### Vectors and lists -/

/-- Entry `i` of a register file; beyond its end the default, which no decoded instruction reaches (R39). -/
def vget {α : Type} [Inhabited α] {n : Nat} (v : Vector α n) (i : Nat) : α := v[i]?.getD default
/-- Sets entry `i`. -/
def vset {α : Type} {n : Nat} (v : Vector α n) (i : Nat) (x : α) : Vector α n := v.setIfInBounds i x

/-- The number that bytes hold, lowest first (R2). -/
def leNat : List Byte → Nat
  | [] => 0
  | b :: bs => b.toNat + 256 * leNat bs
/-- The `n` low bytes of a number, lowest first. -/
def natBytes : Nat → Nat → List Byte
  | 0, _ => []
  | n + 1, v => BitVec.ofNat 8 v :: natBytes n (v / 256)
/-- Bits [lo + n - 1 : lo] of a number. -/
def bitsOf (v lo n : Nat) : Nat := v >>> lo % 2 ^ n
/-- A value of one bit. -/
def bit (b : Bool) : Nat := if b then 1 else 0

/-! ### Nodes -/

/-- The node is a channel core (R251). -/
def isChan (n : Nat) : Bool := decide (Config.cells ≤ n)
/-- The channel id of a channel core's node. -/
def chanOf (n : Nat) : Nat := n - Config.cells
/-- The device has that node (R10, R20). -/
def nodeOk (n : Nat) : Bool := decide (n < Config.cells + Config.channels)
/-- Hardware threads of a node (R17, R251). -/
def threadsOf (n : Nat) : Nat := if isChan n then 4 else 16
/-- The physical address of a node's local memory (R23, R252). -/
def nodeBase (n : Nat) : Nat := if isChan n then 0x410000000000 + 0x40000 * chanOf n else n * Config.aperture
/-- The first offset past a node's local memory (R18, R251). -/
def nodeLimit (n : Nat) : Nat := if isChan n then Config.cmBytes else Config.lmBytes
/-- Fired places and ready places of a node, and the size of its forward buffer (R251, R261, R263). -/
def firedPlaces (n : Nat) : Nat := if isChan n then 16 else 64
def readyBanks (n : Nat) : Nat := if isChan n then 1 else 8
def fwdPlaces (n : Nat) : Nat := if isChan n then 128 else 512
def armPlaces (n : Nat) : Nat := if isChan n then 256 else 1024
/-- The bank unit of an offset (R18): one in a channel core. -/
def bankOf (n off : Nat) : Nat := if isChan n then 0 else off / 64 % 3

/-- Logical coordinates of a cell id (R10). -/
def xOf (n : Nat) : Nat := n % 16
def yOf (n : Nat) : Nat := n / 16 % 16
def zOf (n : Nat) : Nat := n / 256 % 8
def cellId (x y z : Nat) : Nat := z * 256 + y * 16 + x
/-- The neighbour in direction 0 to 5, +x, -x, +y, -y, +z, -z (R11). -/
def neighbour (n d : Nat) : Nat :=
  match d with
  | 0 => cellId ((xOf n + 1) % 16) (yOf n) (zOf n)
  | 1 => cellId ((xOf n + 15) % 16) (yOf n) (zOf n)
  | 2 => cellId (xOf n) ((yOf n + 1) % 16) (zOf n)
  | 3 => cellId (xOf n) ((yOf n + 15) % 16) (zOf n)
  | 4 => cellId (xOf n) (yOf n) ((zOf n + 1) % 8)
  | _ => cellId (xOf n) (yOf n) ((zOf n + 7) % 8)
/-- The direction back. -/
def backDir (d : Nat) : Nat := if d % 2 = 0 then d + 1 else d - 1

/-- The coordinate lies in `[o, o + e)` of a ring of `m` positions. -/
def ringIn (m o e c : Nat) : Bool := decide ((c + m - o % m) % m < e)
/-- The cell lies in the box (R36); a box may wrap the torus (R328). -/
def Region.has (r : Region) (n : Nat) : Bool :=
  !isChan n && ringIn 16 r.ox r.ex (xOf n) && ringIn 16 r.oy r.ey (yOf n) && ringIn 8 r.oz r.ez (zOf n)
/-- The cells of a box, in increasing coordinates. -/
def Region.cells (r : Region) : List Nat :=
  (List.range r.ez).flatMap fun z => (List.range r.ey).flatMap fun y =>
    (List.range r.ex).map fun x => cellId ((r.ox + x) % 16) ((r.oy + y) % 16) ((r.oz + z) % 8)
/-- A box packed as cw.244 and cw.245 (R36). -/
def Region.ofWords (o e : Nat) : Region :=
  { ox := bitsOf o 0 8, oy := bitsOf o 8 8, oz := bitsOf o 16 8, ex := bitsOf e 0 8, ey := bitsOf e 8 8, ez := bitsOf e 16 8 }

/-! ### Cells and threads -/

def State.cell (s : State) (n : Nat) : Cell := assocGet (Cell.init n) s.cells n
def State.setCell (s : State) (n : Nat) (c : Cell) : State := { s with cells := assocSet s.cells n c }
def State.modCell (s : State) (n : Nat) (f : Cell → Cell) : State := s.setCell n (f (s.cell n))
def Cell.thread (c : Cell) (t : Nat) : Thread := assocGet {} c.threads t
def Cell.setThread (c : Cell) (t : Nat) (th : Thread) : Cell := { c with threads := assocSet c.threads t th }
def State.thread (s : State) (n t : Nat) : Thread := (s.cell n).thread t
def State.setThread (s : State) (n t : Nat) (th : Thread) : State := s.modCell n fun c => c.setThread t th
def State.modThread (s : State) (n t : Nat) (f : Thread → Thread) : State := s.setThread n t (f (s.thread n t))
/-- The core of thread 4k + t: core k of a cell, the one core of a channel core (R17, R251). -/
def coreIx (n t : Nat) : Nat := if isChan n then 0 else t / 4
def State.core (s : State) (n t : Nat) : Core := vget (s.cell n).cores (coreIx n t)
def Cell.modCore (c : Cell) (k : Nat) (f : Core → Core) : Cell := { c with cores := vset c.cores k (f (vget c.cores k)) }
def State.modCore (s : State) (n t : Nat) (f : Core → Core) : State := s.modCell n fun c => c.modCore (coreIx n t) f
def Cell.modMem (c : Cell) (f : MemSide → MemSide) : Cell := { c with mem := f c.mem }
def Cell.modSched (c : Cell) (f : Sched → Sched) : Cell := { c with sched := f c.sched }
def Cell.modWide (c : Cell) (f : Wide → Wide) : Cell := { c with wide := f c.wide }
def Cell.modErr (c : Cell) (f : ErrSide → ErrSide) : Cell := { c with err := f c.err }
def Cell.modPower (c : Cell) (f : CellPower → CellPower) : Cell := { c with power := f c.power }
def Cell.modNet (c : Cell) (f : NetSide → NetSide) : Cell := { c with net := f c.net }
def State.modMem (s : State) (n : Nat) (f : MemSide → MemSide) : State := s.modCell n fun c => c.modMem f
def State.modSched (s : State) (n : Nat) (f : Sched → Sched) : State := s.modCell n fun c => c.modSched f
def State.modWide (s : State) (n : Nat) (f : Wide → Wide) : State := s.modCell n fun c => c.modWide f
def State.modErr (s : State) (n : Nat) (f : ErrSide → ErrSide) : State := s.modCell n fun c => c.modErr f
def Thread.modRun (th : Thread) (f : Run → Run) : Thread := { th with run := f th.run }
def Thread.modCtrl (th : Thread) (f : Ctrl → Ctrl) : Thread := { th with ctrl := f th.ctrl }

/-- The context, context slot, launch and stage of the task that a thread holds (R258). -/
def Thread.ctx (th : Thread) : Nat := th.run.desc.elim 0 Desc.ctx
def Thread.slot (th : Thread) : BitVec 2 := th.run.desc.elim th.run.lastSlot Desc.slot
def Thread.launch (th : Thread) : Nat := th.run.desc.elim 0 Desc.launch
/-- Context table entry (R328) and supervisor privilege (R329). -/
def State.ctxEnt (s : State) (c : Nat) : CtxEnt := assocGet {} s.ctxs c
def State.priv (s : State) (c : Nat) : Bool := (vget (s.ctxEnt c).words 0).getLsbD 62
/-- The launch with that sequence number. -/
def State.launchOf (s : State) (q : Nat) : Option Launch := s.cox.launches.find? fun l => l.seq = q
/-- Some region of the context holds the cell. -/
def State.inRegions (s : State) (ctx n : Nat) : Bool := s.cox.launches.any fun l => decide (l.ctx = ctx) && l.region.has n
/-- The slot in which a node hosts a context. -/
def State.slotOf (s : State) (n ctx : Nat) : Option (BitVec 2) :=
  ([0, 1, 2, 3].find? fun k => vget (s.cell n).sched.slotCtx k = some ctx).map fun k => BitVec.ofNat 2 k

/-- A free value (log 4). -/
def State.free (s : State) : Word := Config.freeWord s.draws
def State.drawn (s : State) : State := { s with draws := s.draws + 1 }

/-! ### The LPT (R14, R15) -/

def State.lptEntry (s : State) (deck lid : Nat) : BitVec 32 := assocGet (lptReset lid) s.lpt (2048 * deck + lid)
def lptState (e : BitVec 32) : Nat := (e.extractLsb' 16 3).toNat
/-- Writes one entry of all eight copies, as the cox cores do; a reserved STATE or a PY above 16 leaves it unchanged. -/
def State.setLpt (s : State) (lid : Nat) (e : BitVec 32) : State :=
  if 2 < lptState e ∨ 16 < (e.extractLsb' 4 5).toNat then s
  else (List.range 8).foldl (fun s d => { s with lpt := assocSet s.lpt (2048 * d + lid) (e &&& 0x70fff#32) }) s
/-- The physical index under a logical cell, and the physical deck on which a node stands, as the copy of deck 0 has it, which the cox
cores write first (log 107). -/
def State.physOf (s : State) (lid : Nat) : Nat := lptPhys (s.lptEntry 0 lid)
def State.deckOf (s : State) (n : Nat) : Nat := if isChan n then 0 else s.physOf n / 272
/-- The entry that a node's network interface reads at an injection, in its own deck's copy (R14); the sill reads that of deck 0, at
whose ports its messages enter (R21). -/
def State.seenEntry (s : State) (src lid : Nat) : BitVec 32 := s.lptEntry (s.deckOf src) lid
def lptWord (phys st : Nat) : BitVec 32 :=
  BitVec.ofNat 32 (st * 65536 + phys / 272 * 512 + phys % 272 / 16 * 16 + phys % 16)
def State.physEnt (s : State) (p : Nat) : Phys := assocGet {} s.phys p
def State.modPhys (s : State) (p : Nat) (f : Phys → Phys) : State := { s with phys := assocSet s.phys p (f (s.physEnt p)) }
/-- The die whose TLB serves a node: its fabric die, or 8 for the sill (R338). -/
def State.dieOf (s : State) (n : Nat) : Nat := if isChan n then 8 else s.deckOf n

/-! ### Address spaces (R22 to R24) -/

inductive Space where
  | cell (n : Nat)
  | chan (n : Nat)
  | bulk
  | dev
  | port (n : Nat)
  | host
  | none
deriving DecidableEq, Repr, Inhabited

/-- The space that a physical address falls in; the hole of an aperture is in none (R22, R23, R24). -/
def spaceOf (pa : Nat) : Space :=
  if pa < 0x200000000 then (if pa % Config.aperture < Config.lmBytes then .cell (pa / Config.aperture) else .none)
  else if pa < 0x10000000000 then .none
  else if pa < 0x1B2D05E0000 then .bulk
  else if pa < 0x400000000000 then .none
  else if pa < 0x800000000000 then
    if 0x410000000000 ≤ pa ∧ pa < 0x410000000000 + 0x40000 * Config.channels then
      .chan (Config.cells + (pa - 0x410000000000) / 0x40000)
    else if 0x600000000000 ≤ pa then .port ((pa - 0x600000000000) / 0x40000000000)
    else .dev
  else if pa < 0x1000000000000 then .host
  else .none

/-- The node whose bank is an address's home, and the offset there (R202, R252). -/
def homeOf (pa : Nat) : Option (Nat × Nat) :=
  match spaceOf pa with
  | .cell n => some (n, pa % Config.aperture)
  | .chan n => some (n, (pa - 0x410000000000) % 0x40000)
  | _ => none

/-- The pause of a thermal migration: nothing issues and no wide-unit instruction starts (R320). -/
def Cell.paused (c : Cell) : Bool := c.power.mig.any fun m => decide (m.phase < 5)

/-! ### Memory -/

/-- `n` bytes from a physical address on. -/
def State.bytes (s : State) (pa n : Nat) : List Byte := s.mem.slice pa n
def State.readNat (s : State) (pa n : Nat) : Nat := leNat (s.bytes pa n)
def State.readWord (s : State) (pa : Nat) : Word := BitVec.ofNat 64 (s.readNat pa 8)
/-- The line of an address (R18). -/
def lineOf (pa : Nat) : Nat := pa / 64 * 64
/-- The line is poisoned (R365). -/
def State.poisoned (s : State) (pa : Nat) : Bool := s.poison.contains (lineOf pa)
/-- Some byte of a range lies in a poisoned line. -/
def State.poisonedIn (s : State) (pa n : Nat) : Bool := s.poison.any fun l => decide (l < pa + n) && decide (pa < l + 64) && decide (0 < n)
def State.setPoison (s : State) (pa : Nat) : State :=
  if s.poisoned pa then s else { s with poison := lineOf pa :: s.poison }
/-- Memory with bytes put in place, and a line that one access wrote whole no longer poisoned (R365). -/
def State.put (s : State) (pa : Nat) (bs : List Byte) : State :=
  { s with mem := s.mem.fill pa bs
           poison := if pa % 64 = 0 ∧ bs.length = 64 then s.poison.filter (fun l => l ≠ pa) else s.poison
           misc := if s.misc.loftBad.isEmpty ∨ pa % 64 ≠ 0 ∨ bs.length ≠ 64 then s.misc
                   else { s.misc with loftBad := s.misc.loftBad.filter (fun l => l ≠ pa) } }

/-! ### The loft (R9, R24, R226) -/

/-- Adds to counter k of a layer (R24): 0 HIT, 1 MISS, 2 WBACK, 3 EVICT. -/
def DevMisc.loftCount (m : DevMisc) (layer k : Nat) : DevMisc :=
  let c := vget m.loftCnt layer
  { m with loftCnt := vset m.loftCnt layer (vset c k (vget c k + 1)) }
/-- The layer that takes a line: which of two that are ON is the part's own choice, the other one caches all of bulk space where one is
off, and none does where both are (R401; log 19). -/
def DevMisc.loftLayer (m : DevMisc) (line : Nat) : Option Nat :=
  let on := fun k : Nat => decide (vget m.loftSt k = 0)
  if on 0 && on 1 then some (bit (Config.loftLayer line)) else if on 0 then some 0 else if on 1 then some 1 else none
/-- Lines of 64 bytes that a layer holds: 1 GiB (R9). -/
def loftLines : Nat := 2 ^ 24
/-- Makes room in a layer: its oldest line leaves, and a dirty one is written back (R24; log 19). -/
def DevMisc.loftEvict (m : DevMisc) (layer : Nat) : DevMisc :=
  if (m.loft.filter fun e => e.layer = layer).length < loftLines then m
  else
    match m.loft.find? fun e => e.layer = layer with
    | none => m
    | some e =>
      let m := ({ m with loft := m.loft.filter fun x => x ≠ e } : DevMisc).loftCount layer 3
      if e.dirty then m.loftCount layer 2 else m
/-- An access to a bulk line at its loft slice (R226): a hit, or a miss that fills the line; a write leaves it dirty. -/
def DevMisc.loftUse (m : DevMisc) (line : Nat) (w : Bool) : DevMisc :=
  match m.loft.find? fun e => e.line = line with
  | some e =>
    ({ m with loft := m.loft.map fun x => if x.line = line then { x with dirty := x.dirty || w } else x } : DevMisc).loftCount e.layer 0
  | none =>
    match m.loftLayer line with
    | none => m
    | some k =>
      let m := (m.loftEvict k).loftCount k 1
      { m with loft := m.loft ++ [{ line := line, layer := k, dirty := w }] }
/-- The dirty lines of a range are written back and stay in their layers (R250). -/
def DevMisc.loftFlush (m : DevMisc) (lo hi : Nat) : DevMisc :=
  (m.loft.filter fun e => e.dirty && decide (lo ≤ e.line) && decide (e.line < hi)).foldl (fun m e =>
    ({ m with loft := m.loft.map fun x => if x = e then { x with dirty := false } else x } : DevMisc).loftCount e.layer 2) m
/-- An access that lies in bulk space passes the loft. -/
def State.loftAccess (s : State) (pa : Nat) (w : Bool) : State :=
  if spaceOf pa = .bulk then { s with misc := s.misc.loftUse (lineOf pa) w } else s

/-- A forward-buffer entry is a load of that line. -/
def FwdEnt.loads (e : FwdEnt) (line : Nat) : Bool := e.load && decide (lineOf (nodeBase e.msg.dst + e.msg.opa.toNat) = line)
/-- All four L1Ds of a cell drop a line, and no load of it that is on its way fills one (R213). -/
def Cell.dropLine (line : Nat) (c : Cell) : Cell :=
  { c with cores := c.cores.map fun k => { k with l1d := k.l1d.filter fun l => l.line ≠ line }
           mem := { c.mem with fwd := c.mem.fwd.map fun e => if e.loads line then { e with nofill := true } else e } }
/-- The directory entry of a line (R212). -/
def State.dirEnt (s : State) (n line : Nat) : Option DirEnt := (s.cell n).mem.dir.find? fun e => e.line = line
/-- The first byte of a 256-byte entry of the overflow area (R214, R215). -/
def State.ovfEntry (s : State) (n place : Nat) : Nat :=
  nodeBase n + ((s.cell n).mem.dirOvf.extractLsb' 8 14).toNat * 256 + 256 * place
/-- Clears a line's directory entry, and its entry of the overflow area (R213, R214). -/
def State.clearDir (s : State) (n line : Nat) : State :=
  let s := match s.dirEnt n line with
    | some e => if e.ovf then { s with mem := s.mem.clear (s.ovfEntry n e.place) (s.ovfEntry n e.place + 256) } else s
    | none => s
  s.modMem n fun m => { m with dir := m.dir.filter fun e => e.line ≠ line }
/-- The invalidation of every sharer of a line, with the acknowledgements, as one step before a write at the bank (R213). -/
def State.dropSharers (s : State) (n line : Nat) : State :=
  match s.dirEnt n line with
  | none => s
  | some e => (e.sharers.foldl (fun s k => s.modCell k (Cell.dropLine line)) s).clearDir n line

/-- The mask bits of `len` bytes from byte `o` of a line (R367). -/
def lineMask (o len : Nat) : BitVec 64 := BitVec.ofNat 64 ((2 ^ len - 1) * 2 ^ o)
/-- Logs a run's own write to a line (R367): the first write copies the line, a 33rd line clears RESTART. -/
def Thread.logWrite (th : Thread) (line : Nat) (before : List Byte) (m : BitVec 64) : Thread :=
  if th.run.undo.any (fun u => u.line = line) then
    th.modRun fun r => { r with undo := r.undo.map fun u => if u.line = line then { u with mask := u.mask ||| m } else u }
  else if th.run.undo.length < 32 then
    th.modRun fun r => { r with undo := r.undo ++ [{ line := line, bytes := before, mask := m }] }
  else th.modRun fun r => { r with restart := false }
/-- Another party's write takes its bytes out of a run's undo (R367). -/
def Thread.unlogWrite (th : Thread) (line : Nat) (m : BitVec 64) : Thread :=
  th.modRun fun r => { r with undo := r.undo.map fun u => if u.line = line then { u with mask := u.mask &&& ~~~m } else u }
/-- The undo buffers of a node's threads at a write by `who`: a thread of the node, or another party. -/
def Cell.logWrite (c : Cell) (who : Option Nat) (line : Nat) (before : List Byte) (m : BitVec 64) : Cell :=
  { c with threads := c.threads.map fun p =>
      (p.1, if who = some p.1 then p.2.logWrite line before m else p.2.unlogWrite line m) }

/-- A write of bytes within one line at its bank (R208, R209): sharers first drop the line, the undo buffers take note, then
the bytes change. `who` is the thread of the home node whose run writes, none for any other party. -/
def State.bankWrite (s : State) (who : Option Nat) (pa : Nat) (bs : List Byte) : State :=
  match homeOf pa with
  | none => s.put pa bs
  | some (n, _) =>
    let line := lineOf pa
    let before := s.bytes line 64
    ((s.dropSharers n line).modCell n fun c => c.logWrite who line before (lineMask (pa % 64) bs.length)).put pa bs

/-- A write of bytes that may span lines, one access a line, in increasing addresses. The number bounds the lines. -/
def State.bankWrites (s : State) (who : Option Nat) (pa : Nat) (bs : List Byte) : Nat → State
  | 0 => s
  | k + 1 =>
    if bs.isEmpty then s
    else
      let n := 64 - pa % 64
      State.bankWrites (s.bankWrite who pa (bs.take n)) who (pa + n) (bs.drop n) k

/-- A write of bytes as a sequence of accesses of `unit` bytes, in increasing addresses (R137, R208). The number bounds them. -/
def State.bankUnits (s : State) (who : Option Nat) (unit pa : Nat) (bs : List Byte) : Nat → State
  | 0 => s
  | k + 1 => if bs.isEmpty then s else State.bankUnits (s.bankWrite who pa (bs.take unit)) who unit (pa + unit) (bs.drop unit) k

def State.modPort (s : State) (n : Nat) (f : Port → Port) : State := { s with ports := vset s.ports n (f (vget s.ports n)) }

/-! ### The clock and the budget -/

/-- The core cycle count of a thread's core. -/
def State.now (s : State) (n t : Nat) : Nat := (s.core n t).now

/-- REMAIN as it stands at a core cycle (R269): cycles of a RUNNING task count. -/
def Thread.remainAt (th : Thread) (now : Nat) : BitVec 32 :=
  if th.run.st = .running then th.ctrl.remain - BitVec.ofNat 32 (min th.ctrl.remain.toNat (now - th.ctrl.chargedAt)) else th.ctrl.remain
/-- Charges the budget up to now. -/
def Thread.charge (th : Thread) (now : Nat) : Thread :=
  th.modCtrl fun c => { c with remain := th.remainAt now, chargedAt := now }

/-- Registers of one file as raw 64-bit images (R44); x0 reads zero (R26). -/
def Thread.reg (th : Thread) (fl : File) (r : Nat) : Word :=
  match fl with
  | .x => if r = 0 then 0 else vget th.x r
  | .f => vget th.f r
  | .w => vget th.w r
  | .q => vget th.q r
  | _ => 0
/-- Writes a register's image; x0 discards writes (R26). -/
def Thread.setReg (th : Thread) (fl : File) (r : Nat) (v : Word) : Thread :=
  match fl with
  | .x => if r = 0 then th else { th with x := vset th.x r v }
  | .f => { th with f := vset th.f r v }
  | .w => { th with w := vset th.w r v }
  | .q => { th with q := vset th.q r v }
  | _ => th
/-- The full/empty bit is full (R50): x0 and every register of a file without such bits always is. -/
def Thread.full (th : Thread) (fl : File) (r : Nat) : Bool :=
  match fl with
  | .x => r == 0 || th.fullX.getLsbD r
  | .f => th.fullF.getLsbD r
  | .w => th.fullW.getLsbD r
  | _ => true
def setBit32 (b : BitVec 32) (k : Nat) (v : Bool) : BitVec 32 :=
  if v then b ||| (1#32 <<< k) else b &&& ~~~(1#32 <<< k)
def Thread.setFull (th : Thread) (fl : File) (r : Nat) (v : Bool) : Thread :=
  match fl with
  | .x => if r = 0 then th else { th with fullX := setBit32 th.fullX r v }
  | .f => { th with fullF := setBit32 th.fullF r v }
  | .w => { th with fullW := setBit32 th.fullW r v }
  | _ => th
/-- Every full/empty bit is full. -/
def Thread.allFull (th : Thread) : Bool :=
  decide (th.fullX ||| 1#32 = BitVec.allOnes 32) && decide (th.fullF = BitVec.allOnes 32) && decide (th.fullW = BitVec.allOnes 32)

/-- A fixed-latency result takes its place by the cycle in which it completes, behind those of the same cycle (R49). -/
def insertDue (p : PendWrite) : List PendWrite → List PendWrite
  | [] => [p]
  | q :: qs => if p.due < q.due then p :: q :: qs else q :: insertDue p qs
/-- Writes the fixed-latency results that are due, in the order in which they complete (R49). -/
def Thread.settle (th : Thread) (now : Nat) : Thread :=
  let due := th.pend.filter fun p => p.due ≤ now
  { due.foldl (fun th p => th.setReg p.file p.reg p.value) th with pend := th.pend.filter fun p => now < p.due }
/-- Writes all of them: a thread that stops issuing lets its issued work finish (R373). -/
def Thread.settleAll (th : Thread) : Thread :=
  { th.pend.foldl (fun th p => th.setReg p.file p.reg p.value) th with pend := [] }

/-! ### Headers (R254) -/

/-- Words 0 to 3 of a header flit: a node's logical id, or its channel id. -/
def Msg.header (m : Msg) (pdst : Nat) : List Word :=
  let node := fun n : Nat => if isChan n then chanOf n else n
  let w0 : Nat := m.cls.toNat + m.rsv.toNat * 2 ^ 3 + bit (isChan m.dst) * 2 ^ 7 + m.kind.toNat * 2 ^ 8 + m.aux.toNat * 2 ^ 16
    + bit (isChan m.src) * 2 ^ 22 + (m.payload.length + 3) / 4 * 2 ^ 23 + m.thr % 16 * 2 ^ 30 + m.ctx % 64 * 2 ^ 34
    + node m.src % 2048 * 2 ^ 40 + node m.dst % 2048 * 2 ^ 51 + pdst * 2 ^ 62 + m.scope.toNat * 2 ^ 74 + m.dor.toNat * 2 ^ 77
    + m.stroke.toNat * 2 ^ 80
  let all := w0 + m.opa.toNat * 2 ^ 112 + m.opb.toNat * 2 ^ 176 + m.seq.toNat * 2 ^ 240
  (List.range 4).map fun i => BitVec.ofNat 64 (bitsOf all (64 * i) 64)
/-- PDST (R252, R254) of a message to a node, as its sender's translation gave it: the physical position of a cell, or the sill port of a
channel core. -/
def Msg.pdst (m : Msg) : Nat :=
  if isChan m.dst then chanOf m.dst / 16 % 16 * 16 + chanOf m.dst % 16
  else m.phys / 272 * 512 + m.phys % 272 / 16 * 16 + m.phys % 16
/-- The physical address that a bank request names. -/
def Msg.pa (m : Msg) : Nat := nodeBase m.dst + m.opa.toNat

/-! ### Routes (R21, R252, R257, R388, R394, R399) -/

/-- The cox cores as the sender or the destination of a message, and a physical cell that has no coordinate (log 18). -/
def coxNode : Nat := 4096
def portNode (p : Nat) : Nat := 4097 + p
def physNode (p : Nat) : Nat := 8192 + p
/-- The optical port of a node (R345). -/
def portAt (n : Nat) : Option Nat := if 4097 ≤ n ∧ n < 4105 then some (n - 4097) else none
/-- The link of a node in a direction is lost (R398). -/
def State.linkDown (s : State) (n d : Nat) : Bool := decide ((vget (s.cell n).net.links d).width = 0)
/-- Its ring is routed around it (R399). -/
def State.linkAround (s : State) (n d : Nat) : Bool := (vget (s.cell n).net.links d).around
/-- Hops of `k` steps in one direction. -/
def hopsFrom (n d : Nat) : Nat → List (Nat × Nat)
  | 0 => []
  | k + 1 => (n, d) :: hopsFrom (neighbour n d) d k
/-- The hops of one dimension (0 x, 1 y, 2 z): the shorter way, + when equal, or the other way round where fault-region routing is
installed on a lost link (R257, R399). -/
def State.hopsIn (s : State) (n dst dim : Nat) : List (Nat × Nat) :=
  let m := if dim = 2 then 8 else 16
  let at_ := fun c : Nat => if dim = 0 then xOf c else if dim = 1 then yOf c else zOf c
  let up := (at_ dst + m - at_ n) % m
  let plus := hopsFrom n (2 * dim) up
  let minus := hopsFrom n (2 * dim + 1) ((m - up) % m)
  let blocked := fun h : List (Nat × Nat) => h.any fun p => s.linkDown p.1 p.2 && s.linkAround p.1 p.2
  let first := if 2 * up ≤ m then plus else minus
  let second := if 2 * up ≤ m then minus else plus
  if blocked first then second else first
/-- The dimensions in the order of DOR (R256). -/
def dorOrder (o : Nat) : List Nat := [[0, 1, 2], [0, 2, 1], [1, 0, 2], [1, 2, 0], [2, 0, 1], [2, 1, 0]].getD o [0, 1, 2]
/-- The route between two positions of the torus, as nodes and directions. -/
def State.torus (s : State) (dor a b : Nat) : List (Nat × Nat) :=
  ((dorOrder dor).foldl (fun (acc : List (Nat × Nat) × Nat) dim =>
    let h := s.hopsIn acc.2 b dim
    (acc.1 ++ h, h.getLast?.elim acc.2 fun p => neighbour p.1 p.2)) ([], a)).1
/-- Where a node's messages enter and leave the torus: a cell at its own router, a channel core at the sill port under position
(ch mod 16, ch div 16) of physical deck 0 (R252), whose router has logical z = 0 (R12, R21). The cox cores and the optical ports use the
port under the other end's column, and a physical cell without a coordinate has no place in the torus (log 18). -/
def torusNode (n other : Nat) : Option Nat :=
  if isChan n then
    (if n < Config.cells + Config.channels then some (cellId (chanOf n % 16) (chanOf n / 16 % 16) 0)
     else if coxNode ≤ n ∧ n < physNode 0 ∧ other < Config.cells then some (cellId (xOf other) (yOf other) 0) else none)
  else some n
/-- The suspect that a vote message names (R385). -/
def Msg.suspect (m : Msg) : Nat := bitsOf m.opa.toNat 0 11
/-- An accusation or a FENCE, which goes around the suspect's router (R385). -/
def Msg.aboutSuspect (m : Msg) : Bool := decide (4 ≤ m.cls.toNat) && (decide (m.kind = 0x12) || decide (m.kind = 0x13))
/-- Hops between two positions. -/
def hopsBetween (a b : Nat) : Nat :=
  let ring := fun m p q : Nat => min ((q + m - p) % m) ((p + m - q) % m)
  ring 16 (xOf a) (xOf b) + ring 16 (yOf a) (yOf b) + ring 8 (zOf a) (zOf b)
/-- A path of at most that many hops that does not enter a router and crosses no lost link, the first in direction order (R385). -/
def State.pathOf (s : State) (sus dst n : Nat) : Nat → Option (List (Nat × Nat))
  | 0 => if n = dst then some [] else none
  | k + 1 =>
    if n = dst then some []
    else (List.range 6).findSome? fun d =>
      let m := neighbour n d
      if m = sus ∨ k < hopsBetween m dst ∨ s.linkDown n d then none else (State.pathOf s sus dst m k).map fun p => (n, d) :: p
/-- The shortest such path. A message of the cox cores enters beside the suspect where the port under its column lies at the suspect (log 18). -/
def State.pathAround (s : State) (sus a b : Nat) : Option (List (Nat × Nat)) :=
  let a := if a = sus then neighbour a 0 else a
  (List.range 24).findSome? fun k => s.pathOf sus b a k
/-- The route of a message (R257, R385). -/
def State.route (s : State) (m : Msg) : List (Nat × Nat) :=
  match torusNode m.src m.dst, torusNode m.dst m.src with
  | some a, some b =>
    if m.aboutSuspect then (s.pathAround m.suspect a b).getD (s.torus m.dor.toNat a b) else s.torus m.dor.toNat a b
  | _, _ => []
/-- The route needs a lost link around which no routing is installed yet (R399). -/
def State.crossesLost (s : State) (m : Msg) : Bool := (s.route m).any fun p => s.linkDown p.1 p.2 && !s.linkAround p.1 p.2
/-- The router that a cell's message enters by its first hop, and its direction towards the sender. -/
def State.entryPort (s : State) (m : Msg) : Option (Nat × Nat) :=
  if isChan m.src then none else (s.route m).head?.map fun p => (neighbour p.1 p.2, backDir p.2)
/-- The router before the last hop to a cell, and its direction towards the destination. -/
def State.exitPort (s : State) (m : Msg) : Option (Nat × Nat) := if isChan m.dst then none else (s.route m).getLast?
def State.vote (s : State) (n d : Nat) : Vote := vget (s.cell n).net.votes d
def State.modVote (s : State) (n d : Nat) (f : Vote → Vote) : State :=
  s.modCell n fun c => c.modNet fun x => { x with votes := vset x.votes d (f (vget x.votes d)) }
/-- The port that a message of its sender enters is closed to the sender (R388), unless the message is MNT traffic. -/
def State.portShut (s : State) (m : Msg) : Bool := decide (m.cls ≠ 5) && (s.entryPort m).any fun p => (s.vote p.1 p.2).closed

/-! ### Injection -/

/-- A fresh message id. -/
def State.takeId (s : State) : State := { s with nextId := s.nextId + 1 }
/-- The STROKE field names what the message is about and not its sender's own stroke (R385). -/
def Msg.tellsStroke (m : Msg) : Bool := decide (4 ≤ m.cls.toNat) && decide (m.kind = 0x12)
/-- Stamps what a message carries from its injection (R14, R254, R256): its sequence number, the translation that its sender's copy of
the LPT gives, the dimension order and the sender's stroke. -/
def State.stamp (s : State) (m : Msg) : State × Msg :=
  let dor := vget s.misc.dord m.cls.toNat
  let phys := if isChan m.dst then m.phys else lptPhys (s.seenEntry m.src m.dst)
  if !nodeOk m.src then (s, { m with dor := dor, phys := phys })
  else
    let key := 8 * m.dst + m.cls.toNat
    let q := assocGet 0 (s.cell m.src).mem.seqs key
    (s.modMem m.src fun k => { k with seqs := assocSet k.seqs key (q + 1) },
      { m with seq := q, phys := phys, dor := dor, stroke := if m.tellsStroke then m.stroke else (s.cell m.src).net.stroke - 1 })
/-- Puts a stamped message into the network. The port of the first hop counts it (R384); a closed port discards it, and a frozen fabric
die injects MNT traffic alone (R388). -/
def State.emit (s : State) (m : Msg) : State :=
  if m.cls ≠ 5 ∧ nodeOk m.src ∧ (s.cell m.src).net.frozen then s
  else
    let s := (s.entryPort m).elim s fun p => s.modVote p.1 p.2 fun v => { v with msgs := v.msgs + 1 }
    if s.portShut m then s else { s with net := s.net ++ [m] }
def State.inject (s : State) (m : Msg) : State :=
  let (s, m) := s.stamp m
  s.emit m
/-- A message of its own: no forward-buffer entry stands for it. -/
def State.send (s : State) (m : Msg) : State := s.takeId.inject { m with id := s.nextId }
/-- Changes the forward-buffer entry of an id. -/
def State.modFwd (s : State) (n id : Nat) (f : FwdEnt → FwdEnt) : State :=
  s.modMem n fun k => { k with fwd := k.fwd.map fun e => if e.msg.id = id then f e else e }
/-- Injects the message of a forward-buffer entry, which keeps it as it was stamped; its first injection is numbered (R207). -/
def State.injectFwd (s : State) (n : Nat) (m : Msg) : State :=
  let (s, m) := s.stamp m
  let k := s.nextId + 1
  (s.takeId.modFwd n m.id fun e => { e with msg := m, st := .sent, inj := if e.inj = 0 then k else e.inj }).emit m
/-- Sends a message that its sender keeps until it is answered (R275). -/
def State.sendKept (s : State) (n : Nat) (m : Msg) (load : Bool) : State :=
  let m := { m with id := s.nextId }
  (s.takeId.modMem n fun k => { k with fwd := k.fwd ++ [{ msg := m, load := load }] }).injectFwd n m

/-! ### Writes of the home node's own to lines with sharers (R209, R213) -/

/-- The sharers that a line's directory entry holds. -/
def State.sharersOf (s : State) (n line : Nat) : List Nat := (s.dirEnt n line).elim [] DirEnt.sharers
/-- Sends the invalidations of a line (R213). -/
def State.invalidate (s : State) (n line : Nat) (ids : List Nat) : State :=
  ids.foldl (fun s k => s.send { cls := 4, kind := 0, src := n, dst := k, opa := BitVec.ofNat 64 line }) s
/-- What waits at a line, in line order. -/
def State.waiting (s : State) (n line : Nat) : List PendReq := (s.cell n).mem.pending.filter fun r => r.line = line
/-- The claims that an owner has on lines, in the order of the lines. -/
def State.claims (s : State) (n owner : Nat) : List PendReq := (s.cell n).mem.pending.filter fun r => r.owner = some owner
/-- Nothing stands in the way of a write to a line: no sharer holds it and nothing waits for it. -/
def State.lineFree (s : State) (n line : Nat) : Bool := (s.waiting n line).isEmpty && (s.sharersOf n line).isEmpty
/-- The turn of a request that waits at a line has come: it is the first there, and no sharer holds the line any more. -/
def State.atHead (s : State) (n : Nat) (r : PendReq) : Bool :=
  r.left.isEmpty && decide ((s.waiting n r.line).head? = some r) && (s.sharersOf n r.line).isEmpty
/-- Puts a claim behind what waits at a line; where nothing does, the invalidations go out at once. -/
def State.putClaim (s : State) (n owner line : Nat) : State :=
  let left := if (s.waiting n line).isEmpty then s.sharersOf n line else []
  (s.modMem n fun k => { k with pending := k.pending ++ [{ msg := {}, line := line, left := left, owner := some owner }] }).invalidate
    n line left
/-- A request of no effect, which waits for acknowledgements that are still to come (log 10). -/
def Msg.idle : Msg := { cls := 7 }
/-- The owner's writes are made, or never will be: what its claims still wait for is waited for without it. -/
def State.unclaim (s : State) (n owner : Nat) : State :=
  if (s.claims n owner).isEmpty then s
  else s.modMem n fun k =>
    { k with pending := (k.pending.filter fun r => !(decide (r.owner = some owner) && r.left.isEmpty)).map fun r =>
        if r.owner = some owner then { r with owner := none, msg := Msg.idle } else r }
/-- Whether an owner's writes to lines may be performed now (R213): every line is free, or the turn of each of its claims has come.
Otherwise it claims them all at once, in increasing order, and waits. -/
def State.claimLines (s : State) (n owner : Nat) (lines : List Nat) : State × Bool :=
  let mine := s.claims n owner
  if mine.isEmpty then
    (if lines.all (s.lineFree n) then (s, true) else (lines.foldl (fun s l => s.putClaim n owner l) s, false))
  else if mine.map PendReq.line = lines then (s, mine.all (s.atHead n))
  else (lines.foldl (fun s l => s.putClaim n owner l) (s.unclaim n owner), false)
/-- The lines of a range of bytes, in increasing addresses. -/
def linesOf (pa len : Nat) : List Nat :=
  if len = 0 then [] else (List.range ((pa % 64 + len + 63) / 64)).map fun k => lineOf pa + 64 * k

/-! ### Fault packets -/

/-- Where the identity of a node stands in a packet (R374). -/
def cellField (n : Nat) : Nat := if isChan n then 0x8000 + chanOf n else n

/-- Words 0 to 3 of a packet (R374). -/
def packetHead (cause flags rep thread cell ctx stage : Nat) (pc addr : Word) (detail seq : BitVec 32) : List Word :=
  [BitVec.ofNat 64 (cause + 256 * (flags + 256 * (rep + 256 * (thread + 256 * (cell + 65536 * (ctx + 256 * stage)))))),
   pc, addr, seq ++ detail]

/-- A ring base that the cox cores use: the whole ring lies in host system space or in bulk space (R282, R377). -/
def ringOk (base : Word) (entry : Nat) : Bool :=
  let a := base.toNat / 64 * 64
  let n := entry * 2 ^ (base.toNat % 32)
  (decide (spaceOf a = .host) && decide (spaceOf (a + n - 1) = .host))
    || (decide (spaceOf a = .bulk) && decide (spaceOf (a + n - 1) = .bulk))

/-- The bytes of a list of words. -/
def wordBytes (ws : List Word) : List Byte := ws.flatMap fun w => natBytes 8 w.toNat

/-- The cox cores write a packet to the host fault ring, or count it in HFQ_LOST (R377). Vector 1 is signalled for it, unless no ring stands
where they may write one (R352, R377). -/
def State.toHost (s : State) (p : List Word) : State :=
  let c := s.cox
  let n := 2 ^ (c.hfqBase.toNat % 32)
  let lost := if c.hfqLost = BitVec.allOnes 32 then c.hfqLost else c.hfqLost + 1
  if !ringOk c.hfqBase 64 then { s with cox := { c with hfqLost := lost } }
  else if (c.hfqTail - c.hfqHead).toNat < n then
    let a := c.hfqBase.toNat / 64 * 64 + 64 * (c.hfqTail.toNat % n)
    { s.put a (wordBytes p) with cox := { c with hfqTail := c.hfqTail + 1, msix := c.msix ++ [1] } }
  else { s with cox := { c with hfqLost := lost, msix := c.msix ++ [1] } }

/-- Sends a packet from a node to the region supervisor of a launch, as a MNT message of KIND 0x20 that waits for its answer like
a request (R376), or to the cox cores. -/
def State.report (s : State) (n ctx : Nat) (launch : Option Nat) (super : Bool) (p : List Word) : State :=
  let dst := (launch.bind s.launchOf).bind Launch.sup
  match dst with
  | none => s.toHost p
  | some d =>
    if super || lptState (s.lptEntry 0 d) = 2 then s.toHost p
    else
      s.sendKept n { cls := 5, kind := 0x20, src := n, dst := d, ctx := ctx, payload := p, launch := launch.getD 0 } false

/-- Numbers the packets of a node (R374). -/
def State.nextSeq (s : State) (n : Nat) : State := s.modErr n fun e => { e with seq := e.seq + 1 }

/-- The launch of a context to which reports go that no thread makes: the latest that the context holds. -/
def State.ctxLaunch (s : State) (ctx : Nat) : Option Nat :=
  (s.cox.launches.filter fun l => l.ctx = ctx).getLast?.map Launch.seq

/-- A report about a message or a command: no thread waits (R276, R248, R364). `who` is the THREAD byte. -/
def State.reportEvent (s : State) (n ctx : Nat) (launch : Option Nat) (cause who : Nat) (addr : Word) (detail : BitVec 32)
    (extra : List Word) : State :=
  let p := packetHead cause 0 0 who (cellField n) ctx 0 0 addr detail (s.cell n).err.seq ++ (extra ++ [0, 0, 0, 0]).take 4
  (s.nextSeq n).report n ctx launch false p

/-! ### Taking a trap, and resuming -/

/-- Adds to a saturating 16-bit count (R371). -/
def sat16 (c : BitVec 16) (n : Nat) : BitVec 16 := BitVec.ofNat 16 (min 0xffff (c.toNat + n))

/-- The packet of a thread's fault (R374). R374's 64 bytes give the operand image that R147 captures no place: the packet goes without it,
and the image stands in the debug window (R379; DESIGN CHOICE, log 116). -/
def trapPacket (n t : Nat) (th : Thread) (cause : BitVec 8) (imprecise rep : Bool) (pc addr : Word) (detail seq : BitVec 32) :
    List Word :=
  let d := th.run.desc.getD { entry := 0 }
  let flags := 1 + 2 * bit imprecise + 4 * bit th.run.restart + 8 * bit rep + 16 * bit d.super
  let x11 : Word := match d.handler with
    | some (_, v) => v
    | none => (0#21 ++ d.home ++ 0#10 ++ d.ctr)
  packetHead cause.toNat flags th.ctrl.repIdx.toNat (t + 16 * th.slot.toNat) (cellField n) th.ctx d.stage.toNat pc addr detail seq
    ++ [d.entry.setWidth 64, d.arg.setWidth 64, x11, 0]

/-- A trap freezes the thread (R373): results on their way are written, the budget stops, the PC stands, the packet is kept for
the debug window (R378) and sent (R376). `pc` is the packet's PC. An END or HALT under way is executed again after a RESUME. -/
def State.takeTrap (s : State) (n t : Nat) (cause : BitVec 8) (imprecise rep : Bool) (pc addr : Word) (detail : BitVec 32) :
    State :=
  let th := s.thread n t
  let p := trapPacket n t th cause imprecise rep pc addr detail (s.cell n).err.seq
  let th := ((th.charge (s.now n t)).settleAll).modRun fun r =>
    { r with st := .frozen, cause := cause, stepping := false, packet := p, fence := none, rvsDone := 0, chain := none
             ending := false, halting := false }
  let s := if cause = 0x51 then s.modCell n fun c => c.modNet fun x => { x with cf := true } else s
  (((s.unclaim n t).setThread n t th).nextSeq n).report n th.ctx (th.run.desc.map Desc.launch) (th.run.desc.elim false Desc.super) p

/-- A frozen thread runs from its PC. -/
def State.runOn (s : State) (n t : Nat) (step : Bool) : State :=
  let now := s.now n t
  (s.modThread n t fun th =>
    { th with
      ctrl := { th.ctrl with chargedAt := now }
      run := { th.run with st := .running, cause := 0, stepping := step } })
/-- The return from a trap: the pending error is cleared and the thread runs from its PC (R380). -/
def State.resume (s : State) (n t : Nat) (step : Bool) : State :=
  (s.modThread n t fun th => th.modRun fun r => { r with pendErr := none }).runOn n t step

/-! ### The checks of an access by offset (R119, R332) -/

/-- CTX_GRANT fields (R332). -/
def State.grant (s : State) (n : Nat) (slot : BitVec 2) : Word := vget (s.cell n).err.grants slot.toNat
def grantBase (g : Word) : Nat := (g.extractLsb' 12 10).toNat * 4096
def grantLimit (g : Word) : Nat := (g.extractLsb' 22 10).toNat * 4096
/-- The bytes `[lo, lo + len)` lie in the slot's own constant window or in its LM grant outside the windows of other slots
(R332). -/
def inGrant (g : Word) (slot : BitVec 2) (lo len : Nat) : Bool :=
  let w := 0x800 * slot.toNat
  let b := max (grantBase g) 0x2000
  let l := grantLimit g
  let hi := lo + len
  decide (len = 0) || (decide (w ≤ lo) && decide (hi ≤ w + 0x800)) || (decide (b ≤ lo) && decide (hi ≤ l))
    || (decide (w ≤ lo) && decide (w + 0x800 = b) && decide (hi ≤ l))

/-- The access field of an addressing cause's DETAIL (R379): 0 load, 1 store, 2 AMO or DECN, 3 fetch. -/
def accDetail (acc : Nat) : BitVec 32 := BitVec.ofNat 32 (acc * 4)

/-- A failed check: cause, ADDR and DETAIL. -/
structure Fail where
  cause  : BitVec 8
  addr   : Word := 0
  detail : BitVec 32 := 0
deriving DecidableEq, Repr, Inhabited

/-- The checks of R119 in their order: range, alignment, grant. An access of no byte passes them. -/
def State.checkLM (s : State) (n : Nat) (slot : BitVec 2) (o : Word) (len align acc : Nat) : Option Fail :=
  if len = 0 then none
  else if nodeLimit n ≤ o.toNat + len - 1 then some { cause := 0x25, addr := o, detail := accDetail acc }
  else if o.toNat % align ≠ 0 then some { cause := 0x24, addr := o, detail := accDetail acc }
  else if inGrant (s.grant n slot) slot o.toNat len then none
  else some { cause := 0x40, addr := o, detail := accDetail acc }

/-- Adds to TOUCH_DROP (R120, R121). -/
def State.touch (s : State) (n : Nat) : State := s.modErr n fun e => { e with touch := e.touch + 1 }

/-- ERR_CTL.PRECISE for a slot (R372). -/
def State.precise (s : State) (n : Nat) (slot : BitVec 2) : Bool := (s.cell n).err.ctl.getLsbD (4 + slot.toNat)
/-- Marks a pending error of the operation at a place of the program order: the earliest stays (R366). -/
def Thread.markErr (th : Thread) (a : Word) (src : BitVec 32) (ord : Nat) : Thread :=
  th.modRun fun r => { r with pendErr := some (match r.pendErr with
    | some e => if e.ord ≤ ord then e else { addr := a, src := src, ord := ord }
    | none => { addr := a, src := src, ord := ord }) }
/-- Marks a pending error of the instruction that the thread is issuing. -/
def Thread.failed (th : Thread) (a : Word) (src : BitVec 32) : Thread := th.markErr a src th.run.ops
/-- Counts an uncorrectable error that a node finds (R371). -/
def State.countUe (s : State) (n : Nat) : State := s.modErr n fun e => { e with ue := sat16 e.ue 1 }

/-- A cell in retention is raised to OP_0 (R315); the steps to its operating point follow. -/
def State.wake (s : State) (n : Nat) : State :=
  if (s.cell n).power.ret then s.modCell n fun c => c.modPower fun p => { p with ret := false, op := 0 } else s

/-- Something other than a thread of the node was busy until now (R315). -/
def State.busy (s : State) (n : Nat) : State := s.modCell n fun c => c.modPower fun p => { p with busyAt := s.fab }
/-- RESTART is cleared (R368). -/
def State.noRestart (s : State) (n t : Nat) : State := s.modThread n t fun th => th.modRun fun r => { r with restart := false }

end Sys2Proof.Machine
end

