-- ==== Sys2Proof/Machine/Codes.lean ====
section
/-! DEFINITION. Decode tables and narrow codes (R84 to R89). -/

namespace Sys2Proof.Machine

/-- The value of a table entry (R84, R88). -/
def DTab.value (t : DTab) (c : Nat) : Val := e8m10.value false true (t.ent.get c).toNat

/-- The search sequence of a mode and width (R87); MODE 3 has none. -/
def codeSeq (mode : BitVec 2) (code4 : Bool) : List Nat :=
  let n := if code4 then 16 else 256
  match mode.toNat with
  | 0 => List.range n
  | 1 => ((List.range (n / 2)).map fun k => n - 1 - k) ++ List.range (n / 2)
  | 2 => ((List.range (n / 2)).map fun k => n / 2 + k) ++ List.range (n / 2)
  | _ => []

/-- No value of the list falls below the one before it. -/
def rising : List Val → Bool
  | a :: b :: vs => decide (cmpVal a b ≤ 0) && rising (b :: vs)
  | _ => true

/-- The table is well formed for a width (R87). -/
def DTab.wf (t : DTab) (code4 : Bool) : Bool :=
  let vs := ((codeSeq t.mode code4).map t.value).filter fun v => !v.isNan
  decide (t.mode ≠ 3) && rising vs && vs.any Val.isZero

/-- The least of a list of codes. -/
def leastCode : List Nat → Option Nat
  | [] => none
  | c :: cs => match leastCode cs with
    | none => some c
    | some d => some (min c d)

/-- The zero code (R87). -/
def DTab.zeroCode (t : DTab) (code4 : Bool) : Nat :=
  let zs := (codeSeq t.mode code4).filter fun c => (t.value c).isZero
  match leastCode (zs.filter fun c => !(t.value c).neg?) with
  | some c => c
  | none => (leastCode zs).getD 0

/-- What an element encodes as (R89): a code with its flags; an outlier with its zero code and the code that it saturates to. -/
inductive Encoded where
  | code (c : Nat) (flags : BitVec 5)
  | outlier (zero sat : Nat)
deriving DecidableEq, Repr, Inhabited

def Val.ex : Val → Ex
  | .num x => x
  | _ => {}
/-- A list's elements as far as any of them meets a condition, else all. -/
def preferring {α : Type} (p : α → Bool) (l : List α) : List α := if l.any p then l.filter p else l

/-- encode of R89 up to the outlier list. -/
def DTab.encode (t : DTab) (code4 : Bool) (v : Val) : Encoded :=
  if !t.wf code4 then .code 0 flagNV
  else
    let seq := codeSeq t.mode code4
    let z := t.zeroCode code4
    let fin := seq.filter fun c => match t.value c with | .num _ => true | _ => false
    let lo := fin.foldl (fun m c => if cmpVal (t.value c) (t.value m) < 0 then c else m) (fin.headD 0)
    let hi := fin.foldl (fun m c => if cmpVal (t.value m) (t.value c) < 0 then c else m) (fin.headD 0)
    let satTo := fun m : Nat => (leastCode (preferring (fun c => c % 2 == 0) (fin.filter fun c => cmpVal (t.value c) (t.value m) = 0))).getD 0
    match v with
    | .nan _ =>
      match leastCode (seq.filter fun c => (t.value c).isNan) with
      | some c => .code c 0
      | none => .code z flagNV
    | .inf s =>
      match leastCode (seq.filter fun c => t.value c = .inf s) with
      | some c => .code c 0
      | none => .outlier z (satTo (if s then lo else hi))
    | .num x =>
      if cmpVal (t.value hi) v < 0 then .outlier z (satTo hi)
      else if cmpVal v (t.value lo) < 0 then .outlier z (satTo lo)
      else
        let q := min x.e (-400)
        let dist := fun c => (x.units q - (t.value c).ex.units q).natAbs
        let best := fin.foldl (fun m c => min m (dist c)) (dist (fin.headD 0))
        let near := fin.filter fun c => dist c = best
        let near := if x.zero then preferring (fun c => (t.value c).neg? == x.neg) near else near
        let c := (leastCode (preferring (fun c => c % 2 == 0) near)).getD 0
        .code c (flagIf (cmpVal (t.value c) v ≠ 0) flagNX)

end Sys2Proof.Machine
end

