-- ==== Sys2Proof/Machine/Sig.lean ====
section
/-! DEFINITION. What the description of each instruction says about its register fields and the prefixes it takes (R39, R43 to
R47, R102), and the decode checks of R51 (orders 1 and 3) written over it. -/

namespace Sys2Proof

/-- A register field of an instruction: the file it names and the banks, other than 0, that PFX.REG may put in its place
(R44). -/
structure SlotSig where
  file  : File
  num   : BitVec 5
  banks : List (BitVec 3) := []
deriving DecidableEq, Repr, Inhabited

/-- What the description of an instruction says about the prefixes it takes (R43 to R47, R102) and its register fields. -/
structure Sig where
  ctl  : Ctl
  /-- takes PFX.IMM (R43) -/
  imm  : Bool := false
  /-- uses the RM, SAT and PO fields of PFX.MOD (R46) -/
  rm   : Bool := false
  sat  : Bool := false
  po   : Bool := false
  /-- may be the subject of PFX.REP (R47) -/
  rep  : Bool := false
  d    : Option SlotSig := none
  a    : Option SlotSig := none
  b    : Option SlotSig := none
  e    : Option SlotSig := none
  /-- a second word follows (R40) -/
  long : Bool := false
  /-- reached through PFX.PAGE (R45) -/
  page : Bool := false
  /-- the element type, where a vector instruction carries one in funct5, is one its description lists (R56, R165) -/
  types : Bool := true
deriving DecidableEq, Repr, Inhabited

/-- The banks that the ALU, immediate, ALUC and EXT forms accept in a destination slot (R103). -/
def dstBanks : List (BitVec 3) := [1, 2]
/-- The same in a source slot (R103). -/
def srcBanks : List (BitVec 3) := [1, 2, 3]

/-- A vector instruction's element type is a float type: 0 binary32, 1 bfloat16, 2 binary16 (R165). -/
def floatType (t : BitVec 5) : Bool := decide (t.toNat < 3)

/-- The element types that each vector instruction lists (R166 to R172). -/
def typeIn (lo hi : Nat) (t : BitVec 5) : Bool := decide (lo ≤ t.toNat) && decide (t.toNat < hi)

/-- The description of each instruction's fields; an event has none. -/
def Instr.sig : Instr → Option Sig
  | .add c d a b => some { ctl := c, sat := true, rep := true, d := some { file := .x, num := d, banks := dstBanks }, a := some { file := .x, num := a, banks := srcBanks }, b := some { file := .x, num := b, banks := srcBanks } }
  | .sub c d a b => some { ctl := c, sat := true, rep := true, d := some { file := .x, num := d, banks := dstBanks }, a := some { file := .x, num := a, banks := srcBanks }, b := some { file := .x, num := b, banks := srcBanks } }
  | .and c d a b => some { ctl := c, rep := true, d := some { file := .x, num := d, banks := dstBanks }, a := some { file := .x, num := a, banks := srcBanks }, b := some { file := .x, num := b, banks := srcBanks } }
  | .or c d a b => some { ctl := c, rep := true, d := some { file := .x, num := d, banks := dstBanks }, a := some { file := .x, num := a, banks := srcBanks }, b := some { file := .x, num := b, banks := srcBanks } }
  | .xor c d a b => some { ctl := c, rep := true, d := some { file := .x, num := d, banks := dstBanks }, a := some { file := .x, num := a, banks := srcBanks }, b := some { file := .x, num := b, banks := srcBanks } }
  | .shl c d a b => some { ctl := c, sat := true, rep := true, d := some { file := .x, num := d, banks := dstBanks }, a := some { file := .x, num := a, banks := srcBanks }, b := some { file := .x, num := b, banks := srcBanks } }
  | .shr c d a b => some { ctl := c, rep := true, d := some { file := .x, num := d, banks := dstBanks }, a := some { file := .x, num := a, banks := srcBanks }, b := some { file := .x, num := b, banks := srcBanks } }
  | .sha c d a b => some { ctl := c, rep := true, d := some { file := .x, num := d, banks := dstBanks }, a := some { file := .x, num := a, banks := srcBanks }, b := some { file := .x, num := b, banks := srcBanks } }
  | .rol c d a b => some { ctl := c, rep := true, d := some { file := .x, num := d, banks := dstBanks }, a := some { file := .x, num := a, banks := srcBanks }, b := some { file := .x, num := b, banks := srcBanks } }
  | .ror c d a b => some { ctl := c, rep := true, d := some { file := .x, num := d, banks := dstBanks }, a := some { file := .x, num := a, banks := srcBanks }, b := some { file := .x, num := b, banks := srcBanks } }
  | .slt c d a b => some { ctl := c, rep := true, d := some { file := .x, num := d, banks := dstBanks }, a := some { file := .x, num := a, banks := srcBanks }, b := some { file := .x, num := b, banks := srcBanks } }
  | .sltu c d a b => some { ctl := c, rep := true, d := some { file := .x, num := d, banks := dstBanks }, a := some { file := .x, num := a, banks := srcBanks }, b := some { file := .x, num := b, banks := srcBanks } }
  | .min c d a b => some { ctl := c, rep := true, d := some { file := .x, num := d, banks := dstBanks }, a := some { file := .x, num := a, banks := srcBanks }, b := some { file := .x, num := b, banks := srcBanks } }
  | .max c d a b => some { ctl := c, rep := true, d := some { file := .x, num := d, banks := dstBanks }, a := some { file := .x, num := a, banks := srcBanks }, b := some { file := .x, num := b, banks := srcBanks } }
  | .minu c d a b => some { ctl := c, rep := true, d := some { file := .x, num := d, banks := dstBanks }, a := some { file := .x, num := a, banks := srcBanks }, b := some { file := .x, num := b, banks := srcBanks } }
  | .maxu c d a b => some { ctl := c, rep := true, d := some { file := .x, num := d, banks := dstBanks }, a := some { file := .x, num := a, banks := srcBanks }, b := some { file := .x, num := b, banks := srcBanks } }
  | .mul c d a b => some { ctl := c, sat := true, rep := true, d := some { file := .x, num := d, banks := dstBanks }, a := some { file := .x, num := a, banks := srcBanks }, b := some { file := .x, num := b, banks := srcBanks } }
  | .mulh c d a b => some { ctl := c, rep := true, d := some { file := .x, num := d, banks := dstBanks }, a := some { file := .x, num := a, banks := srcBanks }, b := some { file := .x, num := b, banks := srcBanks } }
  | .mulhu c d a b => some { ctl := c, rep := true, d := some { file := .x, num := d, banks := dstBanks }, a := some { file := .x, num := a, banks := srcBanks }, b := some { file := .x, num := b, banks := srcBanks } }
  | .div c d a b => some { ctl := c, rep := true, d := some { file := .x, num := d, banks := dstBanks }, a := some { file := .x, num := a, banks := srcBanks }, b := some { file := .x, num := b, banks := srcBanks } }
  | .divu c d a b => some { ctl := c, rep := true, d := some { file := .x, num := d, banks := dstBanks }, a := some { file := .x, num := a, banks := srcBanks }, b := some { file := .x, num := b, banks := srcBanks } }
  | .rem c d a b => some { ctl := c, rep := true, d := some { file := .x, num := d, banks := dstBanks }, a := some { file := .x, num := a, banks := srcBanks }, b := some { file := .x, num := b, banks := srcBanks } }
  | .remu c d a b => some { ctl := c, rep := true, d := some { file := .x, num := d, banks := dstBanks }, a := some { file := .x, num := a, banks := srcBanks }, b := some { file := .x, num := b, banks := srcBanks } }
  | .clz c d a => some { ctl := c, rep := true, d := some { file := .x, num := d, banks := dstBanks }, a := some { file := .x, num := a, banks := srcBanks } }
  | .ctz c d a => some { ctl := c, rep := true, d := some { file := .x, num := d, banks := dstBanks }, a := some { file := .x, num := a, banks := srcBanks } }
  | .popc c d a => some { ctl := c, rep := true, d := some { file := .x, num := d, banks := dstBanks }, a := some { file := .x, num := a, banks := srcBanks } }
  | .addi c d a _ => some { ctl := c, imm := true, sat := true, rep := true, d := some { file := .x, num := d, banks := dstBanks }, a := some { file := .x, num := a, banks := srcBanks } }
  | .andi c d a _ => some { ctl := c, imm := true, rep := true, d := some { file := .x, num := d, banks := dstBanks }, a := some { file := .x, num := a, banks := srcBanks } }
  | .ori c d a _ => some { ctl := c, imm := true, rep := true, d := some { file := .x, num := d, banks := dstBanks }, a := some { file := .x, num := a, banks := srcBanks } }
  | .xori c d a _ => some { ctl := c, imm := true, rep := true, d := some { file := .x, num := d, banks := dstBanks }, a := some { file := .x, num := a, banks := srcBanks } }
  | .shli c d a _ => some { ctl := c, sat := true, rep := true, d := some { file := .x, num := d, banks := dstBanks }, a := some { file := .x, num := a, banks := srcBanks } }
  | .shri c d a _ => some { ctl := c, rep := true, d := some { file := .x, num := d, banks := dstBanks }, a := some { file := .x, num := a, banks := srcBanks } }
  | .shai c d a _ => some { ctl := c, rep := true, d := some { file := .x, num := d, banks := dstBanks }, a := some { file := .x, num := a, banks := srcBanks } }
  | .slti c d a _ => some { ctl := c, imm := true, rep := true, d := some { file := .x, num := d, banks := dstBanks }, a := some { file := .x, num := a, banks := srcBanks } }
  | .sltiu c d a _ => some { ctl := c, imm := true, rep := true, d := some { file := .x, num := d, banks := dstBanks }, a := some { file := .x, num := a, banks := srcBanks } }
  | .muli c d a _ => some { ctl := c, imm := true, sat := true, rep := true, d := some { file := .x, num := d, banks := dstBanks }, a := some { file := .x, num := a, banks := srcBanks } }
  | .ldc c d _ => some { ctl := c, rep := true, d := some { file := .x, num := d, banks := dstBanks } }
  | .addc c d a _ => some { ctl := c, sat := true, rep := true, d := some { file := .x, num := d, banks := dstBanks }, a := some { file := .x, num := a, banks := srcBanks } }
  | .subc c d a _ => some { ctl := c, sat := true, rep := true, d := some { file := .x, num := d, banks := dstBanks }, a := some { file := .x, num := a, banks := srcBanks } }
  | .mulc c d a _ => some { ctl := c, sat := true, rep := true, d := some { file := .x, num := d, banks := dstBanks }, a := some { file := .x, num := a, banks := srcBanks } }
  | .sextB c d a => some { ctl := c, rep := true, d := some { file := .x, num := d, banks := dstBanks }, a := some { file := .x, num := a, banks := srcBanks } }
  | .sextH c d a => some { ctl := c, rep := true, d := some { file := .x, num := d, banks := dstBanks }, a := some { file := .x, num := a, banks := srcBanks } }
  | .sextW c d a => some { ctl := c, rep := true, d := some { file := .x, num := d, banks := dstBanks }, a := some { file := .x, num := a, banks := srcBanks } }
  | .zextB c d a => some { ctl := c, rep := true, d := some { file := .x, num := d, banks := dstBanks }, a := some { file := .x, num := a, banks := srcBanks } }
  | .zextH c d a => some { ctl := c, rep := true, d := some { file := .x, num := d, banks := dstBanks }, a := some { file := .x, num := a, banks := srcBanks } }
  | .zextW c d a => some { ctl := c, rep := true, d := some { file := .x, num := d, banks := dstBanks }, a := some { file := .x, num := a, banks := srcBanks } }
  | .qset c d a b => some { ctl := c, rep := true, d := some { file := .q, num := d }, a := some { file := .x, num := a }, b := some { file := .x, num := b } }
  | .qget c d a => some { ctl := c, rep := true, d := some { file := .x, num := d }, a := some { file := .q, num := a } }
  | .liw c d _ => some { ctl := c, imm := true, rep := true, long := true, d := some { file := .x, num := d } }
  | .addiw c d a _ => some { ctl := c, imm := true, sat := true, rep := true, long := true, d := some { file := .x, num := d }, a := some { file := .x, num := a } }
  | .rdcyc c d => some { ctl := c, d := some { file := .x, num := d } }
  | .beq c a b _ => some { ctl := c, imm := true, a := some { file := .x, num := a }, b := some { file := .x, num := b } }
  | .bne c a b _ => some { ctl := c, imm := true, a := some { file := .x, num := a }, b := some { file := .x, num := b } }
  | .blt c a b _ => some { ctl := c, imm := true, a := some { file := .x, num := a }, b := some { file := .x, num := b } }
  | .bge c a b _ => some { ctl := c, imm := true, a := some { file := .x, num := a }, b := some { file := .x, num := b } }
  | .bltu c a b _ => some { ctl := c, imm := true, a := some { file := .x, num := a }, b := some { file := .x, num := b } }
  | .bgeu c a b _ => some { ctl := c, imm := true, a := some { file := .x, num := a }, b := some { file := .x, num := b } }
  | .jal c d _ => some { ctl := c, imm := true, d := some { file := .x, num := d } }
  | .jalr c d a _ => some { ctl := c, imm := true, d := some { file := .x, num := d }, a := some { file := .x, num := a } }
  | .jalw c d _ => some { ctl := c, imm := true, long := true, d := some { file := .x, num := d } }
  | .loop c d a b => some { ctl := c, d := some { file := .lp, num := d }, a := some { file := .x, num := a }, b := some { file := .x, num := b } }
  | .loopi c d a _ => some { ctl := c, imm := true, d := some { file := .lp, num := d }, a := some { file := .x, num := a } }
  | .lpbrk c d => some { ctl := c, d := some { file := .lp, num := d } }
  | .endTask c => some { ctl := c }
  | .ldB c d a _ => some { ctl := c, imm := true, rep := true, d := some { file := .x, num := d }, a := some { file := .x, num := a } }
  | .ldH c d a _ => some { ctl := c, imm := true, rep := true, d := some { file := .x, num := d }, a := some { file := .x, num := a } }
  | .ldW c d a _ => some { ctl := c, imm := true, rep := true, d := some { file := .x, num := d }, a := some { file := .x, num := a } }
  | .ldD c d a _ => some { ctl := c, imm := true, rep := true, d := some { file := .x, num := d }, a := some { file := .x, num := a } }
  | .stB c a b _ => some { ctl := c, imm := true, sat := true, rep := true, a := some { file := .x, num := a }, b := some { file := .x, num := b } }
  | .stH c a b _ => some { ctl := c, imm := true, sat := true, rep := true, a := some { file := .x, num := a }, b := some { file := .x, num := b } }
  | .stW c a b _ => some { ctl := c, imm := true, sat := true, rep := true, a := some { file := .x, num := a }, b := some { file := .x, num := b } }
  | .stD c a b _ => some { ctl := c, imm := true, rep := true, a := some { file := .x, num := a }, b := some { file := .x, num := b } }
  | .ldBu c d a _ => some { ctl := c, imm := true, rep := true, d := some { file := .x, num := d }, a := some { file := .x, num := a } }
  | .ldHu c d a _ => some { ctl := c, imm := true, rep := true, d := some { file := .x, num := d }, a := some { file := .x, num := a } }
  | .ldWu c d a _ => some { ctl := c, imm := true, rep := true, d := some { file := .x, num := d }, a := some { file := .x, num := a } }
  | .ldvB c d a _ => some { ctl := c, imm := true, rep := true, d := some { file := .x, num := d, banks := [2] }, a := some { file := .x, num := a } }
  | .ldvH c d a _ => some { ctl := c, imm := true, rep := true, d := some { file := .x, num := d, banks := [2] }, a := some { file := .x, num := a } }
  | .ldvW c d a _ => some { ctl := c, imm := true, rep := true, d := some { file := .x, num := d, banks := [2] }, a := some { file := .x, num := a } }
  | .ldvD c d a _ => some { ctl := c, imm := true, rep := true, d := some { file := .x, num := d, banks := [2] }, a := some { file := .x, num := a } }
  | .ldvBu c d a _ => some { ctl := c, imm := true, rep := true, d := some { file := .x, num := d, banks := [2] }, a := some { file := .x, num := a } }
  | .ldvHu c d a _ => some { ctl := c, imm := true, rep := true, d := some { file := .x, num := d, banks := [2] }, a := some { file := .x, num := a } }
  | .ldvWu c d a _ => some { ctl := c, imm := true, rep := true, d := some { file := .x, num := d, banks := [2] }, a := some { file := .x, num := a } }
  | .stvB c a b _ => some { ctl := c, imm := true, sat := true, rep := true, a := some { file := .x, num := a }, b := some { file := .x, num := b, banks := [2] } }
  | .stvH c a b _ => some { ctl := c, imm := true, sat := true, rep := true, a := some { file := .x, num := a }, b := some { file := .x, num := b, banks := [2] } }
  | .stvW c a b _ => some { ctl := c, imm := true, sat := true, rep := true, a := some { file := .x, num := a }, b := some { file := .x, num := b, banks := [2] } }
  | .stvD c a b _ => some { ctl := c, imm := true, rep := true, a := some { file := .x, num := a }, b := some { file := .x, num := b, banks := [2] } }
  | .amoAdd c _ d a b => some { ctl := c, sat := true, rep := true, d := some { file := .x, num := d }, a := some { file := .x, num := a }, b := some { file := .x, num := b } }
  | .amoAnd c _ d a b => some { ctl := c, rep := true, d := some { file := .x, num := d }, a := some { file := .x, num := a }, b := some { file := .x, num := b } }
  | .amoOr c _ d a b => some { ctl := c, rep := true, d := some { file := .x, num := d }, a := some { file := .x, num := a }, b := some { file := .x, num := b } }
  | .amoXor c _ d a b => some { ctl := c, rep := true, d := some { file := .x, num := d }, a := some { file := .x, num := a }, b := some { file := .x, num := b } }
  | .amoMin c _ d a b => some { ctl := c, rep := true, d := some { file := .x, num := d }, a := some { file := .x, num := a }, b := some { file := .x, num := b } }
  | .amoMax c _ d a b => some { ctl := c, rep := true, d := some { file := .x, num := d }, a := some { file := .x, num := a }, b := some { file := .x, num := b } }
  | .amoMinu c _ d a b => some { ctl := c, rep := true, d := some { file := .x, num := d }, a := some { file := .x, num := a }, b := some { file := .x, num := b } }
  | .amoMaxu c _ d a b => some { ctl := c, rep := true, d := some { file := .x, num := d }, a := some { file := .x, num := a }, b := some { file := .x, num := b } }
  | .amoSwap c _ d a b => some { ctl := c, rep := true, d := some { file := .x, num := d }, a := some { file := .x, num := a }, b := some { file := .x, num := b } }
  | .amoCas c d a b e => some { ctl := c, rep := true, d := some { file := .x, num := d }, a := some { file := .x, num := a }, b := some { file := .x, num := b }, e := some { file := .x, num := e } }
  | .decn c a b => some { ctl := c, rep := true, a := some { file := .x, num := a }, b := some { file := .x, num := b } }
  | .fence c _ => some { ctl := c }
  | .efence c => some { ctl := c }
  | .spawn c a b => some { ctl := c, a := some { file := .x, num := a }, b := some { file := .x, num := b } }
  | .arm c a b => some { ctl := c, a := some { file := .x, num := a }, b := some { file := .x, num := b } }
  | .bara c a b => some { ctl := c, a := some { file := .x, num := a }, b := some { file := .x, num := b } }
  | .barx c a b => some { ctl := c, a := some { file := .x, num := a }, b := some { file := .x, num := b } }
  | .htset c a b => some { ctl := c, a := some { file := .x, num := a }, b := some { file := .x, num := b } }
  | .htclr c a => some { ctl := c, a := some { file := .x, num := a } }
  | .csrr c d _ => some { ctl := c, d := some { file := .x, num := d } }
  | .csrw c a _ => some { ctl := c, a := some { file := .x, num := a } }
  | .tlbi c a b => some { ctl := c, a := some { file := .x, num := a }, b := some { file := .x, num := b } }
  | .halt c => some { ctl := c }
  | .brk c a => some { ctl := c, a := some { file := .x, num := a } }
  | .pwrq c d a => some { ctl := c, d := some { file := .x, num := d }, a := some { file := .x, num := a } }
  | .faddS c d a b => some { ctl := c, rm := true, rep := true, d := some { file := .f, num := d }, a := some { file := .f, num := a }, b := some { file := .f, num := b } }
  | .fsubS c d a b => some { ctl := c, rm := true, rep := true, d := some { file := .f, num := d }, a := some { file := .f, num := a }, b := some { file := .f, num := b } }
  | .fmulS c d a b => some { ctl := c, rm := true, rep := true, d := some { file := .f, num := d }, a := some { file := .f, num := a }, b := some { file := .f, num := b } }
  | .fdivS c d a b => some { ctl := c, rm := true, rep := true, d := some { file := .f, num := d }, a := some { file := .f, num := a }, b := some { file := .f, num := b } }
  | .fsqrtS c d a => some { ctl := c, rm := true, rep := true, d := some { file := .f, num := d }, a := some { file := .f, num := a } }
  | .fminS c d a b => some { ctl := c, rm := true, rep := true, d := some { file := .f, num := d }, a := some { file := .f, num := a }, b := some { file := .f, num := b } }
  | .fmaxS c d a b => some { ctl := c, rm := true, rep := true, d := some { file := .f, num := d }, a := some { file := .f, num := a }, b := some { file := .f, num := b } }
  | .fcsgnS c d a b => some { ctl := c, rm := true, rep := true, d := some { file := .f, num := d }, a := some { file := .f, num := a }, b := some { file := .f, num := b } }
  | .fnsgnS c d a b => some { ctl := c, rm := true, rep := true, d := some { file := .f, num := d }, a := some { file := .f, num := a }, b := some { file := .f, num := b } }
  | .fxsgnS c d a b => some { ctl := c, rm := true, rep := true, d := some { file := .f, num := d }, a := some { file := .f, num := a }, b := some { file := .f, num := b } }
  | .fcmpqS c d a b => some { ctl := c, rm := true, rep := true, d := some { file := .x, num := d }, a := some { file := .f, num := a }, b := some { file := .f, num := b } }
  | .fcmpsS c d a b => some { ctl := c, rm := true, rep := true, d := some { file := .x, num := d }, a := some { file := .f, num := a }, b := some { file := .f, num := b } }
  | .ftypeS c d a => some { ctl := c, rm := true, rep := true, d := some { file := .x, num := d }, a := some { file := .f, num := a } }
  | .faddD c d a b => some { ctl := c, rm := true, rep := true, d := some { file := .f, num := d }, a := some { file := .f, num := a }, b := some { file := .f, num := b } }
  | .fsubD c d a b => some { ctl := c, rm := true, rep := true, d := some { file := .f, num := d }, a := some { file := .f, num := a }, b := some { file := .f, num := b } }
  | .fmulD c d a b => some { ctl := c, rm := true, rep := true, d := some { file := .f, num := d }, a := some { file := .f, num := a }, b := some { file := .f, num := b } }
  | .fdivD c d a b => some { ctl := c, rm := true, rep := true, d := some { file := .f, num := d }, a := some { file := .f, num := a }, b := some { file := .f, num := b } }
  | .fsqrtD c d a => some { ctl := c, rm := true, rep := true, d := some { file := .f, num := d }, a := some { file := .f, num := a } }
  | .fminD c d a b => some { ctl := c, rm := true, rep := true, d := some { file := .f, num := d }, a := some { file := .f, num := a }, b := some { file := .f, num := b } }
  | .fmaxD c d a b => some { ctl := c, rm := true, rep := true, d := some { file := .f, num := d }, a := some { file := .f, num := a }, b := some { file := .f, num := b } }
  | .fcsgnD c d a b => some { ctl := c, rm := true, rep := true, d := some { file := .f, num := d }, a := some { file := .f, num := a }, b := some { file := .f, num := b } }
  | .fnsgnD c d a b => some { ctl := c, rm := true, rep := true, d := some { file := .f, num := d }, a := some { file := .f, num := a }, b := some { file := .f, num := b } }
  | .fxsgnD c d a b => some { ctl := c, rm := true, rep := true, d := some { file := .f, num := d }, a := some { file := .f, num := a }, b := some { file := .f, num := b } }
  | .fcmpqD c d a b => some { ctl := c, rm := true, rep := true, d := some { file := .x, num := d }, a := some { file := .f, num := a }, b := some { file := .f, num := b } }
  | .fcmpsD c d a b => some { ctl := c, rm := true, rep := true, d := some { file := .x, num := d }, a := some { file := .f, num := a }, b := some { file := .f, num := b } }
  | .ftypeD c d a => some { ctl := c, rm := true, rep := true, d := some { file := .x, num := d }, a := some { file := .f, num := a } }
  | .fmaddS c d a b e => some { ctl := c, rm := true, rep := true, d := some { file := .f, num := d }, a := some { file := .f, num := a }, b := some { file := .f, num := b }, e := some { file := .f, num := e } }
  | .fmsubS c d a b e => some { ctl := c, rm := true, rep := true, d := some { file := .f, num := d }, a := some { file := .f, num := a }, b := some { file := .f, num := b }, e := some { file := .f, num := e } }
  | .fmaddD c d a b e => some { ctl := c, rm := true, rep := true, d := some { file := .f, num := d }, a := some { file := .f, num := a }, b := some { file := .f, num := b }, e := some { file := .f, num := e } }
  | .fmsubD c d a b e => some { ctl := c, rm := true, rep := true, d := some { file := .f, num := d }, a := some { file := .f, num := a }, b := some { file := .f, num := b }, e := some { file := .f, num := e } }
  | .fcvF64F32 c d a => some { ctl := c, rm := true, rep := true, d := some { file := .f, num := d }, a := some { file := .f, num := a } }
  | .fcvF32F64 c d a => some { ctl := c, rm := true, rep := true, d := some { file := .f, num := d }, a := some { file := .f, num := a } }
  | .fcvF32I32 c d a => some { ctl := c, rm := true, rep := true, d := some { file := .x, num := d }, a := some { file := .f, num := a } }
  | .fcvI32F32 c d a => some { ctl := c, rm := true, rep := true, d := some { file := .f, num := d }, a := some { file := .x, num := a } }
  | .fcvF32I64 c d a => some { ctl := c, rm := true, rep := true, d := some { file := .x, num := d }, a := some { file := .f, num := a } }
  | .fcvI64F32 c d a => some { ctl := c, rm := true, rep := true, d := some { file := .f, num := d }, a := some { file := .x, num := a } }
  | .fcvF64I32 c d a => some { ctl := c, rm := true, rep := true, d := some { file := .x, num := d }, a := some { file := .f, num := a } }
  | .fcvI32F64 c d a => some { ctl := c, rm := true, rep := true, d := some { file := .f, num := d }, a := some { file := .x, num := a } }
  | .fcvF64I64 c d a => some { ctl := c, rm := true, rep := true, d := some { file := .x, num := d }, a := some { file := .f, num := a } }
  | .fcvI64F64 c d a => some { ctl := c, rm := true, rep := true, d := some { file := .f, num := d }, a := some { file := .x, num := a } }
  | .fcvF32U64 c d a => some { ctl := c, rm := true, rep := true, d := some { file := .x, num := d }, a := some { file := .f, num := a } }
  | .fcvU64F32 c d a => some { ctl := c, rm := true, rep := true, d := some { file := .f, num := d }, a := some { file := .x, num := a } }
  | .fcvF64U64 c d a => some { ctl := c, rm := true, rep := true, d := some { file := .x, num := d }, a := some { file := .f, num := a } }
  | .fcvU64F64 c d a => some { ctl := c, rm := true, rep := true, d := some { file := .f, num := d }, a := some { file := .x, num := a } }
  | .fgetD c d a => some { ctl := c, rep := true, d := some { file := .x, num := d }, a := some { file := .f, num := a } }
  | .fsetD c d a => some { ctl := c, rep := true, d := some { file := .f, num := d }, a := some { file := .x, num := a } }
  | .fgetS c d a => some { ctl := c, rep := true, d := some { file := .x, num := d }, a := some { file := .f, num := a } }
  | .fsetS c d a => some { ctl := c, rep := true, d := some { file := .f, num := d }, a := some { file := .x, num := a } }
  | .fldS c d a _ => some { ctl := c, imm := true, rep := true, d := some { file := .f, num := d }, a := some { file := .x, num := a } }
  | .fldD c d a _ => some { ctl := c, imm := true, rep := true, d := some { file := .f, num := d }, a := some { file := .x, num := a } }
  | .fstS c a b _ => some { ctl := c, imm := true, rep := true, a := some { file := .x, num := a }, b := some { file := .f, num := b } }
  | .fstD c a b _ => some { ctl := c, imm := true, rep := true, a := some { file := .x, num := a }, b := some { file := .f, num := b } }
  | .poalloc c d => some { ctl := c, po := true, rep := true, d := some { file := .w, num := d } }
  | .poallocX c d a => some { ctl := c, rep := true, d := some { file := .w, num := d }, a := some { file := .x, num := a } }
  | .pofree c d => some { ctl := c, rep := true, d := some { file := .w, num := d } }
  | .poadd c d a b => some { ctl := c, rm := true, po := true, rep := true, d := some { file := .w, num := d }, a := some { file := .w, num := a }, b := some { file := .w, num := b } }
  | .posub c d a b => some { ctl := c, rm := true, po := true, rep := true, d := some { file := .w, num := d }, a := some { file := .w, num := a }, b := some { file := .w, num := b } }
  | .pomul c d a b => some { ctl := c, rm := true, po := true, rep := true, d := some { file := .w, num := d }, a := some { file := .w, num := a }, b := some { file := .w, num := b } }
  | .podiv c d a b => some { ctl := c, rm := true, po := true, rep := true, d := some { file := .w, num := d }, a := some { file := .w, num := a }, b := some { file := .w, num := b } }
  | .posqrt c d a => some { ctl := c, rm := true, po := true, rep := true, d := some { file := .w, num := d }, a := some { file := .w, num := a } }
  | .pofma c d a b e => some { ctl := c, rm := true, po := true, rep := true, d := some { file := .w, num := d }, a := some { file := .w, num := a }, b := some { file := .w, num := b }, e := some { file := .w, num := e } }
  | .pocmpEq c d a b => some { ctl := c, rep := true, d := some { file := .x, num := d }, a := some { file := .w, num := a }, b := some { file := .w, num := b } }
  | .pocmpLt c d a b => some { ctl := c, rep := true, d := some { file := .x, num := d }, a := some { file := .w, num := a }, b := some { file := .w, num := b } }
  | .pocmpLe c d a b => some { ctl := c, rep := true, d := some { file := .x, num := d }, a := some { file := .w, num := a }, b := some { file := .w, num := b } }
  | .poldS c _ d a => some { ctl := c, rm := true, rep := true, d := some { file := .w, num := d }, a := some { file := .q, num := a } }
  | .poldP c d a b => some { ctl := c, rm := true, rep := true, d := some { file := .w, num := d }, a := some { file := .x, num := a }, b := some { file := .x, num := b } }
  | .posvS c _ d a => some { ctl := c, rm := true, rep := true, d := some { file := .w, num := d }, a := some { file := .q, num := a } }
  | .posvP c d a b => some { ctl := c, rm := true, rep := true, d := some { file := .w, num := d }, a := some { file := .x, num := a }, b := some { file := .x, num := b } }
  | .pocvtPD c d a => some { ctl := c, rm := true, po := true, rep := true, d := some { file := .w, num := d }, a := some { file := .f, num := a } }
  | .pocvtPS c d a => some { ctl := c, rm := true, po := true, rep := true, d := some { file := .w, num := d }, a := some { file := .f, num := a } }
  | .pocvtPL c d a => some { ctl := c, rm := true, po := true, rep := true, d := some { file := .w, num := d }, a := some { file := .x, num := a } }
  | .pocvtDP c d a => some { ctl := c, rm := true, rep := true, d := some { file := .f, num := d }, a := some { file := .w, num := a } }
  | .pocvtSP c d a => some { ctl := c, rm := true, rep := true, d := some { file := .f, num := d }, a := some { file := .w, num := a } }
  | .pocvtLP c d a => some { ctl := c, rm := true, rep := true, d := some { file := .x, num := d }, a := some { file := .w, num := a } }
  | .pocvtPP c d a => some { ctl := c, rm := true, po := true, rep := true, d := some { file := .w, num := d }, a := some { file := .w, num := a } }
  | .podot c d a b e => some { ctl := c, rm := true, po := true, rep := true, d := some { file := .w, num := d }, a := some { file := .q, num := a }, b := some { file := .q, num := b }, e := some { file := .x, num := e } }
  | .tcfg c d a => some { ctl := c, rep := true, d := some { file := .ta, num := d }, a := some { file := .x, num := a } }
  | .tzero c d => some { ctl := c, rep := true, d := some { file := .ta, num := d } }
  | .tld c d a => some { ctl := c, rep := true, d := some { file := .ta, num := d }, a := some { file := .q, num := a } }
  | .tst c d a => some { ctl := c, rep := true, d := some { file := .q, num := d }, a := some { file := .ta, num := a } }
  | .tldd c d a b _ => some { ctl := c, rep := true, long := true, d := some { file := .ta, num := d }, a := some { file := .q, num := a }, b := some { file := .x, num := b } }
  | .tstd c d a b _ => some { ctl := c, rep := true, long := true, d := some { file := .q, num := d }, a := some { file := .ta, num := a }, b := some { file := .x, num := b } }
  | .twait c d a => some { ctl := c, rep := true, d := some { file := .x, num := d }, a := some { file := .x, num := a } }
  | .wld c a b => some { ctl := c, rep := true, a := some { file := .q, num := a }, b := some { file := .x, num := b } }
  | .dtld c d a _ => some { ctl := c, imm := true, rep := true, long := true, d := some { file := .dtab, num := d }, a := some { file := .x, num := a } }
  | .mma c d a b e => some { ctl := c, rep := true, d := some { file := .ta, num := d }, a := some { file := .q, num := a }, b := some { file := .x, num := b }, e := some { file := .q, num := e } }
  | .mmas c d a b e => some { ctl := c, rep := true, d := some { file := .ta, num := d }, a := some { file := .q, num := a }, b := some { file := .x, num := b }, e := some { file := .q, num := e } }
  | .mmao c d a b e => some { ctl := c, rep := true, d := some { file := .ta, num := d }, a := some { file := .q, num := a }, b := some { file := .x, num := b }, e := some { file := .q, num := e } }
  | .mmad c _ d a b _ => some { ctl := c, rep := true, long := true, d := some { file := .ta, num := d }, a := some { file := .q, num := a }, b := some { file := .x, num := b } }
  | .mmasd c _ d a b _ => some { ctl := c, rep := true, long := true, d := some { file := .ta, num := d }, a := some { file := .q, num := a }, b := some { file := .x, num := b } }
  | .mmaod c _ d a b _ => some { ctl := c, rep := true, long := true, d := some { file := .ta, num := d }, a := some { file := .q, num := a }, b := some { file := .x, num := b } }
  | .vadd c t d a b => some { ctl := c, rm := floatType t, sat := !floatType t, types := typeIn 0 6 t, rep := true, d := some { file := .q, num := d }, a := some { file := .q, num := a }, b := some { file := .q, num := b } }
  | .vsub c t d a b => some { ctl := c, rm := floatType t, sat := !floatType t, types := typeIn 0 6 t, rep := true, d := some { file := .q, num := d }, a := some { file := .q, num := a }, b := some { file := .q, num := b } }
  | .vmul c t d a b => some { ctl := c, rm := floatType t, sat := !floatType t, types := typeIn 0 6 t, rep := true, d := some { file := .q, num := d }, a := some { file := .q, num := a }, b := some { file := .q, num := b } }
  | .vfma c d a b e => some { ctl := c, rm := true, rep := true, d := some { file := .q, num := d }, a := some { file := .q, num := a }, b := some { file := .q, num := b }, e := some { file := .q, num := e } }
  | .vmax c t d a b => some { ctl := c, rm := floatType t, sat := !floatType t, types := typeIn 0 6 t, rep := true, d := some { file := .q, num := d }, a := some { file := .q, num := a }, b := some { file := .q, num := b } }
  | .vmin c t d a b => some { ctl := c, rm := floatType t, sat := !floatType t, types := typeIn 0 6 t, rep := true, d := some { file := .q, num := d }, a := some { file := .q, num := a }, b := some { file := .q, num := b } }
  | .vexp2 c t d a => some { ctl := c, rm := true, types := typeIn 0 3 t, rep := true, d := some { file := .q, num := d }, a := some { file := .q, num := a } }
  | .vlog2 c t d a => some { ctl := c, rm := true, types := typeIn 0 3 t, rep := true, d := some { file := .q, num := d }, a := some { file := .q, num := a } }
  | .vrcp c t d a => some { ctl := c, rm := true, types := typeIn 0 3 t, rep := true, d := some { file := .q, num := d }, a := some { file := .q, num := a } }
  | .vrsq c t d a => some { ctl := c, rm := true, types := typeIn 0 3 t, rep := true, d := some { file := .q, num := d }, a := some { file := .q, num := a } }
  | .vtanh c t d a => some { ctl := c, rm := true, types := typeIn 0 3 t, rep := true, d := some { file := .q, num := d }, a := some { file := .q, num := a } }
  | .vrsum c t d a => some { ctl := c, rm := floatType t, types := typeIn 0 6 t, rep := true, d := some { file := (if floatType t then .f else .x), num := d }, a := some { file := .q, num := a } }
  | .vrmax c t d a => some { ctl := c, rm := floatType t, types := typeIn 0 6 t, rep := true, d := some { file := (if floatType t then .f else .x), num := d }, a := some { file := .q, num := a } }
  | .vcvt c t d a => some { ctl := c, rm := true, types := typeIn 1 6 t, rep := true, d := some { file := .q, num := d }, a := some { file := .q, num := a } }
  | .vxpose c t d a => some { ctl := c, rm := floatType t, sat := !floatType t, types := typeIn 0 6 t, rep := true, d := some { file := .q, num := d }, a := some { file := .q, num := a } }
  | .vbcast c t d a => some { ctl := c, rm := floatType t, sat := !floatType t, types := typeIn 0 6 t, rep := true, d := some { file := .q, num := d }, a := some { file := (if floatType t then .f else .x), num := a } }
  | .vscale c t d a b => some { ctl := c, rm := true, types := typeIn 0 3 t, rep := true, d := some { file := .q, num := d }, a := some { file := .q, num := a }, b := some { file := .f, num := b } }
  | .vcvtd c d a b w2 => some { ctl := c, rm := true, rep := true, long := true, d := some { file := .q, num := d }, a := some { file := (if w2.getLsbD 10 then .ta else .q), num := a }, b := some { file := .x, num := b } }
  | .recStart c a => some { ctl := c, a := some { file := .x, num := a } }
  | .recStop c => some { ctl := c }
  | .rvs c d a => some { ctl := c, d := some { file := .x, num := d }, a := some { file := .x, num := a } }
  | .gmap c a => some { ctl := c, a := some { file := .x, num := a } }
  | .send c a b _ => some { ctl := c, long := true, a := some { file := .x, num := a }, b := some { file := .x, num := b } }
  | .cpy c d a b e _ => some { ctl := c, rep := true, long := true, d := some { file := .x, num := d }, a := some { file := .x, num := a }, b := some { file := .x, num := b }, e := some { file := .x, num := e } }
  | .cpym c d a b e _ => some { ctl := c, rep := true, long := true, d := some { file := .x, num := d }, a := some { file := .x, num := a }, b := some { file := .x, num := b }, e := some { file := .x, num := e } }
  | .coll c d a b e _ => some { ctl := c, rep := true, long := true, d := some { file := .x, num := d }, a := some { file := .x, num := a }, b := some { file := .x, num := b }, e := some { file := .x, num := e } }
  | .engp c d _ => some { ctl := c, rep := true, long := true, d := some { file := .x, num := d } }
  | .engq c d _ => some { ctl := c, rep := true, long := true, d := some { file := .x, num := d } }
  | .hld c d a _ => some { ctl := c, imm := true, rep := true, page := true, d := some { file := .x, num := d }, a := some { file := .x, num := a } }
  | .hst c a b _ => some { ctl := c, imm := true, rep := true, page := true, a := some { file := .x, num := a }, b := some { file := .x, num := b } }
  | .hpf c a _ => some { ctl := c, imm := true, rep := true, page := true, a := some { file := .x, num := a } }
  | .hfl c a b => some { ctl := c, rep := true, page := true, a := some { file := .x, num := a }, b := some { file := .x, num := b } }
  | .variableLatencyResult _ _ _ => none
  | .wuInstructionStart _ _ => none
  | .wuInstructionComplete _ _ => none
  | .wuFault _ _ => none
  | .wuSlotBoundary _ => none
  | .ballastWindow _ => none
  | .ballastStart _ => none
  | .descriptorInsert _ => none
  | .pop _ => none
  | .runEnd _ _ => none
  | .budgetExpiry _ _ => none
  | .slotInject _ _ => none
  | .retryTimer _ _ => none
  | .ctxSlotDrain _ _ => none
  | .ctxSlotIn _ _ => none
  | .ctxSlotOut _ _ => none
  | .balanceExchange _ => none
  | .balanceMoveSend _ => none
  | .barrierTimeout _ _ => none
  | .msgLoad _ => none
  | .msgStore _ => none
  | .msgAmo _ => none
  | .msgCas _ => none
  | .msgDecn _ => none
  | .msgSend _ => none
  | .msgSpawn _ => none
  | .msgArm _ => none
  | .msgBara _ => none
  | .msgBarx _ => none
  | .msgCpy _ => none
  | .msgCpym _ => none
  | .msgColl _ => none
  | .engineCommandBegin _ _ => none
  | .cpyComplete _ _ => none
  | .cpymComplete _ _ => none
  | .collComplete _ _ => none
  | .engineFault _ _ => none
  | .msgContrib _ => none
  | .msgResult _ => none
  | .msgLine _ _ => none
  | .msgData _ => none
  | .msgAck _ => none
  | .msgInvack _ => none
  | .msgNack _ => none
  | .msgInval _ => none
  | .msgTaskmove _ => none
  | .malformedMessage _ => none
  | .strokePeriod _ => none
  | .msgStroke _ => none
  | .msgAccuse _ => none
  | .msgFence _ => none
  | .msgFreeze _ => none
  | .msgFenced _ => none
  | .remapToSpare _ => none
  | .msgTest _ => none
  | .selfTestComplete _ _ _ => none
  | .msgAppeal _ => none
  | .msgAdmit _ => none
  | .msgRefuse _ => none
  | .msgReopen _ => none
  | .msgFault _ => none
  | .lptEntryFenced _ _ => none
  | .tlbMissRetry _ => none
  | .walkComplete _ => none
  | .cmdNop => none
  | .cmdLaunch => none
  | .cmdLinkmap => none
  | .cmdCtxsetIn => none
  | .cmdCtxsetDrain => none
  | .cmdIllegal => none
  | .linkmapDrainEnd _ => none
  | .linkmapRetuneEnd => none
  | .linkmapTrainEnd _ _ _ _ => none
  | .cqTailWrite _ => none
  | .contextCommit _ _ => none
  | .contextTeardown _ => none
  | .hostTlbi _ => none
  | .wavelengthPark _ _ => none
  | .automaticWake _ => none
  | .wakeComplete _ => none
  | .opticalFrame _ _ _ => none
  | .dbgResume _ _ => none
  | .dbgRetry _ _ => none
  | .dbgSkip _ _ => none
  | .dbgAbandon _ _ => none
  | .dbgRedeliver _ _ => none
  | .dbgStep _ _ => none
  | .dbgFreeze _ _ => none
  | .debugWindowWrite _ _ => none
  | .registerWrite _ _ _ => none
  | .hostMemoryAccess _ _ _ => none
  | .attestationRequest _ => none
  | .recoveryImage _ => none
  | .temperatureSample _ _ => none
  | .ceilingUpdate => none
  | .limitStep _ => none
  | .boostWindowExpiry => none
  | .boostRecoveryEnd => none
  | .opStep _ => none
  | .retentionEntry _ => none
  | .retentionWake _ => none
  | .migrationStart _ => none
  | .migrationCopy _ => none
  | .migrationSwitch _ => none
  | .migrationDrain _ => none
  | .overCurrent => none
  | .overVoltage => none
  | .underVoltage => none
  | .powerGoodLoss => none
  | .supplyRecovery _ => none
  | .coolantFault _ _ => none
  | .slopeBreach => none
  | .powerUp => none
  | .tamperAlarm => none
  | .glitchAlarm => none
  | .overtempAlarm => none
  | .linkCrcFailure _ _ _ => none
  | .linkLost _ _ => none
  | .faultRegionRouting _ _ => none
  | .laneRecalibration _ _ => none
  | .loftLoss _ _ => none
  | .eccScrub _ _ _ => none
  | .uncorrectableStructureError _ _ _ _ => none
  | .decodeFault _ => none
  | .instructionFetchFault _ _ _ => none
  | .appealAnswerTimeout _ => none
  | .standbyDomainPowerLoss => none

/-- The prefixes that an instruction's chain holds (R42). -/
def Ctl.prefixes (c : Ctl) : Nat :=
  c.imms.length + c.reg.toList.length + c.mod.toList.length + c.rep.toList.length

/-- The chain's length in prefixes, PFX.PAGE included. -/
def Sig.prefixes (g : Sig) : Nat := g.ctl.prefixes + (if g.page then 1 else 0)

/-- The instruction's length in words: its prefixes, its subject and, for a long word, the second word (R40, R42). -/
def Sig.words (g : Sig) : Nat := g.prefixes + (if g.long then 2 else 1)

/-- The four register slots in the order rd, rs1, rs2, rs3 (R44, R47). -/
def Sig.slots (g : Sig) : List (Option SlotSig) := [g.d, g.a, g.b, g.e]

/-- The 5-bit code of slot `k` in a PFX.REG payload: [4:2] BANK, [1:0] EXT (R44). -/
def regSlot (p : BitVec 27) (k : Nat) : BitVec 5 := p.extractLsb' (5 * k) 5

/-- A slot's code is one the subject takes: 0, or EXT 0 with a bank that the slot's description lists (R44). -/
def slotCodeOk (s : Option SlotSig) (code : BitVec 5) : Bool :=
  decide (code = 0) ||
    match s with
    | none => false
    | some g => decide (code.extractLsb' 0 2 = 0) && g.banks.contains (code.extractLsb' 2 3)

/-- A PFX.REG payload that the subject takes (R44). -/
def Sig.regOk (g : Sig) (p : BitVec 27) : Bool :=
  decide (p.extractLsb' 20 7 = 0) && slotCodeOk g.d (regSlot p 0) && slotCodeOk g.a (regSlot p 1)
    && slotCodeOk g.b (regSlot p 2) && slotCodeOk g.e (regSlot p 3)

/-- The RM field of a PFX.MOD payload (R46). -/
def modRm (p : BitVec 27) : BitVec 3 := p.extractLsb' 0 3
/-- The SAT field (R46). -/
def modSat (p : BitVec 27) : BitVec 2 := p.extractLsb' 3 2
/-- The PO field (R46). -/
def modPo (p : BitVec 27) : BitVec 8 := p.extractLsb' 5 8

/-- A PFX.MOD payload that the subject takes: reserved bits 0, SAT not 3, PO 0 or 9 to 249, and every field that the
subject does not use at its no-override value (R46). -/
def Sig.modOk (g : Sig) (p : BitVec 27) : Bool :=
  decide (p.extractLsb' 13 14 = 0) && decide (modSat p ≠ 3)
    && (decide (modPo p = 0) || (decide (9 ≤ (modPo p).toNat) && decide ((modPo p).toNat ≤ 249)))
    && (g.rm || decide (modRm p = 7)) && (g.sat || decide (modSat p = 0)) && (g.po || decide (modPo p = 0))

/-- The stride of slot `k` in a PFX.REP payload (R47). -/
def repStride (p : BitVec 27) (k : Nat) : BitVec 4 := p.extractLsb' (8 + 4 * k) 4
/-- The COUNT of a PFX.REP payload (R47). -/
def repCount (p : BitVec 27) : Nat := (p.extractLsb' 0 8).toNat

/-- A PFX.REP payload that the subject takes: it may be repeated, reserved bits 0, no stride for a field it lacks (R47). -/
def Sig.repOk (g : Sig) (p : BitVec 27) : Bool :=
  g.rep && decide (p.extractLsb' 24 3 = 0)
    && (g.d.isSome || decide (repStride p 0 = 0)) && (g.a.isSome || decide (repStride p 1 = 0))
    && (g.b.isSome || decide (repStride p 2 = 0)) && (g.e.isSome || decide (repStride p 3 = 0))

/-- A register field that names a register of its file (R39). -/
def SlotSig.inFile (g : SlotSig) : Bool := decide (g.num.toNat < g.file.size)

/-- The checks of R51, orders 1 and 3, on an instruction as syntax. -/
def Sig.ok (g : Sig) : Bool :=
  decide (g.prefixes ≤ 4) && decide (g.ctl.imms.length ≤ 2) && (g.imm || g.ctl.imms.isEmpty)
    && g.ctl.reg.all g.regOk && g.ctl.mod.all g.modOk && g.ctl.rep.all g.repOk
    && g.slots.all (fun s => s.all SlotSig.inFile) && g.types

end Sys2Proof
end

