-- ==== Sys2Proof/WellFormed.lean ====
section
/-! DEFINITION. When an instruction is one that the decode checks of R51 (orders 1 to 3) let through. The description of each
instruction that the checks read stands in Machine/Sig.lean. -/

namespace Sys2Proof

/-- The device hands words to none of its own steps: an instruction is well formed when its fields pass the decode checks
of R51, an event always. -/
def Instr.wf (i : Instr) : Bool := i.sig.all Sig.ok

/-- The instruction has words: it is no event. -/
def Instr.isWord (i : Instr) : Bool := i.sig.isSome

end Sys2Proof
end

