-- ==== Sys2Proof/Decode.lean ====
section
/-! DEFINITION. The decoder, total on any words and any bytes, and after it the encoder, both written from the encodings of R37 to
R57. Rejections carry the cause of R51: 0x03 chain too long, 0x02 broken chain, 0x01 everything else. -/

namespace Sys2Proof

/-- The common part and the operand fields of a word whose kind is not 11 (R37, R38): f1 is [16:12], f2 [21:17], f3 [26:22]
and f4 [31:27]. -/
structure Fields where
  f4    : BitVec 5
  f3    : BitVec 5
  f2    : BitVec 5
  f1    : BitVec 5
  major : BitVec 6
  stall : BitVec 3
  p     : BitVec 1
  kind  : BitVec 2
deriving DecidableEq, Repr, Inhabited

/-- Takes a word apart by R37 and R38. -/
def Fields.ofWord (w : W32) : Fields :=
  { f4 := w.extractLsb' 27 5, f3 := w.extractLsb' 22 5, f2 := w.extractLsb' 17 5, f1 := w.extractLsb' 12 5
    major := w.extractLsb' 6 6, stall := w.extractLsb' 3 3, p := w.extractLsb' 2 1, kind := w.extractLsb' 0 2 }

/-- Puts a word together by R37 and R38. -/
def Fields.toWord (x : Fields) : W32 :=
  x.f4 ++ x.f3 ++ x.f2 ++ x.f1 ++ x.major ++ x.stall ++ x.p ++ x.kind

/-- imm10, bits [31:22] (R38). -/
def Fields.imm10 (x : Fields) : BitVec 10 := x.f4 ++ x.f3
/-- imm15, bits [31:17] (R38). -/
def Fields.imm15 (x : Fields) : BitVec 15 := x.f4 ++ x.f3 ++ x.f2
/-- cidx, bits [29:22] (R38). -/
def Fields.cidx (x : Fields) : BitVec 8 := (x.f4.extractLsb' 0 3) ++ x.f3
/-- funct2, bits [31:30] (R38). -/
def Fields.funct2 (x : Fields) : BitVec 2 := x.f4.extractLsb' 3 2
/-- The shift amount, bits [27:22], of a shift-immediate form (R106). -/
def Fields.shamt (x : Fields) : BitVec 6 := (x.f4.extractLsb' 0 1) ++ x.f3

/-- An instruction whose unused fields must be zero (R39). -/
def whenZero {n : Nat} (z : BitVec n) (i : Option Instr) : Option Instr := if z = 0#n then i else none

/-- Major 0x00 by its minor field (R56). -/
def decodePage0M0 (c : Ctl) (x : Fields) : Option Instr :=
  match x.f4.toNat with
  | 0 => some (.add c x.f1 x.f2 x.f3)
  | 1 => some (.sub c x.f1 x.f2 x.f3)
  | 2 => some (.and c x.f1 x.f2 x.f3)
  | 3 => some (.or c x.f1 x.f2 x.f3)
  | 4 => some (.xor c x.f1 x.f2 x.f3)
  | 5 => some (.shl c x.f1 x.f2 x.f3)
  | 6 => some (.shr c x.f1 x.f2 x.f3)
  | 7 => some (.sha c x.f1 x.f2 x.f3)
  | 8 => some (.rol c x.f1 x.f2 x.f3)
  | 9 => some (.ror c x.f1 x.f2 x.f3)
  | 10 => some (.slt c x.f1 x.f2 x.f3)
  | 11 => some (.sltu c x.f1 x.f2 x.f3)
  | 12 => some (.min c x.f1 x.f2 x.f3)
  | 13 => some (.max c x.f1 x.f2 x.f3)
  | 14 => some (.minu c x.f1 x.f2 x.f3)
  | 15 => some (.maxu c x.f1 x.f2 x.f3)
  | 16 => some (.mul c x.f1 x.f2 x.f3)
  | 17 => some (.mulh c x.f1 x.f2 x.f3)
  | 18 => some (.mulhu c x.f1 x.f2 x.f3)
  | 19 => some (.div c x.f1 x.f2 x.f3)
  | 20 => some (.divu c x.f1 x.f2 x.f3)
  | 21 => some (.rem c x.f1 x.f2 x.f3)
  | 22 => some (.remu c x.f1 x.f2 x.f3)
  | 23 => whenZero x.f3 (some (.clz c x.f1 x.f2))
  | 24 => whenZero x.f3 (some (.ctz c x.f1 x.f2))
  | 25 => whenZero x.f3 (some (.popc c x.f1 x.f2))
  | _ => none

/-- Major 0x0B by its minor field (R56). -/
def decodePage0M11 (c : Ctl) (x : Fields) : Option Instr :=
  match x.funct2.toNat with
  | 0 => whenZero x.f2 (some (.ldc c x.f1 x.cidx))
  | 1 => some (.addc c x.f1 x.f2 x.cidx)
  | 2 => some (.subc c x.f1 x.f2 x.cidx)
  | 3 => some (.mulc c x.f1 x.f2 x.cidx)
  | _ => none

/-- Major 0x0C by its minor field (R56). -/
def decodePage0M12 (c : Ctl) (x : Fields) : Option Instr :=
  match x.f4.toNat with
  | 0 => whenZero x.f3 (some (.sextB c x.f1 x.f2))
  | 1 => whenZero x.f3 (some (.sextH c x.f1 x.f2))
  | 2 => whenZero x.f3 (some (.sextW c x.f1 x.f2))
  | 3 => whenZero x.f3 (some (.zextB c x.f1 x.f2))
  | 4 => whenZero x.f3 (some (.zextH c x.f1 x.f2))
  | 5 => whenZero x.f3 (some (.zextW c x.f1 x.f2))
  | _ => none

/-- Major 0x36 by its minor field (R56). -/
def decodePage0M54 (c : Ctl) (x : Fields) : Option Instr :=
  match (x.f4.extractLsb' 0 4).toNat with
  | 0 => some (.amoAdd c (x.f4.extractLsb' 4 1) x.f1 x.f2 x.f3)
  | 1 => some (.amoAnd c (x.f4.extractLsb' 4 1) x.f1 x.f2 x.f3)
  | 2 => some (.amoOr c (x.f4.extractLsb' 4 1) x.f1 x.f2 x.f3)
  | 3 => some (.amoXor c (x.f4.extractLsb' 4 1) x.f1 x.f2 x.f3)
  | 4 => some (.amoMin c (x.f4.extractLsb' 4 1) x.f1 x.f2 x.f3)
  | 5 => some (.amoMax c (x.f4.extractLsb' 4 1) x.f1 x.f2 x.f3)
  | 6 => some (.amoMinu c (x.f4.extractLsb' 4 1) x.f1 x.f2 x.f3)
  | 7 => some (.amoMaxu c (x.f4.extractLsb' 4 1) x.f1 x.f2 x.f3)
  | 8 => some (.amoSwap c (x.f4.extractLsb' 4 1) x.f1 x.f2 x.f3)
  | _ => none

/-- Major 0x3B by its minor field (R56). -/
def decodePage0M59 (c : Ctl) (x : Fields) : Option Instr :=
  match x.f4.toNat with
  | 0 => whenZero x.f1 (some (.spawn c x.f2 x.f3))
  | 1 => whenZero x.f1 (some (.arm c x.f2 x.f3))
  | 2 => whenZero x.f1 (some (.bara c x.f2 x.f3))
  | 3 => whenZero x.f1 (some (.barx c x.f2 x.f3))
  | 4 => whenZero x.f1 (some (.htset c x.f2 x.f3))
  | 5 => whenZero x.f3 (whenZero x.f1 (some (.htclr c x.f2)))
  | _ => none

/-- Major 0x3E by its minor field (R56). -/
def decodePage0M62 (c : Ctl) (x : Fields) : Option Instr :=
  match x.f4.toNat with
  | 0 => whenZero x.f1 (some (.tlbi c x.f2 x.f3))
  | 1 => whenZero x.f3 (whenZero x.f2 (whenZero x.f1 (some (.halt c))))
  | 2 => whenZero x.f3 (whenZero x.f1 (some (.brk c x.f2)))
  | 3 => whenZero x.f3 (some (.pwrq c x.f1 x.f2))
  | 4 => whenZero x.f3 (whenZero x.f2 (some (.rdcyc c x.f1)))
  | _ => none

/-- Decodes the instructions of page 0, kind 00 (R52, R56). A major that no row assigns has no instruction. -/
def decodePage0 (c : Ctl) (x : Fields) : Option Instr :=
  match x.major.toNat with
  | 0 => decodePage0M0 c x
  | 1 => some (.addi c x.f1 x.f2 x.imm10)
  | 2 => some (.andi c x.f1 x.f2 x.imm10)
  | 3 => some (.ori c x.f1 x.f2 x.imm10)
  | 4 => some (.xori c x.f1 x.f2 x.imm10)
  | 5 => whenZero (x.f4.extractLsb' 1 4) (some (.shli c x.f1 x.f2 x.shamt))
  | 6 => whenZero (x.f4.extractLsb' 1 4) (some (.shri c x.f1 x.f2 x.shamt))
  | 7 => whenZero (x.f4.extractLsb' 1 4) (some (.shai c x.f1 x.f2 x.shamt))
  | 8 => some (.slti c x.f1 x.f2 x.imm10)
  | 9 => some (.sltiu c x.f1 x.f2 x.imm10)
  | 10 => some (.muli c x.f1 x.f2 x.imm10)
  | 11 => decodePage0M11 c x
  | 12 => decodePage0M12 c x
  | 13 => whenZero x.f4 (some (.qset c x.f1 x.f2 x.f3))
  | 14 => whenZero x.f4 (whenZero x.f3 (some (.qget c x.f1 x.f2)))
  | 16 => some (.beq c x.f1 x.f2 x.imm10)
  | 17 => some (.bne c x.f1 x.f2 x.imm10)
  | 18 => some (.blt c x.f1 x.f2 x.imm10)
  | 19 => some (.bge c x.f1 x.f2 x.imm10)
  | 20 => some (.bltu c x.f1 x.f2 x.imm10)
  | 21 => some (.bgeu c x.f1 x.f2 x.imm10)
  | 22 => some (.jal c x.f1 x.imm15)
  | 23 => some (.jalr c x.f1 x.f2 x.imm10)
  | 24 => whenZero x.f4 (some (.loop c x.f1 x.f2 x.f3))
  | 25 => some (.loopi c x.f1 x.f2 x.imm10)
  | 26 => whenZero x.f4 (whenZero x.f3 (whenZero x.f2 (some (.lpbrk c x.f1))))
  | 27 => whenZero x.f4 (whenZero x.f3 (whenZero x.f2 (whenZero x.f1 (some (.endTask c)))))
  | 32 => some (.ldB c x.f1 x.f2 x.imm10)
  | 33 => some (.ldH c x.f1 x.f2 x.imm10)
  | 34 => some (.ldW c x.f1 x.f2 x.imm10)
  | 35 => some (.ldD c x.f1 x.f2 x.imm10)
  | 36 => some (.stB c x.f2 x.f1 x.imm10)
  | 37 => some (.stH c x.f2 x.f1 x.imm10)
  | 38 => some (.stW c x.f2 x.f1 x.imm10)
  | 39 => some (.stD c x.f2 x.f1 x.imm10)
  | 40 => some (.ldBu c x.f1 x.f2 x.imm10)
  | 41 => some (.ldHu c x.f1 x.f2 x.imm10)
  | 42 => some (.ldWu c x.f1 x.f2 x.imm10)
  | 43 => some (.ldvB c x.f1 x.f2 x.imm10)
  | 44 => some (.ldvH c x.f1 x.f2 x.imm10)
  | 45 => some (.ldvW c x.f1 x.f2 x.imm10)
  | 46 => some (.ldvD c x.f1 x.f2 x.imm10)
  | 47 => some (.ldvBu c x.f1 x.f2 x.imm10)
  | 48 => some (.ldvHu c x.f1 x.f2 x.imm10)
  | 49 => some (.ldvWu c x.f1 x.f2 x.imm10)
  | 50 => some (.stvB c x.f2 x.f1 x.imm10)
  | 51 => some (.stvH c x.f2 x.f1 x.imm10)
  | 52 => some (.stvW c x.f2 x.f1 x.imm10)
  | 53 => some (.stvD c x.f2 x.f1 x.imm10)
  | 54 => decodePage0M54 c x
  | 55 => some (.amoCas c x.f1 x.f2 x.f3 x.f4)
  | 56 => whenZero x.f4 (whenZero x.f1 (some (.decn c x.f2 x.f3)))
  | 57 => whenZero x.f2 (whenZero x.f1 (some (.fence c x.imm10)))
  | 58 => whenZero x.f4 (whenZero x.f3 (whenZero x.f2 (whenZero x.f1 (some (.efence c)))))
  | 59 => decodePage0M59 c x
  | 60 => whenZero x.f2 (some (.csrr c x.f1 x.imm10))
  | 61 => whenZero x.f1 (some (.csrw c x.f2 x.imm10))
  | 62 => decodePage0M62 c x
  | _ => none

/-- Major 0x00 by its minor field (R56). -/
def decodePage1M0 (c : Ctl) (x : Fields) : Option Instr :=
  match x.f4.toNat with
  | 0 => some (.faddS c x.f1 x.f2 x.f3)
  | 1 => some (.fsubS c x.f1 x.f2 x.f3)
  | 2 => some (.fmulS c x.f1 x.f2 x.f3)
  | 3 => some (.fdivS c x.f1 x.f2 x.f3)
  | 4 => whenZero x.f3 (some (.fsqrtS c x.f1 x.f2))
  | 5 => some (.fminS c x.f1 x.f2 x.f3)
  | 6 => some (.fmaxS c x.f1 x.f2 x.f3)
  | 7 => some (.fcsgnS c x.f1 x.f2 x.f3)
  | 8 => some (.fnsgnS c x.f1 x.f2 x.f3)
  | 9 => some (.fxsgnS c x.f1 x.f2 x.f3)
  | 10 => some (.fcmpqS c x.f1 x.f2 x.f3)
  | 11 => some (.fcmpsS c x.f1 x.f2 x.f3)
  | 12 => whenZero x.f3 (some (.ftypeS c x.f1 x.f2))
  | _ => none

/-- Major 0x01 by its minor field (R56). -/
def decodePage1M1 (c : Ctl) (x : Fields) : Option Instr :=
  match x.f4.toNat with
  | 0 => some (.faddD c x.f1 x.f2 x.f3)
  | 1 => some (.fsubD c x.f1 x.f2 x.f3)
  | 2 => some (.fmulD c x.f1 x.f2 x.f3)
  | 3 => some (.fdivD c x.f1 x.f2 x.f3)
  | 4 => whenZero x.f3 (some (.fsqrtD c x.f1 x.f2))
  | 5 => some (.fminD c x.f1 x.f2 x.f3)
  | 6 => some (.fmaxD c x.f1 x.f2 x.f3)
  | 7 => some (.fcsgnD c x.f1 x.f2 x.f3)
  | 8 => some (.fnsgnD c x.f1 x.f2 x.f3)
  | 9 => some (.fxsgnD c x.f1 x.f2 x.f3)
  | 10 => some (.fcmpqD c x.f1 x.f2 x.f3)
  | 11 => some (.fcmpsD c x.f1 x.f2 x.f3)
  | 12 => whenZero x.f3 (some (.ftypeD c x.f1 x.f2))
  | _ => none

/-- Major 0x06 by its minor field (R56). -/
def decodePage1M6 (c : Ctl) (x : Fields) : Option Instr :=
  match x.f4.toNat with
  | 0 => whenZero x.f3 (some (.fcvF64F32 c x.f1 x.f2))
  | 1 => whenZero x.f3 (some (.fcvF32F64 c x.f1 x.f2))
  | 2 => whenZero x.f3 (some (.fcvF32I32 c x.f1 x.f2))
  | 3 => whenZero x.f3 (some (.fcvI32F32 c x.f1 x.f2))
  | 4 => whenZero x.f3 (some (.fcvF32I64 c x.f1 x.f2))
  | 5 => whenZero x.f3 (some (.fcvI64F32 c x.f1 x.f2))
  | 6 => whenZero x.f3 (some (.fcvF64I32 c x.f1 x.f2))
  | 7 => whenZero x.f3 (some (.fcvI32F64 c x.f1 x.f2))
  | 8 => whenZero x.f3 (some (.fcvF64I64 c x.f1 x.f2))
  | 9 => whenZero x.f3 (some (.fcvI64F64 c x.f1 x.f2))
  | 10 => whenZero x.f3 (some (.fcvF32U64 c x.f1 x.f2))
  | 11 => whenZero x.f3 (some (.fcvU64F32 c x.f1 x.f2))
  | 12 => whenZero x.f3 (some (.fcvF64U64 c x.f1 x.f2))
  | 13 => whenZero x.f3 (some (.fcvU64F64 c x.f1 x.f2))
  | _ => none

/-- Major 0x07 by its minor field (R56). -/
def decodePage1M7 (c : Ctl) (x : Fields) : Option Instr :=
  match x.f4.toNat with
  | 0 => whenZero x.f3 (some (.fgetD c x.f1 x.f2))
  | 1 => whenZero x.f3 (some (.fsetD c x.f1 x.f2))
  | 2 => whenZero x.f3 (some (.fgetS c x.f1 x.f2))
  | 3 => whenZero x.f3 (some (.fsetS c x.f1 x.f2))
  | _ => none

/-- Major 0x10 by its minor field (R56). -/
def decodePage1M16 (c : Ctl) (x : Fields) : Option Instr :=
  match x.f4.toNat with
  | 0 => whenZero x.f3 (whenZero x.f2 (some (.poalloc c x.f1)))
  | 1 => whenZero x.f3 (some (.poallocX c x.f1 x.f2))
  | _ => none

/-- Major 0x18 by its minor field (R56). -/
def decodePage1M24 (c : Ctl) (x : Fields) : Option Instr :=
  match x.f4.toNat with
  | 0 => some (.pocmpEq c x.f1 x.f2 x.f3)
  | 1 => some (.pocmpLt c x.f1 x.f2 x.f3)
  | 2 => some (.pocmpLe c x.f1 x.f2 x.f3)
  | _ => none

/-- Major 0x19 by its minor field (R56). -/
def decodePage1M25 (c : Ctl) (x : Fields) : Option Instr :=
  match x.f4.toNat with
  | 16 => some (.poldP c x.f1 x.f2 x.f3)
  | _ => if x.f4.toNat < 16 then whenZero x.f3 (some (.poldS c (x.f4.extractLsb' 0 4) x.f1 x.f2)) else none

/-- Major 0x1A by its minor field (R56). -/
def decodePage1M26 (c : Ctl) (x : Fields) : Option Instr :=
  match x.f4.toNat with
  | 16 => some (.posvP c x.f1 x.f2 x.f3)
  | _ => if x.f4.toNat < 16 then whenZero x.f3 (some (.posvS c (x.f4.extractLsb' 0 4) x.f1 x.f2)) else none

/-- Major 0x1B by its minor field (R56). -/
def decodePage1M27 (c : Ctl) (x : Fields) : Option Instr :=
  match x.f4.toNat with
  | 0 => whenZero x.f3 (some (.pocvtPD c x.f1 x.f2))
  | 1 => whenZero x.f3 (some (.pocvtPS c x.f1 x.f2))
  | 2 => whenZero x.f3 (some (.pocvtPL c x.f1 x.f2))
  | 3 => whenZero x.f3 (some (.pocvtDP c x.f1 x.f2))
  | 4 => whenZero x.f3 (some (.pocvtSP c x.f1 x.f2))
  | 5 => whenZero x.f3 (some (.pocvtLP c x.f1 x.f2))
  | 6 => whenZero x.f3 (some (.pocvtPP c x.f1 x.f2))
  | _ => none

/-- Major 0x3C by its minor field (R56). -/
def decodePage1M60 (c : Ctl) (x : Fields) : Option Instr :=
  match x.f4.toNat with
  | 0 => whenZero x.f3 (whenZero x.f1 (some (.recStart c x.f2)))
  | 1 => whenZero x.f3 (whenZero x.f2 (whenZero x.f1 (some (.recStop c))))
  | _ => none

/-- Decodes the instructions of page 1, kind 01 (R53, R56). A major that no row assigns has no instruction. -/
def decodePage1 (c : Ctl) (x : Fields) : Option Instr :=
  match x.major.toNat with
  | 0 => decodePage1M0 c x
  | 1 => decodePage1M1 c x
  | 2 => some (.fmaddS c x.f1 x.f2 x.f3 x.f4)
  | 3 => some (.fmsubS c x.f1 x.f2 x.f3 x.f4)
  | 4 => some (.fmaddD c x.f1 x.f2 x.f3 x.f4)
  | 5 => some (.fmsubD c x.f1 x.f2 x.f3 x.f4)
  | 6 => decodePage1M6 c x
  | 7 => decodePage1M7 c x
  | 8 => some (.fldS c x.f1 x.f2 x.imm10)
  | 9 => some (.fldD c x.f1 x.f2 x.imm10)
  | 10 => some (.fstS c x.f2 x.f1 x.imm10)
  | 11 => some (.fstD c x.f2 x.f1 x.imm10)
  | 16 => decodePage1M16 c x
  | 17 => whenZero x.f4 (whenZero x.f3 (whenZero x.f2 (some (.pofree c x.f1))))
  | 18 => whenZero x.f4 (some (.poadd c x.f1 x.f2 x.f3))
  | 19 => whenZero x.f4 (some (.posub c x.f1 x.f2 x.f3))
  | 20 => whenZero x.f4 (some (.pomul c x.f1 x.f2 x.f3))
  | 21 => whenZero x.f4 (some (.podiv c x.f1 x.f2 x.f3))
  | 22 => whenZero x.f4 (whenZero x.f3 (some (.posqrt c x.f1 x.f2)))
  | 23 => some (.pofma c x.f1 x.f2 x.f3 x.f4)
  | 24 => decodePage1M24 c x
  | 25 => decodePage1M25 c x
  | 26 => decodePage1M26 c x
  | 27 => decodePage1M27 c x
  | 28 => some (.podot c x.f1 x.f2 x.f3 x.f4)
  | 32 => whenZero x.f4 (whenZero x.f3 (some (.tcfg c x.f1 x.f2)))
  | 33 => whenZero x.f4 (whenZero x.f3 (whenZero x.f2 (some (.tzero c x.f1))))
  | 34 => whenZero x.f4 (whenZero x.f3 (some (.tld c x.f1 x.f2)))
  | 35 => whenZero x.f4 (whenZero x.f3 (some (.tst c x.f1 x.f2)))
  | 36 => whenZero x.f4 (whenZero x.f3 (some (.twait c x.f1 x.f2)))
  | 37 => whenZero x.f4 (whenZero x.f1 (some (.wld c x.f2 x.f3)))
  | 38 => some (.mma c x.f1 x.f2 x.f3 x.f4)
  | 39 => some (.mmas c x.f1 x.f2 x.f3 x.f4)
  | 40 => some (.mmao c x.f1 x.f2 x.f3 x.f4)
  | 41 => some (.vadd c x.f4 x.f1 x.f2 x.f3)
  | 42 => some (.vsub c x.f4 x.f1 x.f2 x.f3)
  | 43 => some (.vmul c x.f4 x.f1 x.f2 x.f3)
  | 44 => some (.vfma c x.f1 x.f2 x.f3 x.f4)
  | 45 => some (.vmax c x.f4 x.f1 x.f2 x.f3)
  | 46 => some (.vmin c x.f4 x.f1 x.f2 x.f3)
  | 47 => whenZero x.f3 (some (.vexp2 c x.f4 x.f1 x.f2))
  | 48 => whenZero x.f3 (some (.vlog2 c x.f4 x.f1 x.f2))
  | 49 => whenZero x.f3 (some (.vrcp c x.f4 x.f1 x.f2))
  | 50 => whenZero x.f3 (some (.vrsq c x.f4 x.f1 x.f2))
  | 51 => whenZero x.f3 (some (.vtanh c x.f4 x.f1 x.f2))
  | 52 => whenZero x.f3 (some (.vrsum c x.f4 x.f1 x.f2))
  | 53 => whenZero x.f3 (some (.vrmax c x.f4 x.f1 x.f2))
  | 54 => whenZero x.f3 (some (.vcvt c x.f4 x.f1 x.f2))
  | 55 => whenZero x.f3 (some (.vxpose c x.f4 x.f1 x.f2))
  | 56 => whenZero x.f3 (some (.vbcast c x.f4 x.f1 x.f2))
  | 57 => some (.vscale c x.f4 x.f1 x.f2 x.f3)
  | 60 => decodePage1M60 c x
  | 61 => whenZero x.f4 (whenZero x.f3 (some (.rvs c x.f1 x.f2)))
  | 62 => whenZero x.f4 (whenZero x.f3 (whenZero x.f1 (some (.gmap c x.f2))))
  | _ => none

/-- Decodes the long words, kind 10, with their second word (R54). A major that no row assigns has no instruction. -/
def decodeLong (c : Ctl) (x : Fields) (w2 : W32) : Option Instr :=
  match x.major.toNat with
  | 0 => whenZero x.f4 (whenZero x.f3 (whenZero x.f2 (some (.liw c x.f1 w2))))
  | 1 => whenZero x.f4 (whenZero x.f3 (some (.addiw c x.f1 x.f2 w2)))
  | 2 => whenZero x.f4 (whenZero x.f3 (whenZero x.f2 (some (.jalw c x.f1 w2))))
  | 8 => whenZero x.f4 (whenZero x.f1 (some (.send c x.f2 x.f3 w2)))
  | 9 => some (.cpy c x.f1 x.f2 x.f3 x.f4 w2)
  | 10 => some (.cpym c x.f1 x.f2 x.f3 x.f4 w2)
  | 11 => some (.coll c x.f1 x.f2 x.f3 x.f4 w2)
  | 12 => whenZero x.f4 (whenZero x.f3 (whenZero x.f2 (some (.engp c x.f1 w2))))
  | 13 => whenZero x.f4 (whenZero x.f3 (whenZero x.f2 (some (.engq c x.f1 w2))))
  | 16 => whenZero x.f4 (some (.tldd c x.f1 x.f2 x.f3 w2))
  | 17 => whenZero x.f4 (some (.tstd c x.f1 x.f2 x.f3 w2))
  | 18 => some (.mmad c x.f4 x.f1 x.f2 x.f3 w2)
  | 19 => some (.mmasd c x.f4 x.f1 x.f2 x.f3 w2)
  | 20 => some (.mmaod c x.f4 x.f1 x.f2 x.f3 w2)
  | 21 => whenZero x.f4 (some (.vcvtd c x.f1 x.f2 x.f3 w2))
  | 22 => whenZero x.f4 (whenZero x.f3 (some (.dtld c x.f1 x.f2 w2)))
  | _ => none

/-- Decodes page 2, reached through PFX.PAGE (R55). A major that no row assigns has no instruction. -/
def decodePage2 (c : Ctl) (x : Fields) : Option Instr :=
  match x.major.toNat with
  | 0 => some (.hld c x.f1 x.f2 x.imm10)
  | 1 => some (.hst c x.f2 x.f1 x.imm10)
  | 2 => whenZero x.f1 (some (.hpf c x.f2 x.imm10))
  | 3 => whenZero x.f4 (whenZero x.f1 (some (.hfl c x.f2 x.f3)))
  | _ => none

/-- Why words give no instruction: they end before the instruction does, or the decode checks of R51 raise a cause. -/
inductive DecodeError where
  | short
  | cause (c : BitVec 8)
deriving DecidableEq, Repr, Inhabited

/-- The prefixes of a chain as they are read (R41, R42): `bad` is set by a TYPE of 5 to 7 and by a type that is not PFX.IMM and
comes twice, or PFX.IMM a third time (R51, order 3). -/
structure Chain where
  imms : List (BitVec 27) := []
  reg  : Option (BitVec 27) := none
  page : Option (BitVec 27) := none
  mod  : Option (BitVec 27) := none
  rep  : Option (BitVec 27) := none
  bad  : Bool := false
  n    : Nat := 0
deriving DecidableEq, Repr, Inhabited

/-- The word is a prefix word: its kind is 11 (R37, R41). -/
def isPfx (w : W32) : Bool := decide (w.extractLsb' 0 2 = 3#2)

/-- Adds one prefix word to a chain (R41, R42). -/
def Chain.push (h : Chain) (w : W32) : Chain :=
  let p := w.extractLsb' 5 27
  let h := { h with n := h.n + 1 }
  match (w.extractLsb' 2 3).toNat with
  | 0 => { h with imms := h.imms ++ [p], bad := h.bad || decide (2 ≤ h.imms.length) }
  | 1 => { h with reg := some p, bad := h.bad || h.reg.isSome }
  | 2 => { h with page := some p, bad := h.bad || h.page.isSome }
  | 3 => { h with mod := some p, bad := h.bad || h.mod.isSome }
  | 4 => { h with rep := some p, bad := h.bad || h.rep.isSome }
  | _ => { h with bad := true }

/-- The control part that a chain and its subject's STALL give. -/
def Chain.ctl (h : Chain) (stall : BitVec 3) : Ctl :=
  { stall := stall, imms := h.imms, reg := h.reg, mod := h.mod, rep := h.rep }

/-- Reads the subject of a chain: page, major and minor by R45 and R52 to R56. -/
def decodeSubject (h : Chain) (x : Fields) (w2 : W32) : Option Instr :=
  let c := h.ctl x.stall
  match h.page with
  | some p => if x.kind = 0#2 ∧ p = 2#27 then decodePage2 c x else none
  | none =>
    match x.kind.toNat with
    | 0 => decodePage0 c x
    | 1 => decodePage1 c x
    | 2 => decodeLong c x w2
    | _ => none

/-- The checks of R51, orders 1 to 3, once the chain has been read and its subject is `w`, followed by `rest`. -/
def decodeAfter (h : Chain) (w : W32) (rest : List W32) : Except DecodeError Instr :=
  let x := Fields.ofWord w
  if (x.p = 1#1) ≠ (h.n ≠ 0) then .error (.cause 0x02)
  else if x.kind = 2#2 ∧ rest = [] then .error .short
  else if h.bad then .error (.cause 0x01)
  else
    match decodeSubject h x (rest.headD 0) with
    | none => .error (.cause 0x01)
    | some i => if i.wf then .ok i else .error (.cause 0x01)

/-- Reads the prefixes, then the subject: a fifth prefix word raises 0x03 (R48, R51). The number counts the prefixes that may
still come. -/
def decodeChain : Nat → Chain → List W32 → Except DecodeError Instr
  | _, _, [] => .error .short
  | n, h, w :: ws =>
    if isPfx w then
      match n with
      | 0 => .error (.cause 0x03)
      | n + 1 => decodeChain n (h.push w) ws
    else decodeAfter h w ws

/-- Decodes the instruction at the head of a list of words. -/
def decodeWords (ws : List W32) : Except DecodeError Instr := decodeChain 4 {} ws

/-- The little-endian word that four bytes hold (R2, R37). -/
def wordOfBytes (b0 b1 b2 b3 : Byte) : W32 := b3 ++ b2 ++ b1 ++ b0

/-- The words that a list of bytes holds; a rest of fewer than four bytes holds none. -/
def wordsOfBytes : List Byte → List W32
  | b0 :: b1 :: b2 :: b3 :: bs => wordOfBytes b0 b1 b2 b3 :: wordsOfBytes bs
  | _ => []

/-- The bytes of a word, lowest first (R2). -/
def bytesOfWord (w : W32) : List Byte :=
  [w.extractLsb' 0 8, w.extractLsb' 8 8, w.extractLsb' 16 8, w.extractLsb' 24 8]

/-- Decodes the instruction at the head of any bytes. -/
def decodeBytes (bs : List Byte) : Except DecodeError Instr := decodeWords (wordsOfBytes bs)

/-- Words in their byte order, the first at the lowest address. -/
def bytesOfWords : List W32 → List Byte
  | [] => []
  | w :: ws => bytesOfWord w ++ bytesOfWords ws

/-- The longest instruction: four prefixes, a subject and a second word (R40, R42). -/
def longestWords : Nat := 6

/-- The words of an instruction whose bits are `w`, bit 0 the least of the first word. -/
def tableWords (w : Nat) : List W32 :=
  (List.range longestWords).map fun k => BitVec.ofNat 32 (w >>> (32 * k))

/-- What the decoder reads from the instruction whose low `nbits` bits are those of `w` and whose other bits are 0. -/
def decodeTableWord (nbits w : Nat) : Option Instr :=
  match decodeBytes (bytesOfWords (tableWords (w % 2 ^ nbits))) with
  | .ok i => some i
  | .error _ => none

/-! ### The encoder -/

/-- The subject of an instruction as the encoding tables give it: its fields with P and STALL left 0, the second word of a long
one, and whether it stands on page 2. -/
structure Enc where
  x    : Fields
  w2   : Option W32 := none
  page : Bool := false
deriving DecidableEq, Repr, Inhabited

/-- An R-form or R4-form subject. -/
def encR (kind : BitVec 2) (major : BitVec 6) (f4 f3 f2 f1 : BitVec 5) : Fields :=
  { f4 := f4, f3 := f3, f2 := f2, f1 := f1, major := major, stall := 0, p := 0, kind := kind }
/-- A subject with a 10-bit immediate (forms I, S and B). -/
def encI (kind : BitVec 2) (major : BitVec 6) (i : BitVec 10) (f2 f1 : BitVec 5) : Fields :=
  encR kind major (i.extractLsb' 5 5) (i.extractLsb' 0 5) f2 f1
/-- A J-form subject. -/
def encJ (kind : BitVec 2) (major : BitVec 6) (i : BitVec 15) (f1 : BitVec 5) : Fields :=
  encR kind major (i.extractLsb' 10 5) (i.extractLsb' 5 5) (i.extractLsb' 0 5) f1
/-- A C-form subject. -/
def encC (kind : BitVec 2) (major : BitVec 6) (fn : BitVec 2) (k : BitVec 8) (f2 f1 : BitVec 5) : Fields :=
  encR kind major (fn ++ k.extractLsb' 5 3) (k.extractLsb' 0 5) f2 f1

/-- The subject of each instruction, from the opcode maps and forms (R38, R52 to R56). -/
def Instr.enc : Instr → Option Enc
  | .add _ d a b => some { x := encR 0 0 0 b a d }
  | .sub _ d a b => some { x := encR 0 0 1 b a d }
  | .and _ d a b => some { x := encR 0 0 2 b a d }
  | .or _ d a b => some { x := encR 0 0 3 b a d }
  | .xor _ d a b => some { x := encR 0 0 4 b a d }
  | .shl _ d a b => some { x := encR 0 0 5 b a d }
  | .shr _ d a b => some { x := encR 0 0 6 b a d }
  | .sha _ d a b => some { x := encR 0 0 7 b a d }
  | .rol _ d a b => some { x := encR 0 0 8 b a d }
  | .ror _ d a b => some { x := encR 0 0 9 b a d }
  | .slt _ d a b => some { x := encR 0 0 10 b a d }
  | .sltu _ d a b => some { x := encR 0 0 11 b a d }
  | .min _ d a b => some { x := encR 0 0 12 b a d }
  | .max _ d a b => some { x := encR 0 0 13 b a d }
  | .minu _ d a b => some { x := encR 0 0 14 b a d }
  | .maxu _ d a b => some { x := encR 0 0 15 b a d }
  | .mul _ d a b => some { x := encR 0 0 16 b a d }
  | .mulh _ d a b => some { x := encR 0 0 17 b a d }
  | .mulhu _ d a b => some { x := encR 0 0 18 b a d }
  | .div _ d a b => some { x := encR 0 0 19 b a d }
  | .divu _ d a b => some { x := encR 0 0 20 b a d }
  | .rem _ d a b => some { x := encR 0 0 21 b a d }
  | .remu _ d a b => some { x := encR 0 0 22 b a d }
  | .clz _ d a => some { x := encR 0 0 23 0 a d }
  | .ctz _ d a => some { x := encR 0 0 24 0 a d }
  | .popc _ d a => some { x := encR 0 0 25 0 a d }
  | .addi _ d a i => some { x := encI 0 1 i a d }
  | .andi _ d a i => some { x := encI 0 2 i a d }
  | .ori _ d a i => some { x := encI 0 3 i a d }
  | .xori _ d a i => some { x := encI 0 4 i a d }
  | .shli _ d a i => some { x := encI 0 5 (0#4 ++ i) a d }
  | .shri _ d a i => some { x := encI 0 6 (0#4 ++ i) a d }
  | .shai _ d a i => some { x := encI 0 7 (0#4 ++ i) a d }
  | .slti _ d a i => some { x := encI 0 8 i a d }
  | .sltiu _ d a i => some { x := encI 0 9 i a d }
  | .muli _ d a i => some { x := encI 0 10 i a d }
  | .ldc _ d k => some { x := encC 0 11 0 k 0 d }
  | .addc _ d a k => some { x := encC 0 11 1 k a d }
  | .subc _ d a k => some { x := encC 0 11 2 k a d }
  | .mulc _ d a k => some { x := encC 0 11 3 k a d }
  | .sextB _ d a => some { x := encR 0 12 0 0 a d }
  | .sextH _ d a => some { x := encR 0 12 1 0 a d }
  | .sextW _ d a => some { x := encR 0 12 2 0 a d }
  | .zextB _ d a => some { x := encR 0 12 3 0 a d }
  | .zextH _ d a => some { x := encR 0 12 4 0 a d }
  | .zextW _ d a => some { x := encR 0 12 5 0 a d }
  | .qset _ d a b => some { x := encR 0 13 0 b a d }
  | .qget _ d a => some { x := encR 0 14 0 0 a d }
  | .liw _ d w2 => some { x := encR 2 0 0 0 0 d, w2 := some w2 }
  | .addiw _ d a w2 => some { x := encR 2 1 0 0 a d, w2 := some w2 }
  | .rdcyc _ d => some { x := encR 0 62 4 0 0 d }
  | .beq _ a b i => some { x := encI 0 16 i b a }
  | .bne _ a b i => some { x := encI 0 17 i b a }
  | .blt _ a b i => some { x := encI 0 18 i b a }
  | .bge _ a b i => some { x := encI 0 19 i b a }
  | .bltu _ a b i => some { x := encI 0 20 i b a }
  | .bgeu _ a b i => some { x := encI 0 21 i b a }
  | .jal _ d i => some { x := encJ 0 22 i d }
  | .jalr _ d a i => some { x := encI 0 23 i a d }
  | .jalw _ d w2 => some { x := encR 2 2 0 0 0 d, w2 := some w2 }
  | .loop _ d a b => some { x := encR 0 24 0 b a d }
  | .loopi _ d a i => some { x := encI 0 25 i a d }
  | .lpbrk _ d => some { x := encR 0 26 0 0 0 d }
  | .endTask _ => some { x := encR 0 27 0 0 0 0 }
  | .ldB _ d a i => some { x := encI 0 32 i a d }
  | .ldH _ d a i => some { x := encI 0 33 i a d }
  | .ldW _ d a i => some { x := encI 0 34 i a d }
  | .ldD _ d a i => some { x := encI 0 35 i a d }
  | .stB _ a b i => some { x := encI 0 36 i a b }
  | .stH _ a b i => some { x := encI 0 37 i a b }
  | .stW _ a b i => some { x := encI 0 38 i a b }
  | .stD _ a b i => some { x := encI 0 39 i a b }
  | .ldBu _ d a i => some { x := encI 0 40 i a d }
  | .ldHu _ d a i => some { x := encI 0 41 i a d }
  | .ldWu _ d a i => some { x := encI 0 42 i a d }
  | .ldvB _ d a i => some { x := encI 0 43 i a d }
  | .ldvH _ d a i => some { x := encI 0 44 i a d }
  | .ldvW _ d a i => some { x := encI 0 45 i a d }
  | .ldvD _ d a i => some { x := encI 0 46 i a d }
  | .ldvBu _ d a i => some { x := encI 0 47 i a d }
  | .ldvHu _ d a i => some { x := encI 0 48 i a d }
  | .ldvWu _ d a i => some { x := encI 0 49 i a d }
  | .stvB _ a b i => some { x := encI 0 50 i a b }
  | .stvH _ a b i => some { x := encI 0 51 i a b }
  | .stvW _ a b i => some { x := encI 0 52 i a b }
  | .stvD _ a b i => some { x := encI 0 53 i a b }
  | .amoAdd _ w d a b => some { x := encR 0 54 (w ++ 0#4) b a d }
  | .amoAnd _ w d a b => some { x := encR 0 54 (w ++ 1#4) b a d }
  | .amoOr _ w d a b => some { x := encR 0 54 (w ++ 2#4) b a d }
  | .amoXor _ w d a b => some { x := encR 0 54 (w ++ 3#4) b a d }
  | .amoMin _ w d a b => some { x := encR 0 54 (w ++ 4#4) b a d }
  | .amoMax _ w d a b => some { x := encR 0 54 (w ++ 5#4) b a d }
  | .amoMinu _ w d a b => some { x := encR 0 54 (w ++ 6#4) b a d }
  | .amoMaxu _ w d a b => some { x := encR 0 54 (w ++ 7#4) b a d }
  | .amoSwap _ w d a b => some { x := encR 0 54 (w ++ 8#4) b a d }
  | .amoCas _ d a b e => some { x := encR 0 55 e b a d }
  | .decn _ a b => some { x := encR 0 56 0 b a 0 }
  | .fence _ i => some { x := encI 0 57 i 0 0 }
  | .efence _ => some { x := encR 0 58 0 0 0 0 }
  | .spawn _ a b => some { x := encR 0 59 0 b a 0 }
  | .arm _ a b => some { x := encR 0 59 1 b a 0 }
  | .bara _ a b => some { x := encR 0 59 2 b a 0 }
  | .barx _ a b => some { x := encR 0 59 3 b a 0 }
  | .htset _ a b => some { x := encR 0 59 4 b a 0 }
  | .htclr _ a => some { x := encR 0 59 5 0 a 0 }
  | .csrr _ d i => some { x := encI 0 60 i 0 d }
  | .csrw _ a i => some { x := encI 0 61 i a 0 }
  | .tlbi _ a b => some { x := encR 0 62 0 b a 0 }
  | .halt _ => some { x := encR 0 62 1 0 0 0 }
  | .brk _ a => some { x := encR 0 62 2 0 a 0 }
  | .pwrq _ d a => some { x := encR 0 62 3 0 a d }
  | .faddS _ d a b => some { x := encR 1 0 0 b a d }
  | .fsubS _ d a b => some { x := encR 1 0 1 b a d }
  | .fmulS _ d a b => some { x := encR 1 0 2 b a d }
  | .fdivS _ d a b => some { x := encR 1 0 3 b a d }
  | .fsqrtS _ d a => some { x := encR 1 0 4 0 a d }
  | .fminS _ d a b => some { x := encR 1 0 5 b a d }
  | .fmaxS _ d a b => some { x := encR 1 0 6 b a d }
  | .fcsgnS _ d a b => some { x := encR 1 0 7 b a d }
  | .fnsgnS _ d a b => some { x := encR 1 0 8 b a d }
  | .fxsgnS _ d a b => some { x := encR 1 0 9 b a d }
  | .fcmpqS _ d a b => some { x := encR 1 0 10 b a d }
  | .fcmpsS _ d a b => some { x := encR 1 0 11 b a d }
  | .ftypeS _ d a => some { x := encR 1 0 12 0 a d }
  | .faddD _ d a b => some { x := encR 1 1 0 b a d }
  | .fsubD _ d a b => some { x := encR 1 1 1 b a d }
  | .fmulD _ d a b => some { x := encR 1 1 2 b a d }
  | .fdivD _ d a b => some { x := encR 1 1 3 b a d }
  | .fsqrtD _ d a => some { x := encR 1 1 4 0 a d }
  | .fminD _ d a b => some { x := encR 1 1 5 b a d }
  | .fmaxD _ d a b => some { x := encR 1 1 6 b a d }
  | .fcsgnD _ d a b => some { x := encR 1 1 7 b a d }
  | .fnsgnD _ d a b => some { x := encR 1 1 8 b a d }
  | .fxsgnD _ d a b => some { x := encR 1 1 9 b a d }
  | .fcmpqD _ d a b => some { x := encR 1 1 10 b a d }
  | .fcmpsD _ d a b => some { x := encR 1 1 11 b a d }
  | .ftypeD _ d a => some { x := encR 1 1 12 0 a d }
  | .fmaddS _ d a b e => some { x := encR 1 2 e b a d }
  | .fmsubS _ d a b e => some { x := encR 1 3 e b a d }
  | .fmaddD _ d a b e => some { x := encR 1 4 e b a d }
  | .fmsubD _ d a b e => some { x := encR 1 5 e b a d }
  | .fcvF64F32 _ d a => some { x := encR 1 6 0 0 a d }
  | .fcvF32F64 _ d a => some { x := encR 1 6 1 0 a d }
  | .fcvF32I32 _ d a => some { x := encR 1 6 2 0 a d }
  | .fcvI32F32 _ d a => some { x := encR 1 6 3 0 a d }
  | .fcvF32I64 _ d a => some { x := encR 1 6 4 0 a d }
  | .fcvI64F32 _ d a => some { x := encR 1 6 5 0 a d }
  | .fcvF64I32 _ d a => some { x := encR 1 6 6 0 a d }
  | .fcvI32F64 _ d a => some { x := encR 1 6 7 0 a d }
  | .fcvF64I64 _ d a => some { x := encR 1 6 8 0 a d }
  | .fcvI64F64 _ d a => some { x := encR 1 6 9 0 a d }
  | .fcvF32U64 _ d a => some { x := encR 1 6 10 0 a d }
  | .fcvU64F32 _ d a => some { x := encR 1 6 11 0 a d }
  | .fcvF64U64 _ d a => some { x := encR 1 6 12 0 a d }
  | .fcvU64F64 _ d a => some { x := encR 1 6 13 0 a d }
  | .fgetD _ d a => some { x := encR 1 7 0 0 a d }
  | .fsetD _ d a => some { x := encR 1 7 1 0 a d }
  | .fgetS _ d a => some { x := encR 1 7 2 0 a d }
  | .fsetS _ d a => some { x := encR 1 7 3 0 a d }
  | .fldS _ d a i => some { x := encI 1 8 i a d }
  | .fldD _ d a i => some { x := encI 1 9 i a d }
  | .fstS _ a b i => some { x := encI 1 10 i a b }
  | .fstD _ a b i => some { x := encI 1 11 i a b }
  | .poalloc _ d => some { x := encR 1 16 0 0 0 d }
  | .poallocX _ d a => some { x := encR 1 16 1 0 a d }
  | .pofree _ d => some { x := encR 1 17 0 0 0 d }
  | .poadd _ d a b => some { x := encR 1 18 0 b a d }
  | .posub _ d a b => some { x := encR 1 19 0 b a d }
  | .pomul _ d a b => some { x := encR 1 20 0 b a d }
  | .podiv _ d a b => some { x := encR 1 21 0 b a d }
  | .posqrt _ d a => some { x := encR 1 22 0 0 a d }
  | .pofma _ d a b e => some { x := encR 1 23 e b a d }
  | .pocmpEq _ d a b => some { x := encR 1 24 0 b a d }
  | .pocmpLt _ d a b => some { x := encR 1 24 1 b a d }
  | .pocmpLe _ d a b => some { x := encR 1 24 2 b a d }
  | .poldS _ n d a => some { x := encR 1 25 (0#1 ++ n) 0 a d }
  | .poldP _ d a b => some { x := encR 1 25 16 b a d }
  | .posvS _ n d a => some { x := encR 1 26 (0#1 ++ n) 0 a d }
  | .posvP _ d a b => some { x := encR 1 26 16 b a d }
  | .pocvtPD _ d a => some { x := encR 1 27 0 0 a d }
  | .pocvtPS _ d a => some { x := encR 1 27 1 0 a d }
  | .pocvtPL _ d a => some { x := encR 1 27 2 0 a d }
  | .pocvtDP _ d a => some { x := encR 1 27 3 0 a d }
  | .pocvtSP _ d a => some { x := encR 1 27 4 0 a d }
  | .pocvtLP _ d a => some { x := encR 1 27 5 0 a d }
  | .pocvtPP _ d a => some { x := encR 1 27 6 0 a d }
  | .podot _ d a b e => some { x := encR 1 28 e b a d }
  | .tcfg _ d a => some { x := encR 1 32 0 0 a d }
  | .tzero _ d => some { x := encR 1 33 0 0 0 d }
  | .tld _ d a => some { x := encR 1 34 0 0 a d }
  | .tst _ d a => some { x := encR 1 35 0 0 a d }
  | .tldd _ d a b w2 => some { x := encR 2 16 0 b a d, w2 := some w2 }
  | .tstd _ d a b w2 => some { x := encR 2 17 0 b a d, w2 := some w2 }
  | .twait _ d a => some { x := encR 1 36 0 0 a d }
  | .wld _ a b => some { x := encR 1 37 0 b a 0 }
  | .dtld _ d a w2 => some { x := encR 2 22 0 0 a d, w2 := some w2 }
  | .mma _ d a b e => some { x := encR 1 38 e b a d }
  | .mmas _ d a b e => some { x := encR 1 39 e b a d }
  | .mmao _ d a b e => some { x := encR 1 40 e b a d }
  | .mmad _ fn d a b w2 => some { x := encR 2 18 fn b a d, w2 := some w2 }
  | .mmasd _ fn d a b w2 => some { x := encR 2 19 fn b a d, w2 := some w2 }
  | .mmaod _ fn d a b w2 => some { x := encR 2 20 fn b a d, w2 := some w2 }
  | .vadd _ t d a b => some { x := encR 1 41 t b a d }
  | .vsub _ t d a b => some { x := encR 1 42 t b a d }
  | .vmul _ t d a b => some { x := encR 1 43 t b a d }
  | .vfma _ d a b e => some { x := encR 1 44 e b a d }
  | .vmax _ t d a b => some { x := encR 1 45 t b a d }
  | .vmin _ t d a b => some { x := encR 1 46 t b a d }
  | .vexp2 _ t d a => some { x := encR 1 47 t 0 a d }
  | .vlog2 _ t d a => some { x := encR 1 48 t 0 a d }
  | .vrcp _ t d a => some { x := encR 1 49 t 0 a d }
  | .vrsq _ t d a => some { x := encR 1 50 t 0 a d }
  | .vtanh _ t d a => some { x := encR 1 51 t 0 a d }
  | .vrsum _ t d a => some { x := encR 1 52 t 0 a d }
  | .vrmax _ t d a => some { x := encR 1 53 t 0 a d }
  | .vcvt _ t d a => some { x := encR 1 54 t 0 a d }
  | .vxpose _ t d a => some { x := encR 1 55 t 0 a d }
  | .vbcast _ t d a => some { x := encR 1 56 t 0 a d }
  | .vscale _ t d a b => some { x := encR 1 57 t b a d }
  | .vcvtd _ d a b w2 => some { x := encR 2 21 0 b a d, w2 := some w2 }
  | .recStart _ a => some { x := encR 1 60 0 0 a 0 }
  | .recStop _ => some { x := encR 1 60 1 0 0 0 }
  | .rvs _ d a => some { x := encR 1 61 0 0 a d }
  | .gmap _ a => some { x := encR 1 62 0 0 a 0 }
  | .send _ a b w2 => some { x := encR 2 8 0 b a 0, w2 := some w2 }
  | .cpy _ d a b e w2 => some { x := encR 2 9 e b a d, w2 := some w2 }
  | .cpym _ d a b e w2 => some { x := encR 2 10 e b a d, w2 := some w2 }
  | .coll _ d a b e w2 => some { x := encR 2 11 e b a d, w2 := some w2 }
  | .engp _ d w2 => some { x := encR 2 12 0 0 0 d, w2 := some w2 }
  | .engq _ d w2 => some { x := encR 2 13 0 0 0 d, w2 := some w2 }
  | .hld _ d a i => some { x := encI 0 0 i a d, page := true }
  | .hst _ a b i => some { x := encI 0 1 i a b, page := true }
  | .hpf _ a i => some { x := encI 0 2 i a 0, page := true }
  | .hfl _ a b => some { x := encR 0 3 0 b a 0, page := true }
  | .variableLatencyResult _ _ _ => none
  | .wuInstructionStart _ _ => none
  | .wuInstructionComplete _ _ => none
  | .wuFault _ _ => none
  | .wuSlotBoundary _ => none
  | .ballastWindow _ => none
  | .ballastStart _ => none
  | .descriptorInsert _ => none
  | .pop _ => none
  | .runEnd _ _ => none
  | .budgetExpiry _ _ => none
  | .slotInject _ _ => none
  | .retryTimer _ _ => none
  | .ctxSlotDrain _ _ => none
  | .ctxSlotIn _ _ => none
  | .ctxSlotOut _ _ => none
  | .balanceExchange _ => none
  | .balanceMoveSend _ => none
  | .barrierTimeout _ _ => none
  | .msgLoad _ => none
  | .msgStore _ => none
  | .msgAmo _ => none
  | .msgCas _ => none
  | .msgDecn _ => none
  | .msgSend _ => none
  | .msgSpawn _ => none
  | .msgArm _ => none
  | .msgBara _ => none
  | .msgBarx _ => none
  | .msgCpy _ => none
  | .msgCpym _ => none
  | .msgColl _ => none
  | .engineCommandBegin _ _ => none
  | .cpyComplete _ _ => none
  | .cpymComplete _ _ => none
  | .collComplete _ _ => none
  | .engineFault _ _ => none
  | .msgContrib _ => none
  | .msgResult _ => none
  | .msgLine _ _ => none
  | .msgData _ => none
  | .msgAck _ => none
  | .msgInvack _ => none
  | .msgNack _ => none
  | .msgInval _ => none
  | .msgTaskmove _ => none
  | .malformedMessage _ => none
  | .strokePeriod _ => none
  | .msgStroke _ => none
  | .msgAccuse _ => none
  | .msgFence _ => none
  | .msgFreeze _ => none
  | .msgFenced _ => none
  | .remapToSpare _ => none
  | .msgTest _ => none
  | .selfTestComplete _ _ _ => none
  | .msgAppeal _ => none
  | .msgAdmit _ => none
  | .msgRefuse _ => none
  | .msgReopen _ => none
  | .msgFault _ => none
  | .lptEntryFenced _ _ => none
  | .tlbMissRetry _ => none
  | .walkComplete _ => none
  | .cmdNop => none
  | .cmdLaunch => none
  | .cmdLinkmap => none
  | .cmdCtxsetIn => none
  | .cmdCtxsetDrain => none
  | .cmdIllegal => none
  | .linkmapDrainEnd _ => none
  | .linkmapRetuneEnd => none
  | .linkmapTrainEnd _ _ _ _ => none
  | .cqTailWrite _ => none
  | .contextCommit _ _ => none
  | .contextTeardown _ => none
  | .hostTlbi _ => none
  | .wavelengthPark _ _ => none
  | .automaticWake _ => none
  | .wakeComplete _ => none
  | .opticalFrame _ _ _ => none
  | .dbgResume _ _ => none
  | .dbgRetry _ _ => none
  | .dbgSkip _ _ => none
  | .dbgAbandon _ _ => none
  | .dbgRedeliver _ _ => none
  | .dbgStep _ _ => none
  | .dbgFreeze _ _ => none
  | .debugWindowWrite _ _ => none
  | .registerWrite _ _ _ => none
  | .hostMemoryAccess _ _ _ => none
  | .attestationRequest _ => none
  | .recoveryImage _ => none
  | .temperatureSample _ _ => none
  | .ceilingUpdate => none
  | .limitStep _ => none
  | .boostWindowExpiry => none
  | .boostRecoveryEnd => none
  | .opStep _ => none
  | .retentionEntry _ => none
  | .retentionWake _ => none
  | .migrationStart _ => none
  | .migrationCopy _ => none
  | .migrationSwitch _ => none
  | .migrationDrain _ => none
  | .overCurrent => none
  | .overVoltage => none
  | .underVoltage => none
  | .powerGoodLoss => none
  | .supplyRecovery _ => none
  | .coolantFault _ _ => none
  | .slopeBreach => none
  | .powerUp => none
  | .tamperAlarm => none
  | .glitchAlarm => none
  | .overtempAlarm => none
  | .linkCrcFailure _ _ _ => none
  | .linkLost _ _ => none
  | .faultRegionRouting _ _ => none
  | .laneRecalibration _ _ => none
  | .loftLoss _ _ => none
  | .eccScrub _ _ _ => none
  | .uncorrectableStructureError _ _ _ _ => none
  | .decodeFault _ => none
  | .instructionFetchFault _ _ _ => none
  | .appealAnswerTimeout _ => none
  | .standbyDomainPowerLoss => none

/-- A prefix word of the given TYPE (R41). -/
def pfxWord (type : BitVec 3) (payload : BitVec 27) : W32 := payload ++ type ++ 3#2

/-- The prefixes of an instruction in the order of R62: PFX.PAGE, PFX.REG, PFX.MOD, PFX.REP, then PFX.IMM high part first. -/
def pfxWords (c : Ctl) (page : Bool) : List W32 :=
  (if page then [pfxWord 2 2] else []) ++ (c.reg.toList.map (pfxWord 1)) ++ (c.mod.toList.map (pfxWord 3))
    ++ (c.rep.toList.map (pfxWord 4)) ++ (c.imms.map (pfxWord 0))

/-- The words of an instruction; an event has none. -/
def encode (i : Instr) : List W32 :=
  match i.enc, i.sig with
  | some n, some g =>
    let ps := pfxWords g.ctl n.page
    let x : Fields := { n.x with stall := g.ctl.stall, p := if ps.isEmpty then 0 else 1 }
    ps ++ [x.toWord] ++ n.w2.toList
  | _, _ => []

end Sys2Proof
end

