-- ==== Sys2Proof/Machine/Translate.lean ====
section
/-! DEFINITION. Translation of virtual addresses (R334 to R337), homes (R202, R203) and the checks of an access by virtual address
(R205, R230, R252, R345). -/

namespace Sys2Proof.Machine

/-- The kinds of access that a translation tells apart (R337, R379). -/
inductive Acc where
  | load
  | store
  | amo
  | fetch
deriving DecidableEq, Repr, Inhabited

/-- The access code of DETAIL (R379). -/
def Acc.code : Acc → Nat
  | .load => 0 | .store => 1 | .amo => 2 | .fetch => 3

/-! ### Table entries (R335) -/

/-- Bytes that a leaf of a level maps (R334); level 0 has no leaf. -/
def pageSize (lvl : Nat) : Nat := if lvl = 1 then 2 ^ 36 else if lvl = 2 then 2 ^ 25 else 2 ^ 14
/-- Index of a level in a virtual address (R334). -/
def vaIndex (va : Word) (lvl : Nat) : Nat := bitsOf va.toNat (47 - 11 * lvl) 11
def entryV (e : Word) : Bool := e.getLsbD 0
def entryT (e : Word) : Bool := e.getLsbD 1
/-- NEXT of a table entry and FRAME of a homed leaf: address bits [47:14]. -/
def entryAddr (e : Word) : Nat := (e.extractLsb' 14 34).toNat * 2 ^ 14
def leafR (e : Word) : Bool := e.getLsbD 2
def leafW (e : Word) : Bool := e.getLsbD 3
def leafX (e : Word) : Bool := e.getLsbD 4
def leafS (e : Word) : Bool := e.getLsbD 5
def leafContig (e : Word) : Bool := e.getLsbD 6
def leafHashed (e : Word) : Bool := e.getLsbD 7
def leafCtx (e : Word) : Nat := (e.extractLsb' 58 6).toNat
def leafOX (e : Word) : Nat := (e.extractLsb' 18 4).toNat
def leafOY (e : Word) : Nat := (e.extractLsb' 22 4).toNat
def leafOZ (e : Word) : Nat := (e.extractLsb' 26 3).toNat
def leafLX (e : Word) : Nat := (e.extractLsb' 29 3).toNat
def leafLY (e : Word) : Nat := (e.extractLsb' 32 3).toNat
def leafLZ (e : Word) : Nat := (e.extractLsb' 35 2).toNat
def leafLmOff (e : Word) : Nat := (e.extractLsb' 37 16).toNat * 64

/-- A table entry's zero bits (R335). -/
def tableEntryOk (e : Word) (lvl : Nat) : Bool :=
  decide (lvl < 3) && decide (e.extractLsb' 48 16 = 0) && decide (e.extractLsb' 2 12 = 0)

/-- The bytes of a homed page: mapped, within one space, in no hole, and in one channel core's memory at most (R22, R23, R252,
R335). -/
def frameOk (f size : Nat) : Bool :=
  decide (f % size = 0) &&
    match spaceOf f, spaceOf (f + size - 1) with
    | .cell a, .cell b => decide (a = b) && decide (f % Config.aperture + size ≤ Config.lmBytes)
    | .bulk, .bulk => true
    | .host, .host => true
    | .port a, .port b => decide (a = b)
    | .chan a, .chan b => decide (a = b)
    | .dev, .dev => decide (f + size ≤ 0x410000000000) || decide (0x410000000000 + 0x40000 * Config.channels ≤ f)
    | _, _ => false

/-- The limits of a hashed page (R203). -/
def hashOk (e : Word) (size : Nat) : Bool :=
  let n := 2 ^ (leafLX e + leafLY e + leafLZ e)
  decide (leafLX e ≤ 4) && decide (leafLY e ≤ 4) && decide (leafOX e % 2 ^ leafLX e = 0) && decide (leafOY e % 2 ^ leafLY e = 0)
    && decide (leafOZ e % 2 ^ leafLZ e = 0) && decide (n ≤ size / 64) && decide (leafLmOff e % (size / n) = 0)
    && decide (leafLmOff e + size / n ≤ Config.lmBytes)

/-- A leaf that is not malformed (R335). -/
def leafOk (e : Word) (lvl : Nat) : Bool :=
  let size := pageSize lvl
  decide (1 ≤ lvl) && !(leafW e && !leafR e) && decide (e.extractLsb' 8 6 = 0) && decide (e.extractLsb' 53 5 = 0)
    && !(lvl == 1 && leafContig e)
    && (if leafHashed e then decide (2 ≤ lvl) && !leafContig e && decide (e.extractLsb' 14 4 = 0) && hashOk e size
        else decide (e.extractLsb' 48 5 = 0) && frameOk (entryAddr e) size)

/-! ### The walk (R334, R337 checks 2 to 4) -/

/-- Walks from a table on, `fuel` levels at most: the level and the leaf, or the cause and its level. -/
def State.walkFrom (s : State) (va : Word) (table lvl : Nat) : Nat → Except (BitVec 8 × Nat) (Nat × Word)
  | 0 => .error (0x21, lvl)
  | k + 1 =>
    let a := table + 8 * vaIndex va lvl
    if spaceOf table ≠ .bulk ∨ spaceOf a ≠ .bulk ∨ s.poisoned a then .error (0x23, lvl)
    else
      let e := s.readWord a
      if !entryV e then .error (0x20, lvl)
      else if entryT e then
        if tableEntryOk e lvl then State.walkFrom s va (entryAddr e) (lvl + 1) k else .error (0x21, lvl)
      else if leafOk e lvl then .ok (lvl, e)
      else .error (0x21, lvl)

/-- PT_ROOT of a context (R329). -/
def State.ptRoot (s : State) (ctx : Nat) : Nat := entryAddr (vget (s.ctxEnt ctx).words 0)

/-- The page that a virtual address lies in at a level. -/
def vpn (va : Word) (lvl : Nat) : Nat := bitsOf va.toNat 0 58 / pageSize lvl

/-- The number of an address's page at a level. -/
abbrev pageNo (va : Word) (lvl : Nat) : Nat := vpn va lvl
/-- The page of an address is another one of the CONTIG group of an entry's page (R336). -/
def TlbEnt.groupHas (e : TlbEnt) (va : Word) : Bool :=
  leafContig e.leaf && decide (e.vpn ≠ pageNo va e.level) && decide (e.vpn / 16 = pageNo va e.level / 16)
/-- The leaf by which an entry translates an address: its own, or for page j of its group FRAME + (j - i) × the page size (R336). -/
def TlbEnt.leafAt (e : TlbEnt) (va : Word) : Word :=
  if e.vpn = pageNo va e.level then e.leaf
  else
    let size := pageSize e.level
    let f := (entryAddr e.leaf + 2 ^ 48 + pageNo va e.level % 16 * size - e.vpn % 16 * size) % 2 ^ 48
    (e.leaf &&& ~~~(BitVec.ofNat 64 (2 ^ 48 - 2 ^ 14))) ||| BitVec.ofNat 64 f
/-- The cached translation of a die (R336, R338, R339): that of the address's own page, or of its group where the die serves the group from
it (log 26). -/
def State.tlbHit (s : State) (die ctx : Nat) (va : Word) : Option TlbEnt :=
  let mine := s.tlb.filter fun e => decide (e.die = die) && decide (e.ctx = ctx)
  (mine.find? fun e => decide (e.vpn = vpn va e.level)).or (mine.find? fun e => e.groupHas va && Config.tlbGroup die va)

/-- The leaf that translates an address for a die: a cached one (R339), or the walk's (R337 checks 1 to 5). -/
def State.leafFor (s : State) (die ctx : Nat) (va : Word) : Except (BitVec 8 × Nat) (Nat × Word) :=
  if (va.setWidth 58).signExtend 64 ≠ va then .error (0x20, 0)
  else
    match s.tlbHit die ctx va with
    | some e => .ok (e.level, e.leafAt va)
    | none =>
      match s.walkFrom va (s.ptRoot ctx) 0 4 with
      | .error f => .error f
      | .ok (lvl, e) => if leafCtx e = ctx then .ok (lvl, e) else .error (0x22, lvl)

/-- The physical address under a leaf (R202). -/
def leafPa (lvl : Nat) (e va : Word) : Nat :=
  let po := bitsOf va.toNat 0 58 % pageSize lvl
  if leafHashed e then
    let a := leafLX e
    let b := leafLY e
    let n := 2 ^ (a + b + leafLZ e)
    let l := po / 64
    let k := l % n
    let c := cellId (leafOX e + k % 2 ^ a) (leafOY e + k / 2 ^ a % 2 ^ b) (leafOZ e + k / 2 ^ (a + b))
    c * Config.aperture + leafLmOff e + l / n * 64 + po % 64
  else entryAddr e + po

/-- The debug window that a device address lies in: its node and thread (R24, R378). -/
def windowOf (pa : Nat) : Option (Nat × Nat) :=
  if 0x400010000000 ≤ pa ∧ pa < 0x400010000000 + 0x10000 * Config.cells then
    some ((pa - 0x400010000000) / 0x10000, pa / 0x1000 % 16)
  else if 0x400018000000 ≤ pa ∧ pa < 0x400018000000 + 0x10000 * Config.channels ∧ pa / 0x1000 % 16 < 4 then
    some (Config.cells + (pa - 0x400018000000) / 0x10000, pa / 0x1000 % 16)
  else none

/-- The context owns a port (R344). -/
def State.ownsPort (s : State) (ctx n : Nat) : Bool := (vget (s.ctxEnt ctx).words 0).getLsbD (48 + n)

/-- Check 7 of R337: the permissions of the leaf, supervisor pages, and frames in device system space. -/
def State.permits (s : State) (ctx : Nat) (acc : Acc) (e : Word) (pa : Nat) : Bool :=
  (match acc with
    | .load => leafR e
    | .store => leafW e
    | .amo => leafR e && leafW e
    | .fetch => leafX e)
  && (!leafS e || s.priv ctx)
  && (match spaceOf pa with
    | .port n => s.priv ctx || s.ownsPort ctx n
    | .dev =>
      s.priv ctx ||
        (match windowOf pa with
          | some (n, t) => (s.thread n t).run.desc.any fun d => d.ctx = ctx
          | none => false)
    | _ => true)

/-- The whole translation of one address, in the order of R337; `allowed` is the space check of the access. -/
def State.translate (s : State) (n ctx : Nat) (acc : Acc) (allowed : Space → Bool) (va : Word) : Except Fail Nat :=
  match s.leafFor (s.dieOf n) ctx va with
  | .error (c, lvl) => .error { cause := c, addr := va, detail := BitVec.ofNat 32 (lvl + 4 * acc.code) }
  | .ok (lvl, e) =>
    let pa := leafPa lvl e va
    if !allowed (spaceOf pa) then .error { cause := 0x26, addr := va, detail := accDetail acc.code }
    else if s.permits ctx acc e pa then .ok pa
    else .error { cause := 0x40, addr := va, detail := BitVec.ofNat 32 (lvl + 4 * acc.code) }

/-- Alignment before translation (R230). -/
def State.translateAligned (s : State) (n ctx : Nat) (acc : Acc) (allowed : Space → Bool) (va : Word) (align : Nat) : Except Fail Nat :=
  if va.toNat % align ≠ 0 then .error { cause := 0x24, addr := va, detail := accDetail acc.code }
  else s.translate n ctx acc allowed va

/-- The spaces of a load or store by virtual address (R205): cell space, channel space, and the registers of device system space;
no port window (R345). -/
def spaceLdSt : Space → Bool
  | .cell _ | .chan _ | .dev => true
  | _ => false
/-- Those of an AMO, a DECN or another message to a bank (R205). -/
def spaceBank : Space → Bool
  | .cell _ | .chan _ => true
  | _ => false
/-- Those of a channel core's bulk access (R250). -/
def spaceBulk : Space → Bool
  | .bulk => true
  | _ => false
/-- Those of an engine's source, for a cell core or a channel core (R242, R345). -/
def spaceCopySrc (chan : Bool) : Space → Bool
  | .cell _ | .chan _ | .host => true
  | .bulk => chan
  | _ => false
/-- Those of a CPY's destination, which may be a port window (R345). -/
def spaceCopyDst (chan : Bool) : Space → Bool
  | .port _ => true
  | p => spaceCopySrc chan p
/-- Those of a fetch (log 7). -/
def spaceFetch : Space → Bool
  | .cell _ | .chan _ | .bulk => true
  | _ => false

/-- The parts of a range in each of the smallest pages (R334): the address of each and its bytes. -/
def pageParts (va : Word) (len : Nat) : List (Word × Nat) :=
  let o := va.toNat % 16384
  (List.range ((o + len + 16383) / 16384)).map fun k =>
    let lo := if k = 0 then 0 else 16384 * k - o
    (va + BitVec.ofNat 64 lo, min len (16384 * (k + 1) - o) - lo)

/-! ### Fetching -/

/-- DETAIL's source of an uncorrectable error by where the line lies (R365, R379), seen from a node. -/
def State.errSource (s : State) (n pa : Nat) : BitVec 32 :=
  match spaceOf pa with
  | .cell k | .chan k => if k = n then 0 else 7
  | .bulk => if s.misc.loftBad.contains (lineOf pa) then 5 else 6
  | _ => 5

/-- Fetches one instruction word (R51, R337, R365). -/
def State.fetchWord (s : State) (n ctx : Nat) (va : Word) : Except Fail (BitVec 32) :=
  match s.translate n ctx .fetch spaceFetch va with
  | .error f => .error f
  | .ok pa =>
    if s.poisoned pa then .error { cause := 0x50, addr := va, detail := s.errSource n pa }
    else .ok (BitVec.ofNat 32 (s.readNat pa 4))

/-- Fetches the words of the instruction at an address (R51): its prefixes, up to `k` of them, its subject, and the second word of a
subject of kind 10. -/
def State.fetchChain (s : State) (n ctx : Nat) (va : Word) : Nat → Except Fail (List (BitVec 32))
  | 0 => .ok []
  | k + 1 =>
    match s.fetchWord n ctx va with
    | .error f => .error f
    | .ok w =>
      if w.extractLsb' 0 2 = 3#2 then
        match State.fetchChain s n ctx (va + 4) k with
        | .error f => .error f
        | .ok ws => .ok (w :: ws)
      else if w.extractLsb' 0 2 = 2#2 then
        match s.fetchWord n ctx (va + 4) with
        | .error f => .error f
        | .ok w2 => .ok [w, w2]
      else .ok [w]

end Sys2Proof.Machine
end

