-- ==== Sys2Proof/Machine/Operands.lean ====
section
/-! DEFINITION. How an instruction takes its operands and how it issues: immediates (R43), prefix modes (R46), register numbers and
banks (R39, R44, R47), the waits and checks before the effect (R49 to R51, R362, R364), and what every completion does (R47, R49,
R115, R380). -/

namespace Sys2Proof

/-! ### Immediates and modes -/

/-- The payloads of PFX.IMM before an immediate (R43), the first the highest. -/
def Ctl.immBits (c : Ctl) {k : Nat} (i : BitVec k) : BitVec (27 + (27 + k)) :=
  match c.imms with
  | p :: q :: _ => p ++ (q ++ i)
  | [p] => (p ++ i).signExtend _
  | [] => i.signExtend _
/-- A sign-extended immediate with its PFX.IMM words (R43). -/
def Ctl.imm (c : Ctl) {k : Nat} (i : BitVec k) : Word := (c.immBits i).signExtend 64
/-- An unsigned immediate with its PFX.IMM words (R43). -/
def Ctl.immU (c : Ctl) {k : Nat} (i : BitVec k) : Word :=
  match c.imms with
  | p :: q :: _ => (p ++ (q ++ i)).setWidth 64
  | [p] => (p ++ i).setWidth 64
  | [] => i.setWidth 64
/-- SAT, RM and PO of PFX.MOD, or their no-override values (R46). -/
def Ctl.satMode (c : Ctl) : BitVec 2 := c.mod.elim 0 modSat
def Ctl.rmOr (c : Ctl) (r : BitVec 3) : BitVec 3 := c.mod.elim r fun p => if modRm p = 7 then r else modRm p
def Ctl.poOr (c : Ctl) (p : Nat) : Nat := c.mod.elim p fun m => if modPo m = 0 then p else (modPo m).toNat

/-- COUNT of the chain's PFX.REP, or 1 (R47). -/
def Ctl.count (c : Ctl) : Nat := c.rep.elim 1 repCount

end Sys2Proof

namespace Sys2Proof.Machine

/-! ### Registers -/

/-- The file that a bank selects (R44). -/
def bankFile (fl : File) (bank : BitVec 3) : File :=
  match bank.toNat with
  | 1 => .x | 2 => .f | 3 => .w | 4 => .q | 5 => .ta | _ => fl
/-- The file of slot `k` under PFX.REG. -/
def slotFile (c : Ctl) (fl : File) (k : Nat) : File := c.reg.elim fl fun p => bankFile fl ((regSlot p k).extractLsb' 2 3)

/-- A slot's file and register number in an iteration of a repeat (R47); a slot that the instruction lacks names x0. -/
def slotReg (c : Ctl) (k it : Nat) (g : Option SlotSig) : File × Int :=
  match g with
  | none => (.x, 0)
  | some g => (slotFile c g.file k, g.num.toNat + (c.rep.elim 0 fun p => (repStride p k).toInt) * it)

/-- The last register number of every field stays within its file (R47). -/
def repInRange (g : Sig) : Bool :=
  g.ctl.count == 0 || (g.slots.zipIdx.all fun (sl, k) =>
    sl.all fun q =>
      let r := (slotReg g.ctl k (g.ctl.count - 1) (some q)).2
      decide (0 ≤ r) && decide (r < (slotFile g.ctl q.file k).size))

/-! ### The operands of one issue -/

/-- What an instruction's effect is given: where it runs, its address and the next, its control part, and its registers in this
iteration. -/
structure Args where
  n    : Nat
  t    : Nat
  ctl  : Ctl
  pc   : Word := 0
  nxt  : Word := 0
  fd   : File := .x
  fa   : File := .x
  fb   : File := .x
  fe   : File := .x
  d    : Nat := 0
  a    : Nat := 0
  b    : Nat := 0
  e    : Nat := 0
  /-- the subject's first word -/
  word : BitVec 32 := 0
deriving DecidableEq, Repr, Inhabited

/-- A 58-bit virtual address as a 64-bit word (R334). -/
def vaOf (a : BitVec 58) : Word := a.signExtend 64
/-- Bits [63:58] equal bit 57 (R334). -/
def canonical (a : Word) : Bool := decide (vaOf (a.setWidth 58) = a)

def argsOf (g : Sig) (n t it : Nat) (pc : Word) : Args :=
  let d := slotReg g.ctl 0 it g.d
  let a := slotReg g.ctl 1 it g.a
  let b := slotReg g.ctl 2 it g.b
  let e := slotReg g.ctl 3 it g.e
  { n := n, t := t, ctl := g.ctl, pc := pc, nxt := pc + BitVec.ofNat 64 (4 * g.words)
    fd := d.1, fa := a.1, fb := b.1, fe := e.1, d := d.2.toNat, a := a.2.toNat, b := b.2.toNat, e := e.2.toNat }

/-- The instruction's own thread, its source operands as raw images, and its context slot. -/
def Args.th (A : Args) (s : State) : Thread := s.thread A.n A.t
def Args.ra (A : Args) (s : State) : Word := (A.th s).reg A.fa A.a
def Args.rb (A : Args) (s : State) : Word := (A.th s).reg A.fb A.b
def Args.re (A : Args) (s : State) : Word := (A.th s).reg A.fe A.e
def Args.rd (A : Args) (s : State) : Word := (A.th s).reg A.fd A.d
def Args.slot (A : Args) (s : State) : BitVec 2 := (A.th s).slot
def Args.ctx (A : Args) (s : State) : Nat := (A.th s).ctx

/-- What an effect answers: it completes; it transfers control; it keeps the thread waiting at its own address; it issues nothing
more but stays at its address; it traps with nothing changed; it traps after a change. -/
inductive Res where
  | done (s : State)
  | jump (s : State) (pc : Word)
  | wait (s : State)
  | stop (s : State)
  | trap (f : Fail)
  | trapIn (s : State) (f : Fail)
deriving DecidableEq, Repr, Inhabited

/-- A check that must find nothing before an effect runs. -/
def Res.unless (f : Option Fail) (r : Res) : Res :=
  match f with
  | some f => .trap f
  | none => r
/-- The cause 0x01 of an operand outside its limits. -/
def Res.illegal : Res := .trap { cause := 0x01 }
/-- The first check that fails. -/
def firstFail (a : Option Fail) (b : Option Fail) : Option Fail := a.orElse fun _ => b
/-- Cause 0x01 where a limit is broken. -/
def illegalIf (b : Bool) : Option Fail := if b then some { cause := 0x01 } else none

/-! ### Results -/

/-- Writes a result of fixed latency L (R49). One that no later issue of the thread can come before is written at once; otherwise it
waits for its cycle, in the order of completion. Writes that complete no later than this one no longer matter. -/
def State.writeFixed (s : State) (A : Args) (L : Nat) (fl : File) (r : Nat) (v : Word) : State :=
  let due := s.now A.n A.t + L
  if fl = .x ∧ r = 0 then s else
  s.modThread A.n A.t fun th =>
    let keep := th.pend.filter fun p => decide (due < p.due) || decide (p.file ≠ fl) || decide (p.reg ≠ r)
    let th := { th with score := { file := fl, reg := r, left := L } :: th.score.filter fun q => decide (q.file ≠ fl) || decide (q.reg ≠ r) || decide (L < q.left) }
    if L ≤ A.ctl.stall.toNat + 1 then ({ th with pend := keep }).setReg fl r v
    else { th with pend := insertDue { file := fl, reg := r, value := v, due := due } keep }
/-- The destination's fixed-latency result. -/
def State.writeD (s : State) (A : Args) (L : Nat) (v : Word) : State := s.writeFixed A L A.fd A.d v
/-- Issues a variable-latency result: the register is empty until it is written (R50). A result to x0 leaves nothing. -/
def State.writeVar (s : State) (A : Args) (fl : File) (r : Nat) (v : Word) : State :=
  if fl = .x ∧ r = 0 then s
  else s.modThread A.n A.t fun th =>
    { th.setFull fl r false with outs := th.outs ++ [{ file := fl, reg := r, value := v }] }
/-- The destination's variable-latency result. -/
def State.writeVarD (s : State) (A : Args) (v : Word) : State := s.writeVar A A.fd A.d v

/-! ### Before the effect -/

/-- The register files that a channel core holds (R251). -/
def chanFile (fl : File) : Bool :=
  match fl with
  | .f | .w => false
  | _ => true
/-- No register field of the instruction names a file that a channel core lacks: that the core does not implement one that does is the
model's choice (log 108). -/
def chanFiles (i : Instr) : Bool :=
  i.sig.all fun g => g.slots.zipIdx.all fun (sl, k) => sl.all fun q => chanFile (slotFile g.ctl q.file k)
/-- The core implements the instruction (R57). -/
def coreRuns (n : Nat) (i : Instr) : Bool :=
  match i.enc with
  | none => true
  | some e =>
    if isChan n then
      chanFiles i && ((e.x.kind = 0 && !(e.x.major = 59 && (e.x.f4 = 4 || e.x.f4 = 5)) && !(e.x.major = 62 && e.x.f4 = 3))
        || (e.x.kind = 2 && (e.x.major.toNat ≤ 10 || e.x.major = 12 || e.x.major = 13)))
    else !e.page

/-- The registers that the instruction names in this iteration, with their files. -/
def Args.regs (g : Sig) (A : Args) : List (File × Nat) :=
  (g.d.toList.map fun _ => (A.fd, A.d)) ++ (g.a.toList.map fun _ => (A.fa, A.a)) ++ (g.b.toList.map fun _ => (A.fb, A.b))
    ++ (g.e.toList.map fun _ => (A.fe, A.e))

/-- The instruction also reads the register in its rd field. -/
def readsD : Instr → Bool
  | .posvS .. | .posvP .. | .podot .. => true
  | _ => false
/-- The registers that the instruction reads. -/
def Args.sources (i : Instr) (g : Sig) (A : Args) : List (File × Nat) :=
  (if readsD i then [(A.fd, A.d)] else []) ++ (g.a.toList.map fun _ => (A.fa, A.a)) ++ (g.b.toList.map fun _ => (A.fb, A.b))
    ++ (g.e.toList.map fun _ => (A.fe, A.e))

/-! ### Damaged thread state (R364) -/

/-- The granules that a Poant operand is read from: the window of its w register, as far as its header counts (R27, R128). -/
def Thread.windowSpots (th : Thread) (r : Nat) : List Spot :=
  let w := th.reg .w r
  if w.getLsbD 12 then (List.range (min (bitsOf w.toNat 8 4) (bitsOf w.toNat 59 4))).map fun k => .granule ((bitsOf w.toNat 0 8 + k) % 256)
  else []
/-- The thread control registers that an instruction reads beside its operands, by number (R33; log 109): THR_CTL and the loop registers
at every issue (R49, R115), the one that CSRR names, and FCSR, PREC, SRS and the recording registers where its class consults them. -/
def controlRead (i : Instr) (c : Ctl) (k : Ctrl) : List Nat :=
  let sr := fun rm : BitVec 3 => if c.rmOr rm = 6 then [2] else []
  let rec_ := if k.recd then [5, 6, 7, 8] else []
  4 :: (List.range 12).map (16 + ·) ++
    (match i.enc with
      | none => []
      | some e =>
        let m := e.x.major.toNat
        match e.x.kind.toNat with
        | 0 => if m = 0x3C && !e.page then [e.x.imm10.toNat] else []
        | 1 =>
          if m < 7 then 0 :: sr (k.fcsr.extractLsb' 5 3)
          else if m < 0x12 then []
          else if m < 0x20 then 0 :: 1 :: sr (k.prec.extractLsb' 8 3)
          else if m < 0x3C then 0 :: sr (k.fcsr.extractLsb' 8 3) ++ rec_
          else [5, 6, 7, 8]
        | _ => if 0x10 ≤ m then 0 :: sr (k.fcsr.extractLsb' 8 3) ++ rec_ else [])
/-- An issue reads a piece of the thread's state that holds an uncorrectable error. -/
def Args.damaged (i : Instr) (g : Sig) (A : Args) (s : State) : Bool :=
  let th := A.th s
  let src := A.sources i g
  let poant := i.enc.any fun e => decide (e.x.kind = 1) && decide (0x12 ≤ e.x.major.toNat) && decide (e.x.major.toNat < 0x20)
  let spots := src.map (fun p => Spot.reg p.1 p.2) ++ (controlRead i A.ctl th.ctrl).map Spot.csr
    ++ (if poant then src.flatMap fun p => if p.1 = .w then th.windowSpots p.2 else [] else [])
  !th.run.bad.isEmpty && spots.any th.run.bad.contains

/-- What stands before an effect. -/
inductive Gate where
  | wait
  | skip
  | trap (f : Fail)
  | go (A : Args)
deriving DecidableEq, Repr, Inhabited

/-- DETAIL of cause 0x11: the file and the register (R379). -/
def scoreDetail (p : File × Nat) : BitVec 32 :=
  BitVec.ofNat 32 (p.2 + 32 * (match p.1 with | .x => 0 | .f => 1 | .w => 2 | _ => 3))

/-- The subject's first word. -/
def subjectWord (i : Instr) : BitVec 32 :=
  match i.enc, i.sig with
  | some n, some g => let x : Fields := { n.x with stall := g.ctl.stall, p := if (pfxWords g.ctl n.page).isEmpty then 0 else 1 }; x.toWord
  | _, _ => 0

/-- The order of R51 from check 3 on: an instruction that the core lacks, the repeat's range, the wait for full registers (R50),
the issue distance (R49), an uncorrectable error in a register it reads (R364). -/
def gate (i : Instr) (g : Sig) (s : State) : Gate :=
  let n := s.cur.1
  let t := s.cur.2
  let th := s.thread n t
  let A := argsOf g n t th.ctrl.repIdx.toNat (vaOf th.pc)
  if !coreRuns n i then .trap { cause := 0x01 }
  else if !repInRange g then .trap { cause := 0x04 }
  else if g.ctl.count ≤ th.ctrl.repIdx.toNat then .skip
  else if !(A.regs g).all (fun p => th.full p.1 p.2) then .wait
  else
    match (if th.ctrl.scoreEn then (A.regs g).find? fun p => th.score.any fun q => decide (q.file = p.1) && decide (q.reg = p.2) && decide (0 < q.left) else none) with
    | some p => .trap { cause := 0x11, detail := scoreDetail p }
    | none =>
      if A.damaged i g s then .trap { cause := 0x50, detail := 1 }
      else .go { A with word := subjectWord i }

/-! ### Issue and completion -/

/-- The issue's core cycle: the first at which STALL lets the thread issue (R49). Results due by then are written. -/
def State.startIssue (s : State) : State :=
  let n := s.cur.1
  let t := s.cur.2
  let now := max (s.now n t) (s.thread n t).run.readyAt
  (s.modCore n t fun c => { c with now := now }).modThread n t fun th => th.settle now

/-- The issue is over: the core is a cycle further and the thread issues no sooner than `gap` cycles after this issue; the
scoreboard counts the issue distance (R49). The thread has had its turn (log 2). -/
def State.endIssue (s : State) (A : Args) (gap : Nat) (count : Bool) : State :=
  let now := s.now A.n A.t
  let s := s.modThread A.n A.t fun th =>
    { th with score := if count then (th.score.map fun q => { q with left := q.left - gap }).filter fun q => 0 < q.left else th.score
              run := { th.run with readyAt := now + gap, ops := th.run.ops + 1 } }
  { s.modCore A.n A.t fun c => { c with now := now + 1, last := A.t, tried := [] } with blocked := true }

/-- The zero-overhead loop check (R115): sets 3 down to 0, `a` the completing instruction's first word. -/
def loopEdge (th : Thread) (a nxt : Word) : Nat → Thread × Word
  | 0 => (th, nxt)
  | k + 1 =>
    let cnt := (vget th.lpCount k).toNat
    if cnt ≠ 0 ∧ (vget th.lpEnd k) = (a.setWidth 58).setWidth 64 then
      let th := { th with lpCount := vset th.lpCount k (BitVec.ofNat 64 (cnt - 1)) }
      if cnt - 1 ≠ 0 then (th, vget th.lpStart k) else loopEdge th a nxt k
    else loopEdge th a nxt k

/-- An instruction completes without transferring control: the next iteration, or the loop check and the next address (R47,
R115). -/
def State.advance (s : State) (A : Args) : State :=
  s.modThread A.n A.t fun th =>
    if th.ctrl.repIdx.toNat + 1 < A.ctl.count then th.modCtrl fun c => { c with repIdx := c.repIdx + 1 }
    else
      let r := loopEdge th A.pc A.nxt 4
      { r.1 with pc := r.2.setWidth 58, ctrl := { r.1.ctrl with repIdx := 0 }, run := { r.1.run with chain := none } }

/-- The chain at an address repeats its subject with COUNT above 0, as far as its prefixes can be fetched (R47). -/
def State.repFrom (s : State) (n ctx : Nat) (va : Word) : Nat → Bool
  | 0 => false
  | k + 1 =>
    match s.fetchWord n ctx va with
    | .error _ => false
    | .ok w =>
      isPfx w && ((decide (w.extractLsb' 2 3 = 4) && decide (repCount (w.extractLsb' 5 27) ≠ 0)) || State.repFrom s n ctx (va + 4) k)
/-- The instruction at a thread's PC is a repeated subject with COUNT above 0, in any iteration (R374): what the packet of a fault at a
boundary says of the instruction that its PC names (log 31). -/
def State.repAt (s : State) (n t : Nat) : Bool :=
  let th := s.thread n t
  th.run.chain.isSome || s.repFrom n th.ctx (vaOf th.pc) 4

/-- A thread that STEP let run freezes after the instruction or iteration (R380); both its PC and the packet's are the next. -/
def State.afterStep (s : State) (n t : Nat) : State :=
  let th := s.thread n t
  if th.run.stepping && th.run.st = .running then s.takeTrap n t 0x61 false (s.repAt n t) (vaOf th.pc) 0 0 else s

/-- The fetch fault of a transfer to an address that does not translate (R113, R337). -/
def fetchDetail (level : Nat) : BitVec 32 := BitVec.ofNat 32 (level + 12)

/-- What a completed transfer does: the PC is the target; one that is not canonical takes the fetch fault there, after the
instruction's own effect (R113). -/
def State.transfer (s : State) (A : Args) (pc : Word) : State :=
  let s := s.modThread A.n A.t fun th =>
    { th with pc := pc.setWidth 58 &&& ~~~3#58, ctrl := { th.ctrl with repIdx := 0 }, run := { th.run with chain := none } }
  if canonical pc then s.afterStep A.n A.t else s.takeTrap A.n A.t 0x20 false false pc pc (fetchDetail 0)

/-- The precise trap of an instruction (R373): nothing has changed. -/
def State.trapAt (s : State) (A : Args) (f : Fail) : State :=
  let s := { s with blocked := false }
  s.takeTrap A.n A.t f.cause false (A.ctl.rep.any fun p => repCount p ≠ 0) A.pc f.addr f.detail

/-- What is written holds a fresh codeword (R364). -/
def Thread.healed (th : Thread) (p : Spot) : Thread :=
  if th.run.bad.contains p then th.modRun fun r => { r with bad := r.bad.filter fun q => q ≠ p } else th
/-- The register that an instruction writes. -/
def State.heal (s : State) (A : Args) : State :=
  if (s.thread A.n A.t).run.bad.isEmpty then s else s.modThread A.n A.t fun th => th.healed (.reg A.fd A.d)

/-- Cycles between an issue and the thread's next (R49). -/
def Args.gap (A : Args) : Nat := A.ctl.stall.toNat + 1
/-- An instruction completes after its effect, and the thread goes on. -/
def State.completes (s : State) (A : Args) : State := (((s.heal A).advance A).endIssue A A.gap true).afterStep A.n A.t
/-- An instruction completes after its effect and transfers control. -/
def State.completesTo (s : State) (A : Args) (pc : Word) : State := ((s.heal A).endIssue A A.gap true).transfer A pc
/-- Carries out what an effect answered. -/
def State.conclude (s : State) (A : Args) (r : Res) : State :=
  match r with
  | .done s => s.completes A
  | .jump s pc => s.completesTo A pc
  | .wait s => { s.modCore A.n A.t fun c => { c with tried := A.t :: c.tried } with blocked := true }
  | .stop s => s.endIssue A A.gap true
  | .trap f => s.trapAt A f
  | .trapIn s f => s.trapAt A f

/-- The checker stage before a commit (R362): one mismatch executes the instruction once more, which agrees; a second raises cause
0x51. Both are counted. -/
def State.checker (s : State) (A : Args) : State × Bool :=
  let m := (s.thread A.n A.t).run.mismatch
  if m = 0 then (s, false)
  else
    ((s.modErr A.n fun e => { e with chkm := sat16 e.chkm (min m 2) }).modThread A.n A.t fun th => th.modRun fun r => { r with mismatch := 0 },
      decide (2 ≤ m))

/-- The effect under the checker stage, where the instruction's class has it. -/
def checked (chk : Bool) (body : Args → State → Res) (A : Args) (s : State) : State × Res :=
  if chk then
    let (s', bad) := s.checker A
    if bad then (s', .trap { cause := 0x51 }) else (s', body A s')
  else (s, body A s)

/-- Claims lines of the node's own memory for a write of the thread (R213): until its turn at each has come, the thread waits; then it
writes. -/
def claimed (A : Args) (s : State) (lines : List Nat) (act : State → Res) : Res :=
  match s.claimLines A.n A.t lines with
  | (s, true) => act (s.unclaim A.n A.t)
  | (s, false) => .wait s

/-- Issues an instruction of the current thread: the checks, the effect, the completion. A thread that is not RUNNING, or that
has issued END, issues nothing. -/
def issue (i : Instr) (chk : Bool) (body : Args → State → Res) (s : State) : State :=
  match i.sig with
  | none => s
  | some g =>
    let th := s.thread s.cur.1 s.cur.2
    if th.run.st ≠ .running ∨ th.run.ending ∨ th.run.halting ∨ th.run.rolling then { s with blocked := true }
    else
      let s := s.startIssue
      let A0 := argsOf g s.cur.1 s.cur.2 0 (vaOf th.pc)
      match gate i g s with
      | .wait => s.conclude A0 (.wait s)
      | .trap f => (if f.cause = 0x50 then s.countUe A0.n else s).trapAt A0 f
      | .skip => ((s.advance A0).endIssue A0 1 false).afterStep A0.n A0.t
      | .go A =>
        let (s, r) := checked chk body A s
        s.conclude A r

/-- Every instruction's meaning is an issue, and an issue always has a next state. -/
def run (i : Instr) (chk : Bool) (body : Args → State → Res) (s : State) : Out := .next (issue i chk body s)

end Sys2Proof.Machine
end

