-- ==== Sys2Proof/Machine/Flags.lean ====
section
/-! DEFINITION. The computations that touch FCSR, PREC and SRS: rounding modes, sticky flags and the generator (R29, R30, R46, R75,
R76, R127), and the integer fits of SAT (R72, R104). -/

namespace Sys2Proof.Machine

def fcsrRm (w : Word) : BitVec 3 := w.extractLsb' 5 3
def fcsrWrm (w : Word) : BitVec 3 := w.extractLsb' 8 3
def fcsrOlt (w : Word) : Bool := w.getLsbD 17
def precP (w : Word) : Nat := (w.extractLsb' 0 8).toNat
def precRm (w : Word) : BitVec 3 := w.extractLsb' 8 3
def precXe (w : Word) : Bool := w.getLsbD 11
def precXi (w : Word) : Bool := w.getLsbD 12

/-- Sets scalar and Poant flags by OR (R127). -/
def Thread.orFl (th : Thread) (f : BitVec 5) : Thread := th.modCtrl fun c => { c with fcsr := c.fcsr ||| f.setWidth 64 }
/-- Sets wide-unit flags and OLF by OR (R30). -/
def Thread.orWfl (th : Thread) (f : BitVec 5) (olf : Bool) : Thread :=
  th.modCtrl fun c => { c with fcsr := c.fcsr ||| (f.setWidth 64 <<< 11) ||| (if olf then 0x10000#64 else 0) }
/-- The draw that an inexact SR rounding of the thread uses (R75, R76). -/
def Thread.draw (th : Thread) : Word := (srStep th.ctrl.srs).2
/-- One generator step where an SR rounding was inexact. -/
def Thread.stepSrs (th : Thread) (b : Bool) : Thread :=
  if b then th.modCtrl fun c => { c with srs := (srStep c.srs).1 } else th
/-- The flags of a delivered result, and its generator step under SR. -/
def Thread.account (th : Thread) (mode : BitVec 3) (r : Rounded) : Thread :=
  (th.orFl r.flags).stepSrs (r.step && decide (mode = 6))

/-- A register operand of a fitted operation: unsigned under SAT 2, else signed (R104). -/
def satArg (sat : BitVec 2) (w : Word) : Int := if sat = 2 then (w.toNat : Int) else w.toInt
/-- A 64-bit result fitted by R104. -/
def fit64 (c : Ctl) (i : Int) : Word := fitBits c.satMode 64 i

end Sys2Proof.Machine
end

