-- ==== Sys2Proof/Machine/ScalarInt.lean ====
section
/-! DEFINITION. Integer arithmetic and logic (R103 to R111): the ALU, immediate, ALUC, EXT and long forms, QSET, QGET and RDCYC. -/

namespace Sys2Proof.Machine

/-! ### Shared effects -/

/-- Writes a value of the two source registers with latency L. -/
def alu2 (L : Nat) (f : Word → Word → Word) (A : Args) (s : State) : Res := .done (s.writeD A L (f (A.ra s) (A.rb s)))
/-- Writes a value of rs1 with latency L. -/
def alu1 (L : Nat) (f : Word → Word) (A : Args) (s : State) : Res := .done (s.writeD A L (f (A.ra s)))
/-- Writes a fitted value of the two source registers (R104). -/
def aluFit (L : Nat) (f : Int → Int → Int) (A : Args) (s : State) : Res :=
  .done (s.writeD A L (fit64 A.ctl (f (satArg A.ctl.satMode (A.ra s)) (satArg A.ctl.satMode (A.rb s)))))
/-- The same with an operand that stays signed: an immediate or a constant. -/
def aluFitI (L : Nat) (f : Int → Int → Int) (k : Word) (A : Args) (s : State) : Res :=
  .done (s.writeD A L (fit64 A.ctl (f (satArg A.ctl.satMode (A.ra s)) k.toInt)))
/-- Divisions have a variable latency (R49). -/
def aluVar (f : Word → Word → Word) (A : Args) (s : State) : Res := .done (s.writeVarD A (f (A.ra s) (A.rb s)))

/-- The shift amount xs2[5:0] (R103). -/
def shAmt (b : Word) : Nat := b.toNat % 64
def boolWord (b : Bool) : Word := if b then 1 else 0
/-- xs1 × 2^s, exact (R104). -/
def shlInt (a s : Int) : Int := a * 2 ^ (s.toNat % 64)

/-- Leading and trailing zeros and one bits among the low n bits. -/
def leadZeros (a : Word) : Nat := 64 - bitLen a.toNat
def trailZeros (a : Word) : Nat → Nat
  | 0 => 64
  | k + 1 => if a.getLsbD (63 - k) then 63 - k else trailZeros a k
def popCount (a : Word) : Nat → Nat
  | 0 => 0
  | k + 1 => bit (a.getLsbD k) + popCount a k

/-- Bits [127:64] of a signed product. -/
def mulHigh (a b : Word) : Word := BitVec.ofInt 64 (a.toInt * b.toInt / 2 ^ 64)
/-- Bits [127:64] of an unsigned product. -/
def mulHighU (a b : Word) : Word := BitVec.ofNat 64 (a.toNat * b.toNat / 2 ^ 64)

/-- The quotients and remainders of R105. -/
def divS (a b : Word) : Word :=
  if b = 0 then (if a = 0 then 0 else if a.toInt < 0 then BitVec.intMin 64 else BitVec.intMax 64)
  else if a = BitVec.intMin 64 ∧ b = BitVec.allOnes 64 then BitVec.intMax 64
  else BitVec.ofInt 64 (a.toInt.tdiv b.toInt)
def divU (a b : Word) : Word :=
  if b = 0 then (if a = 0 then 0 else BitVec.allOnes 64) else BitVec.ofNat 64 (a.toNat / b.toNat)
def remS (a b : Word) : Word := if b = 0 then a else BitVec.ofInt 64 (a.toInt.tmod b.toInt)
def remU (a b : Word) : Word := if b = 0 then a else BitVec.ofNat 64 (a.toNat % b.toNat)

/-- A constant-window word: its LM offset for a thread (R35). -/
def constOff (n t : Nat) (slot : BitVec 2) (k : BitVec 8) : Nat :=
  let core := if isChan n then 0 else t / 4
  let w := if k = 254 then 248 + 2 * core else if k = 255 then 249 + 2 * core else k.toNat
  0x800 * slot.toNat + 8 * w

/-- A core load's read of its own node's memory at the bank (R122): the value, and the state with the pending error that a poisoned
line leaves (R366), or the precise fault where PRECISE is set; `a` is the load's address. -/
def State.loadAt (s : State) (A : Args) (a : Word) (o len : Nat) : Except Fail (Nat × State) :=
  let pa := nodeBase A.n + o
  if s.poisoned pa then
    if s.precise A.n (A.slot s) then .error { cause := 0x50, addr := a, detail := 0 }
    else .ok (s.readNat pa len, s.modThread A.n A.t fun th => th.failed a 0)
  else .ok (s.readNat pa len, s)
/-- The same for a load by offset. -/
def State.loadLocal (s : State) (A : Args) (o len : Nat) : Except Fail (Nat × State) := s.loadAt A (BitVec.ofNat 64 o) o len

/-- An effect on a constant-window word, read as a local load (R107). -/
def withConst (k : BitVec 8) (f : Word → Args → State → Res) (A : Args) (s : State) : Res :=
  match s.loadLocal A (constOff A.n A.t (A.slot s) k) 8 with
  | .error e => .trap e
  | .ok (v, s) => f (BitVec.ofNat 64 v) A s

/-! ### The register forms (R103 to R105) -/

def execAdd (c : Ctl) (d a b : BitVec 5) (s : State) : Out := run (.add c d a b) true (aluFit 1 (· + ·)) s
def execSub (c : Ctl) (d a b : BitVec 5) (s : State) : Out := run (.sub c d a b) true (aluFit 1 (· - ·)) s
def execAnd (c : Ctl) (d a b : BitVec 5) (s : State) : Out := run (.and c d a b) true (alu2 1 (· &&& ·)) s
def execOr (c : Ctl) (d a b : BitVec 5) (s : State) : Out := run (.or c d a b) true (alu2 1 (· ||| ·)) s
def execXor (c : Ctl) (d a b : BitVec 5) (s : State) : Out := run (.xor c d a b) true (alu2 1 (· ^^^ ·)) s
/-- SHL: only xs2[5:0] counts, read as a number whatever SAT says. -/
def execShl (c : Ctl) (d a b : BitVec 5) (s : State) : Out :=
  run (.shl c d a b) true (fun A s => .done (s.writeD A 1 (fit64 A.ctl (satArg A.ctl.satMode (A.ra s) * 2 ^ shAmt (A.rb s))))) s
def execShr (c : Ctl) (d a b : BitVec 5) (s : State) : Out := run (.shr c d a b) true (alu2 1 fun x y => x >>> shAmt y) s
def execSha (c : Ctl) (d a b : BitVec 5) (s : State) : Out := run (.sha c d a b) true (alu2 1 fun x y => x.sshiftRight (shAmt y)) s
def execRol (c : Ctl) (d a b : BitVec 5) (s : State) : Out := run (.rol c d a b) true (alu2 1 fun x y => x.rotateLeft (shAmt y)) s
def execRor (c : Ctl) (d a b : BitVec 5) (s : State) : Out := run (.ror c d a b) true (alu2 1 fun x y => x.rotateRight (shAmt y)) s
def execSlt (c : Ctl) (d a b : BitVec 5) (s : State) : Out := run (.slt c d a b) true (alu2 1 fun x y => boolWord (x.slt y)) s
def execSltu (c : Ctl) (d a b : BitVec 5) (s : State) : Out := run (.sltu c d a b) true (alu2 1 fun x y => boolWord (x.ult y)) s
def execMin (c : Ctl) (d a b : BitVec 5) (s : State) : Out := run (.min c d a b) true (alu2 1 fun x y => if y.slt x then y else x) s
def execMax (c : Ctl) (d a b : BitVec 5) (s : State) : Out := run (.max c d a b) true (alu2 1 fun x y => if x.slt y then y else x) s
def execMinu (c : Ctl) (d a b : BitVec 5) (s : State) : Out := run (.minu c d a b) true (alu2 1 fun x y => if y.ult x then y else x) s
def execMaxu (c : Ctl) (d a b : BitVec 5) (s : State) : Out := run (.maxu c d a b) true (alu2 1 fun x y => if x.ult y then y else x) s
def execMul (c : Ctl) (d a b : BitVec 5) (s : State) : Out := run (.mul c d a b) true (aluFit 3 (· * ·)) s
def execMulh (c : Ctl) (d a b : BitVec 5) (s : State) : Out := run (.mulh c d a b) true (alu2 3 mulHigh) s
def execMulhu (c : Ctl) (d a b : BitVec 5) (s : State) : Out := run (.mulhu c d a b) true (alu2 3 mulHighU) s
def execDiv (c : Ctl) (d a b : BitVec 5) (s : State) : Out := run (.div c d a b) true (aluVar divS) s
def execDivu (c : Ctl) (d a b : BitVec 5) (s : State) : Out := run (.divu c d a b) true (aluVar divU) s
def execRem (c : Ctl) (d a b : BitVec 5) (s : State) : Out := run (.rem c d a b) true (aluVar remS) s
def execRemu (c : Ctl) (d a b : BitVec 5) (s : State) : Out := run (.remu c d a b) true (aluVar remU) s
def execClz (c : Ctl) (d a : BitVec 5) (s : State) : Out := run (.clz c d a) true (alu1 3 fun x => BitVec.ofNat 64 (leadZeros x)) s
def execCtz (c : Ctl) (d a : BitVec 5) (s : State) : Out := run (.ctz c d a) true (alu1 3 fun x => BitVec.ofNat 64 (trailZeros x 64)) s
def execPopc (c : Ctl) (d a : BitVec 5) (s : State) : Out := run (.popc c d a) true (alu1 3 fun x => BitVec.ofNat 64 (popCount x 64)) s

/-! ### The immediate forms (R106, R110) -/

def execAddi (c : Ctl) (d a : BitVec 5) (i : BitVec 10) (s : State) : Out := run (.addi c d a i) true (aluFitI 1 (· + ·) (c.imm i)) s
def execAndi (c : Ctl) (d a : BitVec 5) (i : BitVec 10) (s : State) : Out := run (.andi c d a i) true (alu1 1 fun x => x &&& c.imm i) s
def execOri (c : Ctl) (d a : BitVec 5) (i : BitVec 10) (s : State) : Out := run (.ori c d a i) true (alu1 1 fun x => x ||| c.imm i) s
def execXori (c : Ctl) (d a : BitVec 5) (i : BitVec 10) (s : State) : Out := run (.xori c d a i) true (alu1 1 fun x => x ^^^ c.imm i) s
def execShli (c : Ctl) (d a : BitVec 5) (i : BitVec 6) (s : State) : Out :=
  run (.shli c d a i) true (aluFitI 1 shlInt (i.setWidth 64)) s
def execShri (c : Ctl) (d a : BitVec 5) (i : BitVec 6) (s : State) : Out := run (.shri c d a i) true (alu1 1 fun x => x >>> i.toNat) s
def execShai (c : Ctl) (d a : BitVec 5) (i : BitVec 6) (s : State) : Out :=
  run (.shai c d a i) true (alu1 1 fun x => x.sshiftRight i.toNat) s
def execSlti (c : Ctl) (d a : BitVec 5) (i : BitVec 10) (s : State) : Out :=
  run (.slti c d a i) true (alu1 1 fun x => boolWord (x.slt (c.imm i))) s
def execSltiu (c : Ctl) (d a : BitVec 5) (i : BitVec 10) (s : State) : Out :=
  run (.sltiu c d a i) true (alu1 1 fun x => boolWord (x.ult (c.imm i))) s
def execMuli (c : Ctl) (d a : BitVec 5) (i : BitVec 10) (s : State) : Out := run (.muli c d a i) true (aluFitI 3 (· * ·) (c.imm i)) s
def execLiw (c : Ctl) (d : BitVec 5) (w2 : BitVec 32) (s : State) : Out :=
  run (.liw c d w2) true (fun A s => .done (s.writeD A 1 (c.imm w2))) s
def execAddiw (c : Ctl) (d a : BitVec 5) (w2 : BitVec 32) (s : State) : Out :=
  run (.addiw c d a w2) true (aluFitI 1 (· + ·) (c.imm w2)) s

/-! ### The constant forms (R107): the class latency and 2 more -/

def execLdc (c : Ctl) (d : BitVec 5) (k : BitVec 8) (s : State) : Out :=
  run (.ldc c d k) true (withConst k fun v A s => .done (s.writeD A 3 v)) s
def execAddc (c : Ctl) (d a : BitVec 5) (k : BitVec 8) (s : State) : Out :=
  run (.addc c d a k) true (withConst k fun v => aluFitI 3 (· + ·) v) s
def execSubc (c : Ctl) (d a : BitVec 5) (k : BitVec 8) (s : State) : Out :=
  run (.subc c d a k) true (withConst k fun v => aluFitI 3 (· - ·) v) s
def execMulc (c : Ctl) (d a : BitVec 5) (k : BitVec 8) (s : State) : Out :=
  run (.mulc c d a k) true (withConst k fun v => aluFitI 5 (· * ·) v) s

/-! ### Extensions, pointers and the clock (R108, R109, R111) -/

def execSextB (c : Ctl) (d a : BitVec 5) (s : State) : Out := run (.sextB c d a) true (alu1 1 fun x => (x.setWidth 8).signExtend 64) s
def execSextH (c : Ctl) (d a : BitVec 5) (s : State) : Out := run (.sextH c d a) true (alu1 1 fun x => (x.setWidth 16).signExtend 64) s
def execSextW (c : Ctl) (d a : BitVec 5) (s : State) : Out := run (.sextW c d a) true (alu1 1 fun x => (x.setWidth 32).signExtend 64) s
def execZextB (c : Ctl) (d a : BitVec 5) (s : State) : Out := run (.zextB c d a) true (alu1 1 fun x => (x.setWidth 8).setWidth 64) s
def execZextH (c : Ctl) (d a : BitVec 5) (s : State) : Out := run (.zextH c d a) true (alu1 1 fun x => (x.setWidth 16).setWidth 64) s
def execZextW (c : Ctl) (d a : BitVec 5) (s : State) : Out := run (.zextW c d a) true (alu1 1 fun x => (x.setWidth 32).setWidth 64) s

/-- The image of a q register (R28). -/
def qImage (addr : BitVec 22) (stride : BitVec 16) : Word := 0#16 ++ stride ++ 0#10 ++ addr
def execQset (c : Ctl) (d a b : BitVec 5) (s : State) : Out :=
  run (.qset c d a b) true (alu2 1 fun x y => qImage (x.setWidth 22) (y.setWidth 16)) s
def execQget (c : Ctl) (d a : BitVec 5) (s : State) : Out := run (.qget c d a) true (alu1 1 id) s
/-- RDCYC (R111): fabric cycles since DEV_READY. -/
def execRdcyc (c : Ctl) (d : BitVec 5) (s : State) : Out :=
  run (.rdcyc c d) true (fun A s => .done (s.writeD A 1 (BitVec.ofNat 64 s.fab))) s

end Sys2Proof.Machine
end

