-- ==== Sys2Proof/Machine/LocalMem.lean ====
section
/-! DEFINITION. Loads and stores of the node's own memory by offset (R118 to R122). -/

namespace Sys2Proof.Machine

/-! ### Shared effects -/

/-- The low bytes of a number as a register image. -/
def signed (bits : Nat) (v : Nat) : Word := (BitVec.ofNat bits v).signExtend 64
def unsigned (bits : Nat) (v : Nat) : Word := BitVec.ofNat 64 (v % 2 ^ bits)
/-- The image of a binary32 result (R26). -/
def boxS (v : Nat) : Word := 0xFFFFFFFF#32 ++ BitVec.ofNat 32 v

/-- A load by offset (R118 to R120): `img` makes the register image of the bytes. -/
def loadBody (len : Nat) (img : Nat → Word) (imm : Word) (A : Args) (s : State) : Res :=
  if A.fd = .x ∧ A.d = 0 then .done (s.touch A.n)
  else
    let o := A.ra s + imm
    Res.unless (s.checkLM A.n (A.slot s) o len len 0)
      (match s.loadLocal A o.toNat len with
        | .error f => .trap f
        | .ok (v, s) => .done (s.writeVarD A (img v)))

/-- Writes bytes of the node's own memory for the issuing run, once their lines are the bank's alone (R209, R213, R367). -/
def State.storeLocal (s : State) (A : Args) (o : Nat) (bs : List Byte) : State :=
  s.bankWrites (some A.t) (nodeBase A.n + o) bs (bs.length + 1)

/-- The value that a store of `bits` bits stores (R118): xs2 read as signed and clamped under SAT. -/
def storeValue (sat : BitVec 2) (bits : Nat) (v : Word) : Nat :=
  if sat = 0 then v.toNat % 2 ^ bits else (fitBits sat bits v.toInt).toNat

/-- A store by offset (R118, R119): where other cells hold its line, it waits for their acknowledgements (R209, R213). -/
def storeBody (len : Nat) (val : Args → State → Nat) (imm : Word) (A : Args) (s : State) : Res :=
  let o := A.ra s + imm
  let v := natBytes len (val A s)
  Res.unless (s.checkLM A.n (A.slot s) o len len 1)
    (claimed A s (linesOf (nodeBase A.n + o.toNat) len) fun s => .done (s.storeLocal A o.toNat v))

/-- The low bytes of xs2 under SAT. -/
def satLow (bits : Nat) (A : Args) (s : State) : Nat := storeValue A.ctl.satMode bits (A.rb s)

/-! ### Loads -/

def execLdB (c : Ctl) (d a : BitVec 5) (i : BitVec 10) (s : State) : Out := run (.ldB c d a i) true (loadBody 1 (signed 8) (c.imm i)) s
def execLdH (c : Ctl) (d a : BitVec 5) (i : BitVec 10) (s : State) : Out := run (.ldH c d a i) true (loadBody 2 (signed 16) (c.imm i)) s
def execLdW (c : Ctl) (d a : BitVec 5) (i : BitVec 10) (s : State) : Out := run (.ldW c d a i) true (loadBody 4 (signed 32) (c.imm i)) s
def execLdD (c : Ctl) (d a : BitVec 5) (i : BitVec 10) (s : State) : Out := run (.ldD c d a i) true (loadBody 8 (signed 64) (c.imm i)) s
def execLdBu (c : Ctl) (d a : BitVec 5) (i : BitVec 10) (s : State) : Out := run (.ldBu c d a i) true (loadBody 1 (unsigned 8) (c.imm i)) s
def execLdHu (c : Ctl) (d a : BitVec 5) (i : BitVec 10) (s : State) : Out := run (.ldHu c d a i) true (loadBody 2 (unsigned 16) (c.imm i)) s
def execLdWu (c : Ctl) (d a : BitVec 5) (i : BitVec 10) (s : State) : Out := run (.ldWu c d a i) true (loadBody 4 (unsigned 32) (c.imm i)) s
def execFldS (c : Ctl) (d a : BitVec 5) (i : BitVec 10) (s : State) : Out := run (.fldS c d a i) true (loadBody 4 boxS (c.imm i)) s
def execFldD (c : Ctl) (d a : BitVec 5) (i : BitVec 10) (s : State) : Out := run (.fldD c d a i) true (loadBody 8 (unsigned 64) (c.imm i)) s

/-! ### Stores -/

def execStB (c : Ctl) (a b : BitVec 5) (i : BitVec 10) (s : State) : Out := run (.stB c a b i) true (storeBody 1 (satLow 8) (c.imm i)) s
def execStH (c : Ctl) (a b : BitVec 5) (i : BitVec 10) (s : State) : Out := run (.stH c a b i) true (storeBody 2 (satLow 16) (c.imm i)) s
def execStW (c : Ctl) (a b : BitVec 5) (i : BitVec 10) (s : State) : Out := run (.stW c a b i) true (storeBody 4 (satLow 32) (c.imm i)) s
def execStD (c : Ctl) (a b : BitVec 5) (i : BitVec 10) (s : State) : Out :=
  run (.stD c a b i) true (storeBody 8 (fun A s => (A.rb s).toNat) (c.imm i)) s
def execFstS (c : Ctl) (a b : BitVec 5) (i : BitVec 10) (s : State) : Out :=
  run (.fstS c a b i) true (storeBody 4 (fun A s => (A.rb s).toNat % 2 ^ 32) (c.imm i)) s
def execFstD (c : Ctl) (a b : BitVec 5) (i : BitVec 10) (s : State) : Out :=
  run (.fstD c a b i) true (storeBody 8 (fun A s => (A.rb s).toNat) (c.imm i)) s

end Sys2Proof.Machine
end

