-- ==== Sys2Proof/Machine/ScalarFp.lean ====
section
/-! DEFINITION. Binary floating point of the scalar unit (R82, R123 to R126). -/

namespace Sys2Proof.Machine

/-! ### Shared effects -/

/-- The two scalar formats. -/
inductive Prec where
  | s
  | d
deriving DecidableEq, Repr, Inhabited
def Prec.fmt : Prec → Fmt
  | .s => binary32
  | .d => binary64
/-- The bits of a register that a format reads (R26). -/
def Prec.bits (p : Prec) (w : Word) : Nat := match p with | .s => w.toNat % 2 ^ 32 | .d => w.toNat
/-- The register image of a result (R26). -/
def Prec.image (p : Prec) (b : Nat) : Word := match p with | .s => boxS b | .d => BitVec.ofNat 64 b
def Prec.val (p : Prec) (w : Word) : Val := p.fmt.value true false (p.bits w)

/-- The scalar rounding mode in force (R46, R123). -/
def fpMode (A : Args) (s : State) : BitVec 3 := A.ctl.rmOr (fcsrRm (A.th s).ctrl.fcsr)

/-- Rounds an exact result, sets its flags and steps SRS (R76, R82): the bits and the state. -/
def deliverFp (p : Prec) (mode : BitVec 3) (r : Op) (A : Args) (s : State) : Nat × State :=
  let q := p.fmt.deliver false mode (A.th s).draw r.v
  (q.bits, s.modThread A.n A.t fun th => (th.account mode q).orFl r.flags)

/-- An operation whose result is rounded once, with latency 4. -/
def fpOp (p : Prec) (f : BitVec 3 → Args → State → Op) (A : Args) (s : State) : Res :=
  let mode := fpMode A s
  let (b, s') := deliverFp p mode (f mode A s) A s
  .done (s'.writeD A 4 (p.image b))
/-- The same with a variable latency: FDIV and FSQRT (R49). -/
def fpOpVar (p : Prec) (f : BitVec 3 → Args → State → Op) (A : Args) (s : State) : Res :=
  let mode := fpMode A s
  let (b, s') := deliverFp p mode (f mode A s) A s
  .done (s'.writeVarD A (p.image b))
def fp2 (p : Prec) (f : BitVec 3 → Val → Val → Op) : BitVec 3 → Args → State → Op :=
  fun m A s => f m (p.val (A.ra s)) (p.val (A.rb s))

/-- minimumNumber and maximumNumber (R123): the operand itself is the result. -/
def fpPick (p : Prec) (max : Bool) (A : Args) (s : State) : Res :=
  let a := p.val (A.ra s)
  let b := p.val (A.rb s)
  let r :=
    if a.isNan && b.isNan then p.fmt.nan
    else if a.isNan then p.bits (A.rb s)
    else if b.isNan then p.bits (A.ra s)
    else
      let c := cmpVal a b
      let aLow := decide (c < 0) || (decide (c = 0) && a.neg?)
      if xor aLow max then p.bits (A.ra s) else p.bits (A.rb s)
  let s := s.modThread A.n A.t fun th => th.orFl (flagIf (a.sNan || b.sNan) flagNV)
  .done (s.writeD A 4 (p.image r))

/-- A sign operation (R123). -/
def fpSign (p : Prec) (f : Bool → Bool → Bool) (A : Args) (s : State) : Res :=
  let top := 2 ^ (p.fmt.eb + p.fmt.fb)
  let a := p.bits (A.ra s)
  let sg := f (decide (top ≤ a)) (decide (top ≤ p.bits (A.rb s)))
  .done (s.writeD A 4 (p.image (a % top + if sg then top else 0)))

/-- The one-hot relation of two values (R123). -/
def relation (a b : Val) : Nat :=
  if a.isNan || b.isNan then 8 else if cmpVal a b < 0 then 1 else if cmpVal a b = 0 then 2 else 4
def fpCompare (p : Prec) (signalling : Bool) (A : Args) (s : State) : Res :=
  let a := p.val (A.ra s)
  let b := p.val (A.rb s)
  let nv := if signalling then a.isNan || b.isNan else a.sNan || b.sNan
  .done ((s.modThread A.n A.t fun th => th.orFl (flagIf nv flagNV)).writeD A 4 (BitVec.ofNat 64 (relation a b)))

/-- The kind of a value (R123). -/
def fpKind (F : Fmt) (b : Nat) : Nat :=
  let e := b / 2 ^ F.fb % 2 ^ F.eb
  let m := b % 2 ^ F.fb
  let k := if e = F.emask then (if m = 0 then 3 else if m / 2 ^ (F.fb - 1) = 1 then 4 else 5)
    else if e = 0 then (if m = 0 then 0 else 1) else 2
  k + 8 * (b / 2 ^ (F.eb + F.fb) % 2)
def fpType (p : Prec) (A : Args) (s : State) : Res := .done (s.writeD A 4 (BitVec.ofNat 64 (fpKind p.fmt (p.bits (A.ra s)))))

/-- A fused form (R124). -/
def fpFused (p : Prec) (sub : Bool) : Args → State → Res :=
  fpOp p fun m A s =>
    let c := p.val (A.re s)
    opFma m (p.val (A.ra s)) (p.val (A.rb s)) (if sub then c.negate else c)

/-- A conversion between the two formats (R125): a signalling NaN sets NV. -/
def fcvFloat (src dst : Prec) : Args → State → Res :=
  fpOp dst fun _ A s => let v := src.val (A.ra s); { v := v, flags := flagIf v.sNan flagNV }
/-- From an integer. -/
def fcvFrom (dst : Prec) (int : Word → Int) : Args → State → Res :=
  fpOp dst fun _ A s => { v := ofInteger (int (A.ra s)) }
/-- To an integer type (R73, R125). -/
def fcvTo (src : Prec) (lo hi : Int) (A : Args) (s : State) : Res :=
  let mode := fpMode A s
  let r := toInteger lo hi mode (A.th s).draw (src.val (A.ra s))
  let s := s.modThread A.n A.t fun th => (th.orFl r.2.1).stepSrs (r.2.2 && decide (mode = 6))
  .done (s.writeD A 4 (BitVec.ofInt 64 r.1))

def i32lo : Int := -(2 ^ 31)
def i32hi : Int := 2 ^ 31 - 1
def i64lo : Int := -(2 ^ 63)
def i64hi : Int := 2 ^ 63 - 1
def u64hi : Int := 2 ^ 64 - 1
def asI32 (w : Word) : Int := (w.setWidth 32).toInt
def asI64 (w : Word) : Int := w.toInt
def asU64 (w : Word) : Int := w.toNat

def opSqrtA (p : Prec) : BitVec 3 → Args → State → Op := fun _ A s => opSqrt (p.val (A.ra s))

/-! ### FOP.S (R123) -/

def execFaddS (c : Ctl) (d a b : BitVec 5) (s : State) : Out := run (.faddS c d a b) true (fpOp .s (fp2 .s opAdd)) s
def execFsubS (c : Ctl) (d a b : BitVec 5) (s : State) : Out := run (.fsubS c d a b) true (fpOp .s (fp2 .s opSub)) s
def execFmulS (c : Ctl) (d a b : BitVec 5) (s : State) : Out := run (.fmulS c d a b) true (fpOp .s (fp2 .s fun _ => opMul)) s
def execFdivS (c : Ctl) (d a b : BitVec 5) (s : State) : Out := run (.fdivS c d a b) true (fpOpVar .s (fp2 .s fun _ => opDiv)) s
def execFsqrtS (c : Ctl) (d a : BitVec 5) (s : State) : Out := run (.fsqrtS c d a) true (fpOpVar .s (opSqrtA .s)) s
def execFminS (c : Ctl) (d a b : BitVec 5) (s : State) : Out := run (.fminS c d a b) true (fpPick .s false) s
def execFmaxS (c : Ctl) (d a b : BitVec 5) (s : State) : Out := run (.fmaxS c d a b) true (fpPick .s true) s
def execFcsgnS (c : Ctl) (d a b : BitVec 5) (s : State) : Out := run (.fcsgnS c d a b) true (fpSign .s fun _ y => y) s
def execFnsgnS (c : Ctl) (d a b : BitVec 5) (s : State) : Out := run (.fnsgnS c d a b) true (fpSign .s fun _ y => !y) s
def execFxsgnS (c : Ctl) (d a b : BitVec 5) (s : State) : Out := run (.fxsgnS c d a b) true (fpSign .s fun x y => xor x y) s
def execFcmpqS (c : Ctl) (d a b : BitVec 5) (s : State) : Out := run (.fcmpqS c d a b) true (fpCompare .s false) s
def execFcmpsS (c : Ctl) (d a b : BitVec 5) (s : State) : Out := run (.fcmpsS c d a b) true (fpCompare .s true) s
def execFtypeS (c : Ctl) (d a : BitVec 5) (s : State) : Out := run (.ftypeS c d a) true (fpType .s) s
def execFmaddS (c : Ctl) (d a b e : BitVec 5) (s : State) : Out := run (.fmaddS c d a b e) true (fpFused .s false) s
def execFmsubS (c : Ctl) (d a b e : BitVec 5) (s : State) : Out := run (.fmsubS c d a b e) true (fpFused .s true) s

/-! ### FOP.D (R123) -/

def execFaddD (c : Ctl) (d a b : BitVec 5) (s : State) : Out := run (.faddD c d a b) true (fpOp .d (fp2 .d opAdd)) s
def execFsubD (c : Ctl) (d a b : BitVec 5) (s : State) : Out := run (.fsubD c d a b) true (fpOp .d (fp2 .d opSub)) s
def execFmulD (c : Ctl) (d a b : BitVec 5) (s : State) : Out := run (.fmulD c d a b) true (fpOp .d (fp2 .d fun _ => opMul)) s
def execFdivD (c : Ctl) (d a b : BitVec 5) (s : State) : Out := run (.fdivD c d a b) true (fpOpVar .d (fp2 .d fun _ => opDiv)) s
def execFsqrtD (c : Ctl) (d a : BitVec 5) (s : State) : Out := run (.fsqrtD c d a) true (fpOpVar .d (opSqrtA .d)) s
def execFminD (c : Ctl) (d a b : BitVec 5) (s : State) : Out := run (.fminD c d a b) true (fpPick .d false) s
def execFmaxD (c : Ctl) (d a b : BitVec 5) (s : State) : Out := run (.fmaxD c d a b) true (fpPick .d true) s
def execFcsgnD (c : Ctl) (d a b : BitVec 5) (s : State) : Out := run (.fcsgnD c d a b) true (fpSign .d fun _ y => y) s
def execFnsgnD (c : Ctl) (d a b : BitVec 5) (s : State) : Out := run (.fnsgnD c d a b) true (fpSign .d fun _ y => !y) s
def execFxsgnD (c : Ctl) (d a b : BitVec 5) (s : State) : Out := run (.fxsgnD c d a b) true (fpSign .d fun x y => xor x y) s
def execFcmpqD (c : Ctl) (d a b : BitVec 5) (s : State) : Out := run (.fcmpqD c d a b) true (fpCompare .d false) s
def execFcmpsD (c : Ctl) (d a b : BitVec 5) (s : State) : Out := run (.fcmpsD c d a b) true (fpCompare .d true) s
def execFtypeD (c : Ctl) (d a : BitVec 5) (s : State) : Out := run (.ftypeD c d a) true (fpType .d) s
def execFmaddD (c : Ctl) (d a b e : BitVec 5) (s : State) : Out := run (.fmaddD c d a b e) true (fpFused .d false) s
def execFmsubD (c : Ctl) (d a b e : BitVec 5) (s : State) : Out := run (.fmsubD c d a b e) true (fpFused .d true) s

/-! ### FCV (R125) -/

def execFcvF64F32 (c : Ctl) (d a : BitVec 5) (s : State) : Out := run (.fcvF64F32 c d a) true (fcvFloat .d .s) s
def execFcvF32F64 (c : Ctl) (d a : BitVec 5) (s : State) : Out := run (.fcvF32F64 c d a) true (fcvFloat .s .d) s
def execFcvF32I32 (c : Ctl) (d a : BitVec 5) (s : State) : Out := run (.fcvF32I32 c d a) true (fcvTo .s i32lo i32hi) s
def execFcvI32F32 (c : Ctl) (d a : BitVec 5) (s : State) : Out := run (.fcvI32F32 c d a) true (fcvFrom .s asI32) s
def execFcvF32I64 (c : Ctl) (d a : BitVec 5) (s : State) : Out := run (.fcvF32I64 c d a) true (fcvTo .s i64lo i64hi) s
def execFcvI64F32 (c : Ctl) (d a : BitVec 5) (s : State) : Out := run (.fcvI64F32 c d a) true (fcvFrom .s asI64) s
def execFcvF64I32 (c : Ctl) (d a : BitVec 5) (s : State) : Out := run (.fcvF64I32 c d a) true (fcvTo .d i32lo i32hi) s
def execFcvI32F64 (c : Ctl) (d a : BitVec 5) (s : State) : Out := run (.fcvI32F64 c d a) true (fcvFrom .d asI32) s
def execFcvF64I64 (c : Ctl) (d a : BitVec 5) (s : State) : Out := run (.fcvF64I64 c d a) true (fcvTo .d i64lo i64hi) s
def execFcvI64F64 (c : Ctl) (d a : BitVec 5) (s : State) : Out := run (.fcvI64F64 c d a) true (fcvFrom .d asI64) s
def execFcvF32U64 (c : Ctl) (d a : BitVec 5) (s : State) : Out := run (.fcvF32U64 c d a) true (fcvTo .s 0 u64hi) s
def execFcvU64F32 (c : Ctl) (d a : BitVec 5) (s : State) : Out := run (.fcvU64F32 c d a) true (fcvFrom .s asU64) s
def execFcvF64U64 (c : Ctl) (d a : BitVec 5) (s : State) : Out := run (.fcvF64U64 c d a) true (fcvTo .d 0 u64hi) s
def execFcvU64F64 (c : Ctl) (d a : BitVec 5) (s : State) : Out := run (.fcvU64F64 c d a) true (fcvFrom .d asU64) s

/-! ### FBIT (R126) -/

def execFgetD (c : Ctl) (d a : BitVec 5) (s : State) : Out := run (.fgetD c d a) true (alu1 4 id) s
def execFsetD (c : Ctl) (d a : BitVec 5) (s : State) : Out := run (.fsetD c d a) true (alu1 4 id) s
def execFgetS (c : Ctl) (d a : BitVec 5) (s : State) : Out := run (.fgetS c d a) true (alu1 4 (fun x => BitVec.ofNat 64 (x.toNat % 2 ^ 32))) s
def execFsetS (c : Ctl) (d a : BitVec 5) (s : State) : Out := run (.fsetS c d a) true (alu1 4 (fun x => boxS (x.toNat % 2 ^ 32))) s

end Sys2Proof.Machine
end

