-- ==== Sys2Proof/Machine/Poant.lean ====
section
/-! DEFINITION. Poant values, windows and instructions (R96 to R101, R128 to R139). -/

namespace Sys2Proof.Machine

/-! ### Values (R96, R97) -/

/-- The bias of a Poant exponent, and its least normal exponent. -/
def poBias : Nat := 262143
def poTop : Int := 262143
def poMin : Int := -262142

/-- A header and its granules. -/
structure Poant where
  hdr  : BitVec 32 := 0
  gran : List (BitVec 16) := []
deriving DecidableEq, Repr, Inhabited

def poN (h : BitVec 32) : Nat := bitsOf h.toNat 27 4
def poHdr (neg : Bool) (n e f : Nat) : BitVec 32 := BitVec.ofNat 32 (bit neg * 2 ^ 31 + n * 2 ^ 27 + e * 2 ^ 8 + f)
/-- The canonical NaN (R81). -/
def poNan : Poant := { hdr := 0x0FFFFF80, gran := [0] }

/-- Granules as one number, the first the highest. -/
def granNat (g : List (BitVec 16)) : Nat := g.foldl (fun a x => a * 65536 + x.toNat) 0
/-- The `n` granules of a number, the first the highest. -/
def natGran (v : Nat) : Nat → List (BitVec 16)
  | 0 => []
  | n + 1 => BitVec.ofNat 16 (v / 65536 ^ n) :: natGran v n

/-- The value of a header with its granules (R96, R97). -/
def Poant.val (p : Poant) : Val :=
  let h := p.hdr.toNat
  let neg := decide (2 ^ 31 ≤ h)
  let n := poN p.hdr
  let e := bitsOf h 8 19
  let f := h % 256
  if e = 0 then (if n = 0 ∧ f = 0 then .num { neg := neg } else .nan false)
  else if e = 0x7FFFF then (if n = 0 then .inf neg else .nan false)
  else .num { neg := neg, m := (256 + f) * 65536 ^ n + granNat (p.gran.take n), e := (e : Int) - poBias - (8 + 16 * n) }

/-- Granules that a precision needs (R98). -/
def granCount (p : Nat) : Nat := (p - 9 + 15) / 16

/-- A finite nonzero number of at most p bits in the normal range, stored (R98). -/
def poPack (p : Nat) (x : Ex) : Poant :=
  let n := granCount p
  let w := 9 + 16 * n
  let m := if w < bitLen x.m then x.m / 2 ^ (bitLen x.m - w) else x.m * 2 ^ (w - bitLen x.m)
  { hdr := poHdr x.neg n (x.top + poBias).toNat (m / 65536 ^ n % 256), gran := natGran m n }

/-- What an exact value becomes at a precision: the stored value, its flags, whether it is inexact, and whether the rounding takes a
generator step (R77, R98, R129). -/
structure PoRounded where
  po    : Poant
  flags : BitVec 5 := 0
  step  : Bool := false
deriving DecidableEq, Repr, Inhabited

/-- Rounds a value to a Poant of p bits; a result that is inexact only by leaving the exponent's range takes no generator step (R76; DESIGN
CHOICE, log 125). -/
def poRound (p : Nat) (mode : BitVec 3) (draw : Word) : Val → PoRounded
  | .nan _ => { po := poNan }
  | .inf neg => { po := { hdr := poHdr neg 0 0x7FFFF 0 } }
  | .num x =>
    if x.zero then { po := { hdr := poHdr x.neg 0 0 0 } }
    else
      let r := roundTo p mode draw x
      if poTop < r.1.top then
        { po := if overInf mode x.neg then { hdr := poHdr x.neg 0 0x7FFFF 0 }
            else poPack p { neg := x.neg, m := 2 ^ p - 1, e := poTop - p + 1 }
          flags := flagOF ||| flagNX, step := r.2 }
      else if r.1.top < poMin then
        { po := if underNormal mode x.neg then poPack p { neg := x.neg, m := 1, e := poMin } else { hdr := poHdr x.neg 0 0 0 }
          flags := flagUF ||| flagNX, step := r.2 }
      else { po := poPack p r.1, flags := flagIf r.2 flagNX, step := r.2 }

/-! ### Windows (R27, R128) -/

def winV (w : Word) : Bool := w.getLsbD 12
def winLen (w : Word) : Nat := bitsOf w.toNat 8 4
def winBase (w : Word) : Nat := bitsOf w.toNat 0 8
/-- The index of a window's granule; the pool has 256. -/
def winIx (w : Word) (i : Nat) : Nat := (winBase w + i) % 256

/-- read_w of R128. -/
def Thread.readW (th : Thread) (fl : File) (r : Nat) : Poant :=
  let w := th.reg fl r
  let h : BitVec 32 := w.extractLsb' 32 32
  { hdr := h, gran := (List.range (poN h)).map fun i => if winV w && decide (i < winLen w) then th.pool.get (winIx w i) else 0 }

def writePool (w : Word) (g : List (BitVec 16)) (pool : Store 16) : Nat → Store 16
  | 0 => pool
  | i + 1 => (writePool w g pool i).set (winIx w i) (g.getD i 0)
/-- A window's granules have been written and hold fresh codewords (R364). -/
def Thread.healWindow (th : Thread) (w : Word) : Thread :=
  (List.range (winLen w)).foldl (fun th i => th.healed (.granule (winIx w i))) th
/-- write_w of R128. -/
def Thread.writeW (th : Thread) (fl : File) (r : Nat) (p : Poant) : Thread :=
  let w := th.reg fl r
  ({ th with pool := writePool w (p.gran.take (poN p.hdr)) th.pool (winLen w) }.setReg fl r (p.hdr ++ w.extractLsb' 0 32)).healWindow w

/-- A window's image stands at once; its full/empty bit turns full when the result is written (R50). -/
def State.windowDone (s : State) (A : Args) : State := s.writeVarD A (A.rd s)

/-! ### po_result (R129) -/

def poMode (A : Args) (s : State) : BitVec 3 := A.ctl.rmOr (precRm (A.th s).ctrl.prec)
def poPrec (A : Args) (s : State) : Nat := A.ctl.poOr (precP (A.th s).ctrl.prec)

/-- DETAIL of cause 0x12 and 0x15 (R379): the window does not hold the result; the result is inexact. -/
def failWindow : Fail := { cause := 0x12, detail := 1 }
def failPool : Fail := { cause := 0x12 }
def failInexact : Fail := { cause := 0x15 }

/-- po_result with its precision as an argument; `after` is what the instruction does besides. -/
def poResultAt (p : Nat) (v : Val) (flags : BitVec 5) (A : Args) (s : State) : Res :=
  let th := A.th s
  let w := th.reg A.fd A.d
  let len := if winV w then winLen w else 0
  let mode := poMode A s
  let wide := match v with | .num x => !x.zero && decide (len < granCount p) | _ => false
  if wide && precXe th.ctrl.prec then .trap failWindow
  else
    let r := poRound (if wide then 9 + 16 * len else p) mode th.draw v
    if precXi th.ctrl.prec && r.flags.getLsbD 0 then .trap failInexact
    else
      let s := s.modThread A.n A.t fun th =>
        ((th.writeW A.fd A.d r.po).orFl (flags ||| r.flags)).stepSrs (r.step && decide (mode = 6))
      .done (s.windowDone A)
def poResult (v : Val) (flags : BitVec 5) (A : Args) (s : State) : Res := poResultAt (poPrec A s) v flags A s

def poArg (A : Args) (s : State) (fl : File) (r : Nat) : Val := ((A.th s).readW fl r).val

/-- An arithmetic form (R133): a NaN operand gives NaN and sets no flag. -/
def poArith (f : BitVec 3 → List Val → Op) (src : Args → State → List Val) (A : Args) (s : State) : Res :=
  let vs := src A s
  if vs.any Val.isNan then poResult (.nan false) 0 A s
  else let r := f (poMode A s) vs; poResult r.v r.flags A s
def poSrc1 (A : Args) (s : State) : List Val := [poArg A s A.fa A.a]
def poSrc2 (A : Args) (s : State) : List Val := [poArg A s A.fa A.a, poArg A s A.fb A.b]
def poSrc3 (A : Args) (s : State) : List Val := [poArg A s A.fa A.a, poArg A s A.fb A.b, poArg A s A.fe A.e]
/-- The operations on their list of operands. -/
def on1 (f : Val → Op) : List Val → Op
  | [a] => f a
  | _ => Val.invalid
def on2 (f : Val → Val → Op) : List Val → Op
  | [a, b] => f a b
  | _ => Val.invalid
def on3 (f : Val → Val → Val → Op) : List Val → Op
  | [a, b, c] => f a b c
  | _ => Val.invalid

/-- A comparison (R134). -/
def poCompare (f : Int → Bool) (A : Args) (s : State) : Res :=
  let a := poArg A s A.fa A.a
  let b := poArg A s A.fb A.b
  .done (s.writeVarD A (boolWord (!a.isNan && !b.isNan && f (cmpVal a b))))

/-! ### POALLOC (R131) -/

/-- Granules held by the windows other than `d`. -/
def Thread.held (th : Thread) (d : Nat) : List Nat :=
  (List.range 32).flatMap fun r =>
    let w := vget th.w r
    if r ≠ d ∧ winV w then (List.range (winLen w)).map (winIx w) else []
/-- The least place for a window of `len` granules. -/
def Thread.place (th : Thread) (d len : Nat) : Option Nat :=
  let h := th.held d
  (List.range (257 - len)).find? fun b => (List.range len).all fun i => !h.contains (b + i)
def poAlloc (len : Args → State → Nat) (A : Args) (s : State) : Res :=
  let l := len A s
  match (A.th s).place A.d l with
  | none => .trap failPool
  | some b =>
    let w : Word := BitVec.ofNat 64 (2 ^ 12 + l * 2 ^ 8 + if l = 0 then 0 else b)
    let s := s.modThread A.n A.t fun th => ({ th with pool := th.pool.clear b (b + l) }.setReg A.fd A.d w).healWindow w
    .done (s.windowDone A)
def poFree (A : Args) (s : State) : Res := .done ((s.modThread A.n A.t fun th => th.setReg A.fd A.d 0).windowDone A)

/-! ### Elements in memory (R99 to R101, R135 to R137) -/

/-- An offset for the checks of R119. One past every word, which a side table's index can reach, lies outside LM like the last. -/
def offWord (o : Nat) : Word := if o < 2 ^ 64 then BitVec.ofNat 64 o else BitVec.allOnes 64
/-- Reads bytes that R119 admits, as accesses of `unit` bytes: a poisoned one is the error of a core load (R366). -/
def State.loadUnits (s : State) (A : Args) (o len unit acc : Nat) : Except Fail (Nat × State) :=
  match s.checkLM A.n (A.slot s) (offWord o) len unit acc with
  | some f => .error f
  | none =>
    let pa := nodeBase A.n + o
    match (List.range (len / unit)).find? fun k => s.poisoned (pa + unit * k) with
    | none => .ok (s.readNat pa len, s)
    | some k =>
      let a := BitVec.ofNat 64 (o + unit * k)
      if s.precise A.n (A.slot s) then .error { cause := 0x50, addr := a }
      else .ok (s.readNat pa len, s.modThread A.n A.t fun th => th.failed a 0)

/-- The granules of an element's bytes. -/
def granOf (v : Nat) : Nat → List (BitVec 16)
  | 0 => []
  | n + 1 => BitVec.ofNat 16 v :: granOf (v / 65536) n
def Poant.bytes (p : Poant) : List Byte := natBytes 4 p.hdr.toNat ++ p.gran.flatMap fun g => natBytes 2 g.toNat

/-- Reads an element that has room for `room` bytes (R99): one whose header asks for more reads as NaN (R101, R136). -/
def State.loadPoant (s : State) (A : Args) (o room : Nat) : Except Fail (Poant × State) :=
  match s.loadUnits A o 4 2 0 with
  | .error f => .error f
  | .ok (h, s1) =>
    let hdr := BitVec.ofNat 32 h
    let n := poN hdr
    if room < 4 + 2 * n then .ok (poNan, s1)
    else
      match s.loadUnits A o (4 + 2 * n) 2 0 with
      | .error f => .error f
      | .ok (v, s) => .ok ({ hdr := hdr, gran := granOf (v / 2 ^ 32) n }, s)

/-- POLD's delivery (R137). -/
def poldInto (p : Poant) (A : Args) (s : State) : Res := poResultAt (9 + 16 * poN p.hdr) p.val 0 A s

/-- Advances a q pointer (R28). -/
def qAddr (w : Word) : Nat := bitsOf w.toNat 0 22
def qStep (w : Word) : Word :=
  let a := ((w.setWidth 22 : BitVec 22) + (w.extractLsb' 32 16).signExtend 22)
  w.extractLsb' 22 42 ++ a
def State.advanceQ (s : State) (A : Args) (fl : File) (r : Nat) : State :=
  s.modThread A.n A.t fun th => th.setReg fl r (qStep (th.reg fl r))

/-- POLD.S (R136). -/
def poldS (nmax : Nat) (A : Args) (s : State) : Res :=
  match s.loadPoant A (qAddr (A.ra s)) (4 + 2 * nmax) with
  | .error f => .trap f
  | .ok (p, s1) =>
    match poldInto p A s1 with
    | .done s2 => .done (s2.advanceQ A A.fa A.a)
    | r => r

/-- A slot's two bounds from the side table of a packed array (R101, R136). -/
def State.sideEntries (s : State) (A : Args) (acc : Nat) : Except Fail (Nat × Nat × State) :=
  let o := bitsOf (A.ra s).toNat 32 22 + 4 * (A.rb s).toNat
  match s.loadUnits A o 4 4 acc with
  | .error f => .error f
  | .ok (lo, s) =>
    match s.loadUnits A (o + 4) 4 4 acc with
    | .error f => .error f
    | .ok (hi, s) => .ok (lo, hi, s)
def slotOk (lo hi : Nat) : Bool := decide (lo % 2 = 0) && decide (hi % 2 = 0) && decide (lo + 4 ≤ hi)
def packedBase (w : Word) : Nat := bitsOf w.toNat 0 22

/-- POLD.P. -/
def poldP (A : Args) (s : State) : Res :=
  match s.sideEntries A 0 with
  | .error f => .trap f
  | .ok (lo, hi, s) =>
    if slotOk lo hi then
      match s.loadPoant A (packedBase (A.ra s) + lo) (hi - lo) with
      | .error f => .trap f
      | .ok (p, s) => poldInto p A s
    else poResult (.nan false) flagNV A s

/-- What a store writes into a slot of `room` bytes (R100, R137): the value as it is where it fits, else rounded to what the slot
holds. -/
def poStored (room : Nat) (v : Poant) (mode : BitVec 3) (draw : Word) : PoRounded :=
  let n := (room - 4) / 2
  if v.val.isNan then { po := poNan }
  else if poN v.hdr ≤ n then
    { po := if v.val.isInf then { hdr := poHdr (decide (2 ^ 31 ≤ v.hdr.toNat)) 0 0x7FFFF 0 } else v }
  else poRound (9 + 16 * n) mode draw v.val

/-- Stores the source window into a slot (R137), by 2-byte accesses. Where the slot's bytes fail R119 and the result is inexact too, the
address decides: the order is the model's choice (log 110). -/
def posvInto (o room : Nat) (A : Args) (s : State) : Res :=
  let th := A.th s
  let mode := poMode A s
  let r := poStored room (th.readW A.fd A.d) mode th.draw
  Res.unless (s.checkLM A.n (A.slot s) (offWord o) room 2 1)
    (if precXi th.ctrl.prec && r.flags.getLsbD 0 then .trap failInexact
     else
      let bs := (r.po.bytes ++ List.replicate room 0).take room
      let pa := nodeBase A.n + o
      claimed A s (linesOf pa room) fun s =>
        .done ((s.bankUnits (some A.t) 2 pa bs room).modThread A.n A.t fun th =>
          (th.orFl r.flags).stepSrs (r.step && decide (mode = 6))))

/-- POSV.S (R136). -/
def posvS (nmax : Nat) (A : Args) (s : State) : Res :=
  match posvInto (qAddr (A.ra s)) (4 + 2 * nmax) A s with
  | .done s => .done (s.advanceQ A A.fa A.a)
  | r => r
/-- POSV.P. -/
def posvP (A : Args) (s : State) : Res :=
  match s.sideEntries A 0 with
  | .error f => .trap f
  | .ok (lo, hi, s) =>
    if slotOk lo hi then posvInto (packedBase (A.ra s) + lo) (hi - lo) A s
    else .done (s.modThread A.n A.t fun th => th.orFl flagNV)

/-! ### Conversions (R138) -/

def pocvtFrom (p : Prec) (A : Args) (s : State) : Res :=
  let v := p.val (A.ra s)
  poResult v (flagIf v.sNan flagNV) A s
def pocvtTo (p : Prec) (A : Args) (s : State) : Res :=
  let (b, s') := deliverFp p (poMode A s) { v := poArg A s A.fa A.a } A s
  .done (s'.writeVarD A (p.image b))
def pocvtLong (A : Args) (s : State) : Res :=
  let mode := poMode A s
  let r := toInteger i64lo i64hi mode (A.th s).draw (poArg A s A.fa A.a)
  let s := s.modThread A.n A.t fun th => (th.orFl r.2.1).stepSrs (r.2.2 && decide (mode = 6))
  .done (s.writeVarD A (BitVec.ofInt 64 r.1))

/-! ### Dot product (R139) -/

/-- The sum so far: the numbers' exact sum, which infinities it met, whether it met a NaN, an invalid operation, a signalling NaN. -/
structure Dot where
  sum  : Option Ex := none
  pos  : Bool := false
  neg  : Bool := false
  nan  : Bool := false
  inv  : Bool := false
  snan : Bool := false
deriving DecidableEq, Repr, Inhabited

def Dot.add (mode : BitVec 3) (d : Dot) (a b : Val) : Dot :=
  let d := { d with snan := d.snan || a.sNan || b.sNan }
  match (opMul a b).v with
  | .nan _ => if a.isNan || b.isNan then { d with nan := true } else { d with inv := true }
  | .inf s => if s then { d with neg := true } else { d with pos := true }
  | .num x => { d with sum := some (match d.sum with | none => x | some y => addEx mode y x) }
def Dot.invalid (d : Dot) : Bool := d.inv || (d.pos && d.neg)
/-- The sum's value; none where there was no element. -/
def Dot.val (d : Dot) : Option Val :=
  if d.nan || d.invalid then some (.nan false)
  else if d.pos then some (.inf false)
  else if d.neg then some (.inf true)
  else d.sum.map .num

/-- An element's size and value by its format code. -/
def dotSize (f : Nat) : Nat := if f = 1 ∨ f = 2 then 4 else 8
def dotVal (f v : Nat) : Val :=
  match f with
  | 0 => binary64.value true false v
  | 1 => binary32.value true false v
  | 2 => ofInteger (BitVec.ofNat 32 v).toInt
  | _ => ofInteger (BitVec.ofNat 64 v).toInt

/-- Reads and adds up `k` pairs; the pointers stand in the state that is carried along. -/
def dotGo (mode : BitVec 3) (fa fb : Nat) (A : Args) (s : State) (d : Dot) : Nat → Except Fail (Dot × State)
  | 0 => .ok (d, s)
  | k + 1 =>
    match s.loadUnits A (qAddr (A.ra s)) (dotSize fa) (dotSize fa) 0 with
    | .error f => .error f
    | .ok (a, s) =>
      let s := s.advanceQ A A.fa A.a
      match s.loadUnits A (qAddr (A.rb s)) (dotSize fb) (dotSize fb) 0 with
      | .error f => .error f
      | .ok (b, s) => dotGo mode fa fb A (s.advanceQ A A.fb A.b) (d.add mode (dotVal fa a) (dotVal fb b)) k

def podot (A : Args) (s : State) : Res :=
  let x := (A.re s).toNat
  let mode := poMode A s
  match dotGo mode (bitsOf x 32 2) (bitsOf x 34 2) A s {} (bitsOf x 0 20) with
  | .error f => .trap f
  | .ok (d, s) =>
    let acc := poArg A s A.fd A.d
    let nv := flagIf d.snan flagNV
    let r : Op := match d.val with
      | none => { v := acc }
      | some v =>
        if v.isNan || acc.isNan then { v := .nan false, flags := flagIf d.invalid flagNV }
        else if bitsOf x 36 1 = 1 then opSub mode acc v else opAdd mode acc v
    poResult r.v (r.flags ||| nv) A s

/-! ### The instructions -/

def execPoalloc (c : Ctl) (d : BitVec 5) (s : State) : Out := run (.poalloc c d) true (poAlloc fun A s => granCount (poPrec A s)) s
def execPoallocX (c : Ctl) (d a : BitVec 5) (s : State) : Out :=
  run (.poallocX c d a) true (poAlloc fun A s => min 15 (A.ra s).toNat) s
def execPofree (c : Ctl) (d : BitVec 5) (s : State) : Out := run (.pofree c d) true poFree s
def execPoadd (c : Ctl) (d a b : BitVec 5) (s : State) : Out := run (.poadd c d a b) true (poArith (fun m => on2 (opAdd m)) poSrc2) s
def execPosub (c : Ctl) (d a b : BitVec 5) (s : State) : Out := run (.posub c d a b) true (poArith (fun m => on2 (opSub m)) poSrc2) s
def execPomul (c : Ctl) (d a b : BitVec 5) (s : State) : Out := run (.pomul c d a b) true (poArith (fun _ => on2 opMul) poSrc2) s
def execPodiv (c : Ctl) (d a b : BitVec 5) (s : State) : Out := run (.podiv c d a b) true (poArith (fun _ => on2 opDiv) poSrc2) s
def execPosqrt (c : Ctl) (d a : BitVec 5) (s : State) : Out := run (.posqrt c d a) true (poArith (fun _ => on1 opSqrt) poSrc1) s
def execPofma (c : Ctl) (d a b e : BitVec 5) (s : State) : Out :=
  run (.pofma c d a b e) true (poArith (fun m => on3 (opFma m)) poSrc3) s
def execPocmpEq (c : Ctl) (d a b : BitVec 5) (s : State) : Out := run (.pocmpEq c d a b) true (poCompare fun r => r == 0) s
def execPocmpLt (c : Ctl) (d a b : BitVec 5) (s : State) : Out := run (.pocmpLt c d a b) true (poCompare fun r => decide (r < 0)) s
def execPocmpLe (c : Ctl) (d a b : BitVec 5) (s : State) : Out := run (.pocmpLe c d a b) true (poCompare fun r => decide (r ≤ 0)) s
def execPoldS (c : Ctl) (n : BitVec 4) (d a : BitVec 5) (s : State) : Out := run (.poldS c n d a) true (poldS n.toNat) s
def execPoldP (c : Ctl) (d a b : BitVec 5) (s : State) : Out := run (.poldP c d a b) true poldP s
def execPosvS (c : Ctl) (n : BitVec 4) (d a : BitVec 5) (s : State) : Out := run (.posvS c n d a) true (posvS n.toNat) s
def execPosvP (c : Ctl) (d a b : BitVec 5) (s : State) : Out := run (.posvP c d a b) true posvP s
def execPocvtPD (c : Ctl) (d a : BitVec 5) (s : State) : Out := run (.pocvtPD c d a) true (pocvtFrom .d) s
def execPocvtPS (c : Ctl) (d a : BitVec 5) (s : State) : Out := run (.pocvtPS c d a) true (pocvtFrom .s) s
def execPocvtPL (c : Ctl) (d a : BitVec 5) (s : State) : Out :=
  run (.pocvtPL c d a) true (fun A s => poResult (ofInteger (asI64 (A.ra s))) 0 A s) s
def execPocvtDP (c : Ctl) (d a : BitVec 5) (s : State) : Out := run (.pocvtDP c d a) true (pocvtTo .d) s
def execPocvtSP (c : Ctl) (d a : BitVec 5) (s : State) : Out := run (.pocvtSP c d a) true (pocvtTo .s) s
def execPocvtLP (c : Ctl) (d a : BitVec 5) (s : State) : Out := run (.pocvtLP c d a) true pocvtLong s
def execPocvtPP (c : Ctl) (d a : BitVec 5) (s : State) : Out :=
  run (.pocvtPP c d a) true (fun A s => poResult (poArg A s A.fa A.a) 0 A s) s
def execPodot (c : Ctl) (d a b e : BitVec 5) (s : State) : Out := run (.podot c d a b e) true podot s

end Sys2Proof.Machine
end

