-- ==== Sys2Proof/Machine/Sched.lean ====
section
/-! DEFINITION. Descriptors, arm entries, firing, ready banks and pops (R258 to R264, R292), counters (R235, R236) and barriers
(R279, R280). -/

namespace Sys2Proof.Machine

/-! ### Descriptors (R258) -/

/-- BUDGET as it is read: 10 to 24, any other value as 20. -/
def budgetOf (b : Nat) : BitVec 5 := if 10 ≤ b ∧ b ≤ 24 then BitVec.ofNat 5 b else 20
/-- A descriptor from its doublewords as a program supplies them, for a node: a channel core reads RADIUS as 0 (R251). -/
def Desc.ofWords (n : Nat) (w0 w1 w2 : Word) : Desc :=
  { entry := w0.setWidth 58 &&& ~~~3#58
    arg := w1.setWidth 58
    budget := budgetOf (bitsOf w2.toNat 48 5)
    radius := if isChan n then 0 else w2.extractLsb' 45 3
    stage := w2.extractLsb' 37 8
    prio := w2.extractLsb' 33 4 }
/-- The HOME field for a node: a cell's logical id, a channel core's channel id (log 9). -/
def homeField (n : Nat) : BitVec 11 := BitVec.ofNat 11 (if isChan n then chanOf n else n)

/-- BUDGET in cycles. -/
def budgetCycles (b : BitVec 5) : BitVec 32 := 1#32 <<< b.toNat

/-! ### Context slots (R270, R271) -/

def Sched.slotState (c : Sched) (slot : BitVec 2) : Nat := bitsOf c.ctxSt.toNat (2 * slot.toNat) 2
/-- The slot is IN. -/
def Sched.slotIn (c : Sched) (slot : BitVec 2) : Bool := c.slotState slot == 0
def Sched.setSlotState (c : Sched) (slot : BitVec 2) (v : Nat) : Sched :=
  let k := 2 * slot.toNat
  { c with ctxSt := (c.ctxSt &&& ~~~(3#8 <<< k)) ||| (BitVec.ofNat 8 v <<< k) }
/-- RUN_s: threads running a task of the slot; frozen threads do not count. -/
def Cell.runCount (c : Cell) (slot : BitVec 2) : Nat :=
  (c.threads.filter fun p => decide (p.2.run.st = .running) && p.2.run.desc.any fun d => d.slot = slot).length

/-! ### Firing (R260, R261) -/

/-- Appends a fired descriptor in firing order. -/
def Sched.fire (c : Sched) (d : Desc) (p : FiredAt) : Sched := { c with fired := c.fired ++ [{ desc := d, place := p }] }
/-- Fired places in use. -/
def Sched.placesUsed (c : Sched) : Nat := (c.fired.filter fun f => f.place = .place).length
/-- Arm entries of a bank unit that are not FREE. -/
def Sched.armsUsed (c : Sched) (n bank : Nat) : Nat := (c.arms.filter fun a => bankOf n a.ctr.toNat = bank).length

/-- Changes the first entry of a list that meets a condition. -/
def modFirst {α : Type} (p : α → Bool) (f : α → α) : List α → List α
  | [] => []
  | x :: xs => if p x then f x :: xs else x :: modFirst p f xs
/-- Removes it. -/
def dropFirst {α : Type} (p : α → Bool) : List α → List α
  | [] => []
  | x :: xs => if p x then xs else x :: dropFirst p xs

/-- The counter's ARMED entry fires (R260): HOME and CTR are written and the entry is queued. -/
def Sched.fireCounter (c : Sched) (n off : Nat) : Sched :=
  let isIt := fun a : ArmEnt => decide (a.ctr.toNat = off) && decide (a.st = .armed)
  match c.arms.find? isIt with
  | none => c
  | some a =>
    let d := { a.desc with home := homeField n, ctr := a.ctr }
    { c with arms := modFirst isIt (fun a => { a with st := .fired, desc := d }) c.arms }.fire d .arm

/-- An ARM performed at the bank (R293): its RESERVED entry is ARMED, or fires where the counter reads 0. -/
def Sched.armCounter (c : Sched) (n off : Nat) (zero : Bool) (d : Desc) : Sched :=
  let isIt := fun a : ArmEnt => decide (a.ctr.toNat = off) && decide (a.st = .reserved)
  let c := { c with arms := modFirst isIt (fun a => { a with st := .armed, desc := d }) c.arms }
  if zero then c.fireCounter n off else c

/-- Records an overshoot in CTR_ERR (R236). -/
def ctrErrNext (w : Word) (off : Nat) : Word :=
  let k := w.extractLsb' 32 32
  (if k = BitVec.allOnes 32 then k else k + 1) ++ 0#10 ++ BitVec.ofNat 22 off
def State.ctrErr (s : State) (n off : Nat) : State := s.modMem n fun m => { m with ctrErr := ctrErrNext m.ctrErr off }

/-- A DECN performed at the counter's bank (R235), which no sharer's L1D holds any more (R213). -/
def State.decnAt (s : State) (n off : Nat) (amount : Nat) : State :=
  if amount = 0 then s
  else
    let pa := nodeBase n + off
    let old := s.readNat pa 4
    let new := old - amount
    let s := s.bankWrite none pa (natBytes 4 new)
    let s := if old = 0 ∨ old < amount then s.ctrErr n off else s
    if 0 < old ∧ new = 0 then s.modSched n fun c => c.fireCounter n off else s

/-! ### Ready banks (R263) -/

/-- The place of a new entry in a bank: after the last sealed entry, then after every entry of no lower PRIO. Answers the bank. -/
def insertBank (e : ReadyEnt) (bank : List ReadyEnt) : List ReadyEnt :=
  let k := (bank.zipIdx.filter fun p => p.1.lead = 31).getLast?.elim 0 fun p => p.2 + 1
  let tail := bank.drop k
  let keep := tail.takeWhile fun x => decide (e.desc.prio.toNat ≤ x.desc.prio.toNat)
  let behind := tail.drop keep.length
  bank.take k ++ keep ++ [{ e with lead := k + keep.length }] ++ behind.map fun x => { x with lead := x.lead + 1 }

/-- Which of the node's banks takes the next entry: the emptiest that is not full, the first at or after the pointer. -/
def Sched.pickBank (c : Sched) (n : Nat) : Option Nat :=
  let m := readyBanks n
  let order := (List.range m).map fun k => (c.insPtr + k) % m
  let ok := order.filter fun b => (vget c.ready b).length < 32
  ok.foldl (fun best b => match best with
    | none => some b
    | some x => if (vget c.ready b).length < (vget c.ready x).length then some b else best) none

/-- A bank's head: its first entry whose slot is IN (R264). -/
def Sched.head (c : Sched) (b : Nat) : Option ReadyEnt := (vget c.ready b).find? fun e => c.slotIn e.desc.slot
/-- A head that stops being one while its slot is IN starts with PASS 0 when it is a head again; one whose slot leaves IN keeps its PASS
(R264). -/
def Sched.displace (c : Sched) (b : Nat) (old : Option ReadyEnt) : Sched :=
  match old with
  | none => c
  | some h =>
    if !c.slotIn h.desc.slot || (c.head b).any fun x => x.age = h.age then c
    else { c with ready := vset c.ready b ((vget c.ready b).map fun x => if x.age = h.age then { x with pass := 0 } else x) }
/-- Inserts a descriptor into a ready bank as a new entry (R263); with no place it stays where it is. -/
def Sched.insert (c : Sched) (n : Nat) (d : Desc) : Option Sched :=
  (c.pickBank n).map fun b =>
    let bank := insertBank { desc := d, age := c.ages, lead := 0, pass := 0 } (vget c.ready b)
    ({ c with ready := vset c.ready b bank, ages := c.ages + 1, insPtr := (c.insPtr + 1) % readyBanks n } : Sched).displace b (c.head b)

/-! ### The pop (R264) -/

def Sched.heads (c : Sched) : List ReadyEnt := (List.range 8).filterMap c.head

/-- The overdue list: entries that are heads, and heads that stand at PASS 16, lower banks first. -/
def Sched.refresh (c : Sched) : Sched :=
  let hs := c.heads
  let keep := c.overdue.filter fun a => hs.any fun h => h.age = a
  { c with overdue := keep ++ ((hs.filter fun h => decide (16 ≤ h.pass) && !keep.contains h.age).map ReadyEnt.age) }

/-- What a change of the banks or of the slots' states does to the heads: those of `old` that it displaced, and the overdue list. -/
def Sched.after (c old : Sched) : Sched := ((List.range 8).foldl (fun c b => c.displace b (old.head b)) c).refresh

/-- One step of the cell's generator. -/
def popGen (g : BitVec 32) : BitVec 32 :=
  let g := g ^^^ (g <<< 13)
  let g := g ^^^ (g >>> 17)
  g ^^^ (g <<< 5)

/-- The entry that a pop takes, with the stepped generator (R264). -/
def Sched.take (c : Sched) : Option ReadyEnt :=
  let g := (popGen c.gen).toNat
  let hs := c.heads
  match c.overdue with
  | a :: _ => hs.find? fun h => h.age = a
  | [] =>
    let b1 := g % 8
    let b2 := (b1 + 1 + g / 8 % 8 % 7) % 8
    match c.head b1, c.head b2 with
    | some x, some y =>
      if y.desc.prio.toNat < x.desc.prio.toNat then some x
      else if x.desc.prio.toNat < y.desc.prio.toNat then some y
      else if x.age < y.age then some x else some y
    | some x, none => some x
    | none, some y => some y
    | none, none => (List.range 8).findSome? fun k => c.head ((b1 + k) % 8)

/-- The banks after a pop of the entry with that AGE: every other head has been passed over once more. -/
def Sched.popped (c : Sched) (e : ReadyEnt) : Sched :=
  let hs := (c.heads.filter fun h => h.age ≠ e.age).map ReadyEnt.age
  let upd := fun x : ReadyEnt => if hs.contains x.age then { x with pass := x.pass + 1 } else x
  { c with gen := popGen c.gen
           ready := c.ready.map fun b => (b.filter fun x => x.age ≠ e.age).map upd
           overdue := c.overdue.filter fun a => a ≠ e.age }

/-- Threads that are free: they hold no task and no rolled-back descriptor and are not parked (R264, R343). -/
def Cell.freeThreads (c : Cell) (n : Nat) : List Nat :=
  (List.range (threadsOf n)).filter fun t =>
    decide ((c.thread t).run.st = .free) && !c.sched.park.getLsbD t && !(c.sched.fired.any fun f => f.place = .thread t)
/-- The free thread that pops: free the longest, then the lowest number. -/
def Cell.popper (c : Cell) (n : Nat) : Option Nat :=
  (c.freeThreads n).foldl (fun best t => match best with
    | none => some t
    | some x => if (c.thread t).run.freeAt < (c.thread x).run.freeAt then some t else best) none

/-! ### The start of a run (R262, R197) -/

/-- The granary fields and SRS that the thread starts with in a slot. -/
def Thread.startCtrl (th : Thread) (d : Desc) (now : Nat) : Ctrl :=
  let k := vget th.run.copies d.slot.toNat
  { srs := k.srs, log2 := d.budget, remain := budgetCycles d.budget, chargedAt := now
    granBase := d.granary.elim k.granBase Prod.fst
    granLimit := d.granary.elim k.granLimit Prod.snd
    granHead := d.granary.elim k.granHead Prod.fst }

/-- The thread as it takes a descriptor (R262): what the table lists is loaded, with fresh codewords (R364), the pool and the other slots'
copies stay. -/
def Thread.start (th : Thread) (d : Desc) (now : Nat) : Thread :=
  let x10 : Word := d.handler.elim (d.arg.setWidth 64) Prod.fst
  let x11 : Word := d.handler.elim (0#21 ++ d.home ++ 0#10 ++ d.ctr) Prod.snd
  { pool := th.pool
    x := (((Vector.replicate 32 0).set 10 x10).set 11 x11).set 12 (d.stage.setWidth 64)
    pc := d.entry
    ctrl := th.startCtrl d now
    run := { st := .running, desc := some d, lastSlot := d.slot, copies := th.run.copies, readyAt := now, restart := true
             bad := th.run.bad.filter fun p => match p with
               | .granule _ => true
               | _ => false
             mismatch := th.run.mismatch } }

/-- What a thread holds for its slot when a task leaves it, so that the next task of the slot finds it (R262). -/
def Thread.saveSlot (th : Thread) : Thread :=
  let k : SlotCopy := { srs := th.ctrl.srs, granBase := th.ctrl.granBase, granLimit := th.ctrl.granLimit, granHead := th.ctrl.granHead }
  th.modRun fun r => { r with copies := vset r.copies th.slot.toNat k }

/-- A thread that holds no task, freed at a fabric cycle. -/
def Thread.release (th : Thread) (at_ : Nat) (parked : Bool) : Thread :=
  let th := th.saveSlot
  { th with
    run := { st := if parked then .parked else .free, lastSlot := th.slot, copies := th.run.copies, readyAt := th.run.readyAt
             freeAt := at_, packet := th.run.packet, bad := th.run.bad, mismatch := th.run.mismatch }
    outs := [], pend := [], score := [], gmap := [], prods := [] }

/-! ### Barriers (R279, R280) -/

def barGen (w : Nat) : Nat := bitsOf w 56 7
def barCtr (w : Nat) : Nat := bitsOf w 36 20 * 4
def barAbs (w : Nat) : Nat := bitsOf w 24 12
def barMembers (w : Nat) : Nat := bitsOf w 12 12
def barLeft (w : Nat) : Nat := bitsOf w 0 12
def barWord (gen ctrw abs members left : Nat) : Nat :=
  gen * 2 ^ 56 + ctrw / 4 * 2 ^ 36 + abs * 2 ^ 24 + members * 2 ^ 12 + left

/-- Starts a barrier's timer where its bank unit has one free (R280); a generation that finds none runs without a timeout. -/
def Sched.startTimer (c : Sched) (n off fab : Nat) (suspended : Bool) : Sched :=
  let rest := c.timers.filter fun t => t.off ≠ off
  let none := c.untimed.filter fun o => o ≠ off
  if (rest.filter fun t => bankOf n t.off = bankOf n off).length < 16 then
    { c with timers := rest ++ [{ off := off, started := fab, suspended := suspended }], untimed := none }
  else { c with timers := rest, untimed := off :: none }
/-- A generation is over: its timer stops. -/
def Sched.stopTimer (c : Sched) (off : Nat) : Sched :=
  { c with timers := c.timers.filter fun t => t.off ≠ off, untimed := c.untimed.filter fun o => o ≠ off }
def Sched.suspendTimer (c : Sched) (off : Nat) : Sched :=
  { c with timers := c.timers.map fun t => if t.off = off then { t with suspended := true } else t }
/-- The last absent member is back: the timer restarts from zero, unless the generation runs without one (R280). -/
def Sched.restartTimer (c : Sched) (n off fab : Nat) : Sched := if c.untimed.contains off then c else c.startTimer n off fab false

/-- BARA performed at the barrier's bank (R280): the last arrival answers the counter that the bank then decrements by 1. -/
def State.baraAt (s : State) (n off g : Nat) : State × Option Nat :=
  let pa := nodeBase n + off
  let w := s.readNat pa 8
  if g ≠ barGen w ∨ barMembers w = 0 ∨ bitsOf w 63 1 = 1 then (s.ctrErr n off, none)
  else if 1 < barLeft w then
    let s' := s.bankWrite none pa (natBytes 8 (w - 1))
    (if barLeft w = barMembers w then s'.modSched n fun c => c.startTimer n off s.fab (decide (0 < barAbs w)) else s', none)
  else if barLeft w = 1 then
    let w' := barWord ((barGen w + 1) % 128) (barCtr w) (barAbs w) (barMembers w) (barMembers w)
    ((s.bankWrite none pa (natBytes 8 w')).modSched n fun c => c.stopTimer off, some (barCtr w))
  else (s, none)

/-- BARX performed at the barrier's bank (R280). -/
def State.barxAt (s : State) (n off : Nat) (present : Bool) : State :=
  let pa := nodeBase n + off
  let w := s.readNat pa 8
  if present then
    if barAbs w = 0 then s.ctrErr n off
    else
      let s' := s.bankWrite none pa (natBytes 8 (w - 2 ^ 24))
      if barAbs w = 1 ∧ barLeft w ≠ barMembers w then s'.modSched n fun c => c.restartTimer n off s.fab else s'
  else if barAbs w = 4095 then s.ctrErr n off
  else (s.bankWrite none pa (natBytes 8 (w + 2 ^ 24))).modSched n fun c => c.suspendTimer off

end Sys2Proof.Machine
end

