-- ==== Sys2Proof/Machine/Runs.lean ====
section
/-! DEFINITION. The outbox and its release (R209, R211, R219, R221, R224, R239, R342), and how a run ends: END's steps (R267), rollback
(R369), abandonment (R259, R380), and HALT's parking (R343). -/

namespace Sys2Proof.Machine

/-! ### Message kinds (R255, R289) -/

def kLoad : BitVec 8 := 0x00
def kStore : BitVec 8 := 0x01
def kAmo : BitVec 8 := 0x02
def kCas : BitVec 8 := 0x03
def kDecn : BitVec 8 := 0x04
def kSend : BitVec 8 := 0x05
def kCpy : BitVec 8 := 0x06
def kCpym : BitVec 8 := 0x07
def kColl : BitVec 8 := 0x08
def kSpawn : BitVec 8 := 0x0A
def kBara : BitVec 8 := 0x0B
def kBarx : BitVec 8 := 0x0C
def kArm : BitVec 8 := 0x0D

/-- A message that writes bytes at a bank: STORE, AMO, CAS, DECN (R209, R220; log 10). -/
def Msg.writes (m : Msg) : Bool := decide (m.cls = 0) && decide (1 ≤ m.kind.toNat) && decide (m.kind.toNat ≤ 4)
/-- A message whose slot waits for its release condition (R211, R221, R224, R289). -/
def Msg.releases (m : Msg) : Bool := decide (m.cls = 0) && decide (4 ≤ m.kind.toNat)
/-- An engine's line on its way out of the device: to host memory, or into a port's window (R227, R345). -/
def Msg.leavesDevice (m : Msg) : Bool :=
  decide (m.cls = 2) && ((portAt m.dst).isSome || (decide (m.dst = coxNode) && decide (spaceOf m.opa.toNat = .host)))
/-- An engine command (R224). -/
def Msg.command (m : Msg) : Bool := decide (m.cls = 0) && decide (6 ≤ m.kind.toNat) && decide (m.kind.toNat ≤ 8)

/-! ### The outbox (R239) -/

/-- The run may take one more slot of that payload: its slots and bytes count until it ends, released ones among them. -/
def Thread.outboxRoom (th : Thread) (bytes : Nat) : Bool :=
  decide (th.run.boxSlots < 128) && decide (th.run.boxBytes + bytes ≤ 8192)
/-- Puts a message into the outbox. -/
def State.push (s : State) (n t : Nat) (m : Msg) : State :=
  let th := s.thread n t
  let m := { m with id := s.nextId, src := n, thr := t, ctx := th.ctx, launch := th.launch, pc := vaOf th.pc, ord := th.run.ops }
  (s.setThread n t (th.modRun fun r =>
    { r with outbox := r.outbox ++ [m], boxSlots := r.boxSlots + 1, boxBytes := r.boxBytes + m.bytes })).takeId
/-- Drops the outbox and the reservations of the ARM messages in it (R292, R369). -/
def State.dropOutbox (s : State) (n t : Nat) : State :=
  let ids := (s.thread n t).run.outbox.map Msg.id
  (s.modThread n t fun th => th.modRun fun r => { r with outbox := [] }).modSched n fun c =>
    { c with arms := c.arms.filter fun a => !(decide (a.st = .reserved) && ids.contains a.msg) }

/-! ### Release (R211, R221) -/

/-- scope_of (R221): 2 cell, 3 region, 4 device. -/
def State.scopeOf (s : State) (a b launch : Nat) : BitVec 3 :=
  if a = b then 2
  else if isChan a || isChan b then 4
  else if s.physOf a = s.physOf b then 2
  else if (s.launchOf launch).any fun l => l.region.has b then 3
  else 4
/-- The writes that a node's forward buffer holds. -/
def MemSide.writeIds (m : MemSide) : List Nat := (m.fwd.filter fun e => e.msg.writes).map fun e => e.msg.id
/-- The scope that a message's release has: a command names its own (R224), another's is computed (R221). -/
def State.releaseScope (s : State) (m : Msg) : BitVec 3 :=
  if m.command then m.scope else if m.releases then s.scopeOf m.src m.dst m.launch else 0
/-- Moves one slot to the forward buffer (R209): a release waits for the writes that the buffer holds, at region scope and wider
(R217, R219). -/
def State.forward (s : State) (n : Nat) (m : Msg) : State :=
  let sc := s.releaseScope m
  let needs := if m.releases && decide (3 ≤ sc.toNat) then (s.cell n).mem.writeIds else []
  s.modMem n fun k => { k with fwd := k.fwd ++ [{ msg := { m with scope := sc }, needs := needs }] }

/-- What a release met. -/
inductive Released where
  | all
  | full
  | fault (f : Fail)
deriving DecidableEq, Repr, Inhabited

/-- The access with which a slot's address was translated. -/
def Msg.acc (m : Msg) : Acc := if m.kind = kStore then .store else .amo
/-- A slot as it is released: one whose translation a TLBI removed is translated again (R342). -/
def State.retranslate (s : State) (n : Nat) (m : Msg) : Except Fail Msg :=
  match m.retr, m.va with
  | true, some va =>
    match s.translate n m.ctx m.acc spaceBank va with
    | .error f => .error f
    | .ok pa =>
      match homeOf pa with
      | some (h, o) => .ok { m with dst := h, opa := BitVec.ofNat 64 o, retr := false }
      | none => .error { cause := 0x26, addr := va, detail := accDetail m.acc.code }
  | _, _ => .ok m

/-- Entries of a forward buffer in use: a remote load and a fault packet take none (R209, R232; log 10). -/
def MemSide.fwdUsed (m : MemSide) : Nat := (m.fwd.filter fun e => decide (e.msg.cls = 0) && !e.load).length
/-- Releases the first `k` slots in slot order, until the forward buffer is full or a slot no longer translates. -/
def State.releaseSlots (s : State) (n t : Nat) : Nat → State × Released
  | 0 => (s, .all)
  | k + 1 =>
    match (s.thread n t).run.outbox with
    | [] => (s, .all)
    | m :: ms =>
      if fwdPlaces n ≤ (s.cell n).mem.fwdUsed then (s, .full)
      else
        match s.retranslate n m with
        | .error f => (s, .fault f)
        | .ok m =>
          State.releaseSlots ((s.modThread n t fun th => th.modRun fun r => { r with outbox := ms }).forward n m) n t k
/-- Releases every slot. -/
def State.releaseAll (s : State) (n t : Nat) : State × Released := s.releaseSlots n t (s.thread n t).run.outbox.length

/-! ### The wide unit's queues, as far as a run's end asks -/

/-- The entry is the thread's own: an orphan belongs to a task that was abandoned. -/
def WuEnt.of (t : Nat) (e : WuEnt) : Bool := decide (e.thr = t) && !e.orphan
/-- The thread has no wide-unit instruction that is not complete (R145). -/
def State.wuIdle (s : State) (n t : Nat) : Bool := !(s.core n t).wuq.any (WuEnt.of t)
/-- The key under which a core's wide-unit instruction claims lines (R213). -/
def wideOwner (n t : Nat) : Nat := 16 + coreIx n t
/-- Takes the thread's wide-unit instructions out of its core's queue, with the claims of a started one. -/
def State.dropWide (s : State) (n t : Nat) : State :=
  let started := (s.core n t).wuq.any fun e => e.of t && decide (e.st = .started)
  (if started then s.unclaim n (wideOwner n t) else s).modCore n t fun c => { c with wuq := c.wuq.filter fun e => !e.of t }
/-- The bytes of a void sheaf of LEN units (R183, R189). -/
def voidSheaf (len : Nat) : List Byte :=
  List.replicate (32 * len - 32) 0#8 ++ natBytes 4 (2 ^ 15 + len) ++ List.replicate 28 0#8
/-- Writes an entry's reserved sheaf as void, for the run of a thread or for none. -/
def State.voidSheafOf (s : State) (n : Nat) (who : Option Nat) (e : WuEnt) : State :=
  match e.sheaf with
  | some (o, len) => s.bankWrites who (nodeBase n + o) (voidSheaf len) (len + 1)
  | none => s
/-- An entry that R147 holds or has found faulty: it, and the thread's entries behind it, do not start. -/
def WuEnt.stuck (e : WuEnt) : Bool :=
  match e.st with
  | .faulted .. | .held => true
  | _ => false
/-- ABANDON's part of the queue: held instructions and those behind them are discarded, and their sheaves are void (R189, R380);
the others go on without a thread. -/
def State.orphanWide (s : State) (n t : Nat) : State :=
  let mine := (s.core n t).wuq.filter (WuEnt.of t)
  let gone := mine.dropWhile fun e => !e.stuck
  let s := gone.foldl (fun s e => s.voidSheafOf n none e) s
  (s.modCore n t fun c =>
    { c with wuq := (c.wuq.filter fun e => !(e.of t && gone.contains e)).map fun e => if e.of t then { e with orphan := true } else e }).busy n

/-! ### Ends of a run -/

/-- Frees a landing slot (R274). -/
def Sched.freeLanding (c : Sched) (l : Option Nat) : Sched :=
  match l with
  | none => c
  | some k => { c with landing := c.landing.filter fun j => j ≠ k }
/-- The thread is free, or parked where its THR_PARK bit is set or HALT sets it (R343). -/
def State.freeThread (s : State) (n t : Nat) (halt : Bool) : State :=
  let s := if halt then s.modSched n fun c => { c with park := c.park ||| (1#16 <<< t) } else s
  s.modThread n t fun th => th.release s.fab ((s.cell n).sched.park.getLsbD t)

/-- The bytes of an undo entry whose mask bit is set, written back at the bank (R369). -/
def State.undoBytes (s : State) (line : Nat) (mask : BitVec 64) : List (Byte × Nat) → State
  | [] => s
  | (b, k) :: bs => State.undoBytes (if mask.getLsbD k then s.bankWrite none (line + k) [b] else s) line mask bs
def State.undoLines (s : State) : List Undo → State
  | [] => s
  | u :: us => State.undoLines (s.undoBytes u.line u.mask u.bytes.zipIdx) us

/-- The run can be rolled back by the device (R366). -/
def State.mayRetry (s : State) (n t : Nat) : Bool :=
  let th := s.thread n t
  th.run.restart && decide ((th.run.desc.elim 0 Desc.rollbacks) < bitsOf (s.cell n).err.ctl.toNat 0 3)

/-- Rollback and redelivery (R369), once the undo may be written: the outbox is dropped, the undo restores LM, the reservations are freed,
the descriptor waits in the thread as fired. -/
def State.rollback (s : State) (n t : Nat) : State :=
  let th := s.thread n t
  let s := (s.dropWide n t).dropOutbox n t
  let s := s.undoLines th.run.undo
  let s := s.modErr n fun e => { e with rollback := sat16 e.rollback 1 }
  let s := s.modSched n fun c =>
    match th.run.desc with
    | some d => c.fire { d with rollbacks := d.rollbacks + 1 } (.thread t)
    | none => c
  s.modThread n t fun th => th.release s.fab false

/-- The lines that a run's undo would write. -/
def Thread.undoLines (th : Thread) : List Nat :=
  ((th.run.undo.filter fun u => u.mask ≠ 0).map Undo.line).mergeSort fun a b => decide (a ≤ b)
/-- A rollback whose undo writes wait, as every write does, for the sharers of their lines (R213, R369); and whether it is done. -/
def State.rollBack (s : State) (n t : Nat) : State × Bool :=
  match s.claimLines n t (s.thread n t).undoLines with
  | (s, true) => ((s.unclaim n t).rollback n t, true)
  | (s, false) => (s, false)
/-- REDELIVER goes on (R380). -/
def State.redeliver (s : State) (n t : Nat) : State := if (s.thread n t).run.rolling then (s.rollBack n t).1 else s

/-- The freeze of an EFENCE or an END that a pending error stops (R366): imprecise, at the earliest failing address. -/
def State.freezeError (s : State) (n t : Nat) (e : PendErr) : State :=
  { s with blocked := false }.takeTrap n t 0x50 true false (vaOf (s.thread n t).pc) e.addr e.src

/-- Steps 3 to 5 of END (R267); HALT parks (R343). -/
def State.leave (s : State) (n t : Nat) : State :=
  let th := s.thread n t
  let s := s.modThread n t fun th => th.modRun fun r => { r with leaving := true, undo := [] }
  match s.releaseAll n t with
  | (s, .full) => s
  | (s, .fault f) =>
    let s := s.modThread n t fun th => th.modRun fun r => { r with leaving := false }
    { s with blocked := false }.takeTrap n t f.cause false false (vaOf th.pc) f.addr f.detail
  | (s, .all) =>
    { (s.modSched n fun c => c.freeLanding (th.run.desc.bind Desc.landing)).freeThread n t th.run.halting with blocked := false }
/-- END's steps (R267): step 1 waits until every full/empty bit is full and the thread's wide-unit work is complete, step 2 makes the
check of R228, which drops the outbox where it finds an error and is not made again once step 3 has begun. -/
def State.endRun (s : State) (n t : Nat) : State :=
  let th := s.thread n t
  if th.run.leaving then s.leave n t
  else if !th.allFull || !s.wuIdle n t then s
  else
    match th.run.pendErr with
    | some e =>
      if s.mayRetry n t then
        match s.rollBack n t with
        | (s, true) => { s with blocked := false }
        | (s, false) => s
      else (s.dropOutbox n t).freezeError n t e
    | none => s.leave n t

/-- ABANDON (R380): the outbox is dropped, reservations, the landing slot and held instructions go, the task has ended, LM stays. -/
def State.abandon (s : State) (n t : Nat) : State :=
  let th := s.thread n t
  let s := (s.orphanWide n t).dropOutbox n t
  (s.modSched n fun c => c.freeLanding (th.run.desc.bind Desc.landing)).freeThread n t false

/-- RUN_END (R267): a thread that has issued END or HALT ends its run. -/
def execRunEnd (node : Nat) (thr : Nat) (s : State) : Out :=
  let th := s.thread node thr
  if th.run.st = .running ∧ (th.run.ending ∨ th.run.halting) then .next (s.endRun node thr) else .next s

end Sys2Proof.Machine
end

