-- ==== Sys2Proof/Machine/WideOps.lean ====
section
/-! DEFINITION. Wide-unit instructions as they are captured: element types, tiles, pairs, streams (R142, R150 to R165), the checks of
an enqueue (R141), and the sheaf that a recorded instruction reserves (R178 to R188). -/

namespace Sys2Proof.Machine

/-! ### Element types (R88, R165, R174) -/

/-- Bits of an element: 0 binary32, 1 bfloat16, 2 binary16, 3 int32, 4 int16, 5 int8, 6 Code8, 7 Code4, 8 A48 as LM holds it. -/
def elBits (t : Nat) : Nat :=
  match t with
  | 0 | 3 => 32
  | 1 | 2 | 4 => 16
  | 5 | 6 => 8
  | 7 => 4
  | _ => 64
/-- Bytes of a stream element; one of Code4 holds two codes. -/
def elWidth (t : Nat) : Nat := (elBits t + 7) / 8
def floatTy (t : Nat) : Bool := decide (t < 3)
def elFmt (t : Nat) : Fmt :=
  match t with
  | 0 => binary32
  | 1 => bfloat16
  | 2 => binary16
  | _ => a48
/-- Elements of a vector (R165). -/
def vecLen (t : Nat) : Nat := 256 / elWidth t

/-! ### Tiles (R150) -/

def tileRows (c : Word) : Nat := bitsOf c.toNat 0 10 + 1
def tileCols (c : Word) : Nat := bitsOf c.toNat 10 10 + 1
def tileEtype (c : Word) : Nat := bitsOf c.toNat 20 4
def tilePair (c : Word) : Nat := bitsOf c.toNat 24 4
def tileScl (c : Word) : Bool := c.getLsbD 32
def tileCount (c : Word) : Nat := tileRows c * tileCols c
/-- ETYPE as an element type. -/
def tileTy (c : Word) : Nat :=
  match tileEtype c with
  | 0 => 8
  | 1 => 0
  | 2 => 1
  | 3 => 2
  | _ => 3
/-- Bytes of an element in LM, and bits of one in the tile. -/
def tileWidth (c : Word) : Nat := elWidth (tileTy c)
def tileBits (c : Word) : Nat := if tileEtype c = 0 then 48 else elBits (tileTy c)
/-- A 16 × 16 A48 tile. -/
def isAcc (c : Word) : Bool := tileRows c == 16 && tileCols c == 16 && tileEtype c == 0
/-- Shape and ETYPE agree (R151, R409). -/
def sameShape (c d : Word) : Bool := c.extractLsb' 0 24 == d.extractLsb' 0 24

/-- A TCFG operand within its limits (R150). -/
def tcfgOk (v : Word) : Bool :=
  let p := tilePair v
  let coded := decide (1 ≤ p) && decide (p ≤ 3)
  decide (v.extractLsb' 33 31 = 0) && decide (p ≤ 6) && decide (tileEtype v ≤ 4) && decide (tileCount v ≤ 1024)
    && (p == 0 || isAcc v) && (coded || !tileScl v) && (coded || decide (v.extractLsb' 28 4 = 0))

/-! ### Pairs (R157) -/

/-- Element types of A and B and the dense K. -/
structure Pair where
  a : Nat
  b : Nat
  k : Nat
deriving DecidableEq, Repr, Inhabited
def pairOf (code : Nat) : Pair :=
  match code with
  | 1 => { a := 6, b := 6, k := 32 }
  | 2 => { a := 7, b := 7, k := 64 }
  | 3 => { a := 6, b := 7, k := 32 }
  | 4 => { a := 1, b := 1, k := 16 }
  | 5 => { a := 2, b := 2, k := 16 }
  | _ => { a := 0, b := 0, k := 4 }
def pairCoded (code : Nat) : Bool := decide (1 ≤ code) && decide (code ≤ 3)

def WuKind.isMma : WuKind → Bool
  | .mma | .mmas | .mmao | .mmad | .mmasd | .mmaod => true
  | _ => false
def WuKind.sparse : WuKind → Bool
  | .mmas | .mmasd => true
  | _ => false
def WuKind.outlier : WuKind → Bool
  | .mmao | .mmaod => true
  | _ => false

/-- Fields of the second word of a matrix form (R161). -/
def mmaSq (w : BitVec 32) : Nat := bitsOf w.toNat 0 3
def mmaScl (w : BitVec 32) : Bool := w.getLsbD 3
def mmaDta (w : BitVec 32) : Nat := bitsOf w.toNat 4 2
def mmaDtb (w : BitVec 32) : Nat := bitsOf w.toNat 6 2
def mmaZero (w : BitVec 32) : Bool := w.getLsbD 8
/-- The second word that a tile's configuration implies for a short form. -/
def impliedWord (cfg : Word) (sq : Nat) : BitVec 32 :=
  BitVec.ofNat 32 (sq % 8 + 8 * bit (tileScl cfg) + 16 * bitsOf cfg.toNat 28 4)

/-- K of a matrix form, and its groups of 24 in a sparse panel (R157, R163). -/
def WuOp.depth (op : WuOp) : Nat := (pairOf op.fn).k * (if op.kind.sparse then 6 else 1)
def sparseN (xs : Word) : Nat :=
  match bitsOf xs.toNat 20 2 with
  | 0 => 6
  | 1 => 8
  | _ => 12
def WuOp.groups (op : WuOp) : Nat := op.depth / 24
/-- Bytes of the B panel (R157, R163, R186). -/
def WuOp.panelBytes (op : WuOp) (xs : Word) : Nat :=
  let eb := elBits (pairOf op.fn).b
  if op.kind.sparse then 64 * op.groups + (16 * op.groups * sparseN xs * eb + 7) / 8 else 16 * op.depth * eb / 8
/-- The weight-buffer offset in xs2[18:6] (R155, R159). -/
def wbOffset (xs : Word) : Nat := bitsOf xs.toNat 6 13 * 64
/-- Lines that WLD moves. -/
def wldLines (xs : Word) : Nat := bitsOf xs.toNat 32 13 + 1

/-! ### VCVTD's second word (R174) -/

def cvtS (w : BitVec 32) : Nat := bitsOf w.toNat 0 4
def cvtD (w : BitVec 32) : Nat := bitsOf w.toNat 4 4
def cvtTab (w : BitVec 32) : Nat := bitsOf w.toNat 8 2
def cvtTile (w : BitVec 32) : Bool := w.getLsbD 10
def cvtCount (w : BitVec 32) : Nat := bitsOf w.toNat 11 10 + 1
/-- A pair of types that VCVTD converts between. -/
def cvtPair (src dst : Nat) : Bool :=
  decide (src ≠ dst) &&
    (if src < 3 then decide (dst < 8)
      else if src < 8 then decide (dst < 3)
      else src == 8 && (decide (dst < 3) || dst == 6 || dst == 7))

/-! ### Streams (R28, R142) -/

/-- The LM offset of a stream's element. -/
def Stream.at_ (st : Stream) (i : Nat) : Nat := (st.addr + BitVec.ofInt 22 (i * st.stride.toInt)).toNat
/-- The stream that a q register starts. -/
def streamOf (w : Word) : Stream := { addr := w.setWidth 22, stride := w.extractLsb' 32 16 }

/-- One LM operand of an instruction: its ROLE (R184), stream, count, element length and alignment, and the q register that it
advances. -/
structure Use where
  role  : Nat
  st    : Stream
  count : Nat
  len   : Nat
  align : Nat := 1
  write : Bool := false
  q     : Option Nat := none
deriving DecidableEq, Repr, Inhabited

/-- The tile that an instruction names (R409). -/
def WuOp.tile (op : WuOp) : Option Nat :=
  match op.kind with
  | .tcfg | .tzero | .tld | .tldd | .mma | .mmas | .mmao | .mmad | .mmasd | .mmaod => some op.d
  | .tst | .tstd => some op.a
  | .vcvtd => if cvtTile op.w2 then some op.a else none
  | _ => none

/-- The block of a tile that a move names: first row, rows, first column, columns (R153, R154). -/
def WuEnt.block (e : WuEnt) : Nat × Nat × Nat × Nat :=
  match e.op.kind with
  | .tldd | .tstd =>
    let w := e.op.w2.toNat
    (bitsOf w 0 10, bitsOf w 10 10 + 1, bitsOf w 20 10, bitsOf e.xs.toNat 0 10 + 1)
  | _ => (0, tileRows e.cfg, 0, tileCols e.cfg)

/-- Elements that VCVTD converts. -/
def WuEnt.cvtLen (e : WuEnt) : Nat := if cvtTile e.op.w2 then tileCount e.cfg else cvtCount e.op.w2

/-- A vector operand of n elements. -/
def vecUse (role : Nat) (st : Stream) (t n : Nat) (q : Nat) : Use :=
  { role := role, st := st, count := if t = 7 then n / 2 else n, len := elWidth t, align := elWidth t, write := role == 0, q := some q }

/-- The LM operands of an instruction, the destination first. -/
def WuEnt.uses (e : WuEnt) : List Use :=
  let op := e.op
  let vec := fun t : Nat => vecUse 0 e.sd t (vecLen t) op.d
  let src := fun t : Nat => vecUse 1 e.s1 t (vecLen t) op.a
  match op.kind with
  | .tcfg | .tzero => []
  | .tld | .tldd =>
    let b := e.block
    [{ role := 1, st := e.s1, count := b.2.1, len := b.2.2.2 * tileWidth e.cfg, align := tileWidth e.cfg, q := some op.a }]
  | .tst | .tstd =>
    let b := e.block
    [{ role := 0, st := e.sd, count := b.2.1, len := b.2.2.2 * tileWidth e.cfg, align := tileWidth e.cfg, write := true, q := some op.d }]
  | .wld => [{ role := 1, st := e.s1, count := wldLines e.xs, len := 64, align := 64, q := some op.a }]
  | .dtld => [{ role := 1, st := e.s1, count := 1, len := 1028, align := 4 }]
  | .mma | .mmas | .mmao | .mmad | .mmasd | .mmaod =>
    let p := pairOf op.fn
    [{ role := 1, st := e.s1, count := 16, len := op.depth * elBits p.a / 8, align := elWidth p.a, q := some op.a }]
      ++ (if mmaScl op.w2 then [{ role := 4, st := e.s3, count := op.depth, len := 4, align := 4, q := some (mmaSq op.w2) }] else [])
      ++ (if op.kind.outlier then [{ role := 5, st := { addr := e.xs.extractLsb' 32 22 }, count := 1, len := 520, align := 8 }] else [])
  | .vadd | .vsub | .vmul | .vmax | .vmin => [vec op.fn, src op.fn, vecUse 2 e.s2 op.fn (vecLen op.fn) op.b]
  | .vfma => [vec 0, src 0, vecUse 2 e.s2 0 64 op.b, vecUse 3 e.s3 0 64 op.e]
  | .vexp2 | .vlog2 | .vrcp | .vrsq | .vtanh | .vxpose | .vscale => [vec op.fn, src op.fn]
  | .vrsum | .vrmax => [src op.fn]
  | .vcvt => [vecUse 0 e.sd op.fn 64 op.d, vecUse 1 e.s1 0 64 op.a]
  | .vbcast => [vec op.fn]
  | .vcvtd =>
    let n := e.cvtLen
    [vecUse 0 e.sd (cvtD op.w2) n op.d]
      ++ (if cvtTile op.w2 then [] else [vecUse 1 e.s1 (cvtS op.w2) n op.a])
      ++ (if 6 ≤ cvtD op.w2 then [{ role := 5, st := { addr := e.xs.setWidth 22 }, count := 1, len := 520, align := 8, write := true }] else [])

def WuEnt.use (e : WuEnt) (role : Nat) : Option Use := e.uses.find? fun u => u.role = role

/-! ### The checks of an enqueue (R141) -/

/-- Bytes that an instruction reads or writes. -/
structure Range where
  o     : Word
  len   : Nat
  align : Nat
  write : Bool
deriving DecidableEq, Repr, Inhabited

def Use.ranges (u : Use) : List Range :=
  (List.range u.count).map fun i => { o := BitVec.ofNat 64 (u.st.at_ i), len := u.len, align := u.align, write := u.write }
/-- DTLD's offset has 64 bits (R156). -/
def WuEnt.ranges (e : WuEnt) : List Range :=
  if e.op.kind = .dtld then [{ o := e.xs, len := 1028, align := 4, write := false }] else e.uses.flatMap Use.ranges

def Range.fail (r : Range) (c : BitVec 8) : Fail := { cause := c, addr := r.o, detail := accDetail (bit r.write) }
/-- Check 2, check 3 and the LM part of check 4, each over every element. -/
def rangeFail (n : Nat) (rs : List Range) : Option Fail :=
  (rs.find? fun r => decide (nodeLimit n < r.o.toNat + r.len)).map fun r => r.fail 0x25
def alignFail (rs : List Range) : Option Fail :=
  (rs.find? fun r => decide (r.o.toNat % r.align ≠ 0)).map fun r => r.fail 0x24
def grantFail (g : Word) (slot : BitVec 2) (rs : List Range) : Option Fail :=
  (rs.find? fun r => !inGrant g slot r.o.toNat r.len).map fun r => r.fail 0x40

/-- The slot's grant holds a tile, a decode table, a run of weight-buffer lines (R332). -/
def grantsTile (g : Word) (k : Nat) : Bool := g.getLsbD (56 + k)
def grantsTab (g : Word) (k : Nat) : Bool := g.getLsbD (52 + k)
def grantsLines (g : Word) (first n : Nat) : Bool :=
  let base := bitsOf g.toNat 45 7
  let len := bitsOf g.toNat 37 8
  (List.range ((first % 64 + n + 63) / 64)).all fun k => decide ((first / 64 + k + 128 - base) % 128 < len)

/-- Decode tables that an instruction reads or writes. -/
def WuOp.tabs (op : WuOp) : List Nat :=
  match op.kind with
  | .dtld => [op.d]
  | .vcvtd => if 6 ≤ cvtS op.w2 ∧ cvtS op.w2 < 8 ∨ 6 ≤ cvtD op.w2 then [cvtTab op.w2] else []
  | k =>
    if k.isMma then
      (if 6 ≤ (pairOf op.fn).a then [mmaDta op.w2] else []) ++ (if 6 ≤ (pairOf op.fn).b then [mmaDtb op.w2] else [])
    else []
/-- Weight-buffer lines that it reads or writes: the first and their number. -/
def WuEnt.lines (e : WuEnt) : Option (Nat × Nat) :=
  if e.op.kind = .wld then some (wbOffset e.xs / 64, wldLines e.xs)
  else if e.op.kind.isMma then some (wbOffset e.xs / 64, (e.op.panelBytes e.xs + 63) / 64)
  else none

/-- Check 4 on tiles, tables and lines. -/
def WuEnt.unitFail (e : WuEnt) (g : Word) : Option Fail :=
  if e.op.tile.all (grantsTile g) && e.op.tabs.all (grantsTab g) && e.lines.all (fun p => grantsLines g p.1 p.2) then none
  else some { cause := 0x40 }

/-- Slot k of a slot table: whether it is assigned, and to whom (R148). -/
def slotV (w : Word) (k : Nat) : Bool := w.getLsbD (4 * k + 3)
def slotCtxOf (w : Word) (k : Nat) : Nat := bitsOf w.toNat (4 * k) 2
/-- Check 5 on the table in force. -/
def slotFail (w : Word) (slot : BitVec 2) : Option Fail :=
  if (List.range 16).any fun k => !slotV w k || slotCtxOf w k == slot.toNat then none else some { cause := 0x41 }

/-! ### Sheaves (R180 to R188) -/

/-- MAJOR, and whether it is a long one (R183). -/
def WuKind.major : WuKind → Nat × Bool
  | .tcfg => (0x20, false) | .tzero => (0x21, false) | .tld => (0x22, false) | .tst => (0x23, false) | .wld => (0x25, false)
  | .mma => (0x26, false) | .mmas => (0x27, false) | .mmao => (0x28, false) | .vadd => (0x29, false) | .vsub => (0x2A, false)
  | .vmul => (0x2B, false) | .vfma => (0x2C, false) | .vmax => (0x2D, false) | .vmin => (0x2E, false) | .vexp2 => (0x2F, false)
  | .vlog2 => (0x30, false) | .vrcp => (0x31, false) | .vrsq => (0x32, false) | .vtanh => (0x33, false) | .vrsum => (0x34, false)
  | .vrmax => (0x35, false) | .vcvt => (0x36, false) | .vxpose => (0x37, false) | .vbcast => (0x38, false) | .vscale => (0x39, false)
  | .tldd => (0x10, true) | .tstd => (0x11, true) | .mmad => (0x12, true) | .mmasd => (0x13, true) | .mmaod => (0x14, true)
  | .vcvtd => (0x15, true) | .dtld => (0x16, true)

/-- A recorded instruction appends a sheaf (R180). -/
def WuOp.records (op : WuOp) : Bool :=
  match op.kind with
  | .dtld | .vbcast => false
  | .vadd | .vsub | .vmul | .vmax | .vmin | .vexp2 | .vlog2 | .vrcp | .vrsq | .vtanh | .vrsum | .vrmax | .vcvt | .vxpose | .vscale =>
    floatTy op.fn
  | .vcvtd => (floatTy (cvtS op.w2) || cvtS op.w2 == 8) && floatTy (cvtD op.w2)
  | _ => true

/-- The entries of R185: ROLE, KIND, and whether REC_POL gives the flag. -/
def WuOp.entSpec (op : WuOp) : List (Nat × Nat × Bool) :=
  match op.kind with
  | .tcfg | .tzero => [(0, 1, false)]
  | .tld | .tldd => [(0, 1, false), (1, 0, false)]
  | .tst | .tstd => [(0, 0, false), (1, 1, false)]
  | .wld => [(0, 2, false), (1, 0, false)]
  | .mma | .mmas | .mmao | .mmad | .mmasd | .mmaod =>
    [(0, 1, false), (1, 0, true), (2, 2, true)] ++ (if mmaScl op.w2 then [(4, 0, true)] else [])
      ++ (if op.kind.outlier then [(5, 0, true)] else [])
  | .vadd | .vsub | .vmax | .vmin => [(0, 0, false), (1, 0, false), (2, 0, false)]
  | .vmul => [(0, 0, false), (1, 0, true), (2, 0, true)]
  | .vfma => [(0, 0, false), (1, 0, true), (2, 0, true), (3, 0, false)]
  | .vexp2 | .vrcp | .vrsq | .vtanh => [(0, 0, true), (1, 0, false)]
  | .vlog2 => [(0, 0, false), (1, 0, true)]
  | .vrsum | .vrmax => [(0, 3, false), (1, 0, false)]
  | .vcvtd => [(0, 0, false), (1, if cvtTile op.w2 then 1 else 0, false)]
  | .vcvt | .vxpose | .vscale => [(0, 0, false), (1, 0, false)]
  | .vbcast | .dtld => []

/-- REC_POL's flag for a KIND (R179). -/
def polFlag (pol : BitVec 6) (kind : Nat) : Nat :=
  match kind with
  | 0 => bitsOf pol.toNat 0 2
  | 1 => bitsOf pol.toNat 2 2
  | _ => bitsOf pol.toNat 4 2

/-- The producer of a source in the window (R188). -/
def producer (ps : List Prod) (u : Use) : Option Prod :=
  match ps.reverse.find? fun p => decide (p.addr = u.st.addr) && decide (p.stride = u.st.stride) && decide (p.count = u.count)
    && decide (p.width = u.len) with
  | some p => if p.depth ≤ 2 then some p else none
  | none => none

/-- ADDR and STRIDE of an entry (R184). -/
def WuEnt.place (e : WuEnt) (role kind : Nat) : BitVec 22 × BitVec 16 :=
  match kind with
  | 0 => ((e.use role).elim 0 fun u => u.st.addr, (e.use role).elim 0 fun u => u.st.stride)
  | 1 => (BitVec.ofNat 22 (if role = 0 then e.op.d else e.op.a), 0)
  | 2 => (BitVec.ofNat 22 (wbOffset e.xs), 0)
  | _ => (BitVec.ofNat 22 e.op.d, 0)

/-- One entry, and the depth of its producer where it is replayed. -/
def WuEnt.entOf (e : WuEnt) (pol : BitVec 6) (ps : List Prod) (p : Nat × Nat × Bool) : SEnt × Nat :=
  let (role, kind, v) := p
  let pl := e.place role kind
  let mk := fun (f : Nat) (prod : BitVec 17) =>
    ({ flag := BitVec.ofNat 2 f, kind := BitVec.ofNat 2 kind, role := BitVec.ofNat 4 role, stride := pl.2, prod := prod, addr := pl.1 } : SEnt)
  if !v then (mk 3 0, 0)
  else if polFlag pol kind ≠ 2 then (mk (polFlag pol kind) 0, 0)
  else if role = 0 ∨ kind ≠ 0 then (mk 0 0, 0)
  else
    match (e.use role).bind (producer ps) with
    | some q => (mk 2 q.hdr, q.depth)
    | none => (mk 0 0, 0)

/-- Bytes of an operand's values (R186). -/
def WuEnt.valueLen (e : WuEnt) (x : SEnt) : Nat :=
  if x.kind = 2 then e.op.panelBytes e.xs else (e.use x.role.toNat).elim 0 fun u => u.count * u.len
/-- Bytes of the extra item (R185). -/
def WuOp.extraLen (op : WuOp) : Nat :=
  match op.kind with
  | .vmax | .vmin => vecLen op.fn / 8
  | .vrmax => 4
  | _ => 0
def upTo (k n : Nat) : Nat := (n + k - 1) / k * k
/-- Where each saved value starts in the body, and where the extra item starts (R186). -/
def WuEnt.layout (e : WuEnt) : List (SEnt × Nat) × Nat :=
  e.ents.foldl (fun a x => if x.flag = 0 then (a.1 ++ [(x, upTo 8 a.2)], upTo 8 a.2 + e.valueLen x) else a) ([], 8 * e.ents.length)
def WuEnt.extraAt (e : WuEnt) : Nat := upTo 8 e.layout.2
/-- LEN (R186). -/
def WuEnt.sheafLen (e : WuEnt) : Nat :=
  let body := if e.op.extraLen = 0 then e.layout.2 else e.extraAt + e.op.extraLen
  (upTo 32 body + 32) / 32

/-- The instruction enters its destination into the producer window (R188). -/
def WuOp.produces (op : WuOp) : Bool :=
  match op.kind with
  | .vadd | .vsub | .vmul | .vfma | .vmax | .vmin | .vexp2 | .vlog2 | .vrcp | .vrsq | .vtanh | .vcvt | .vxpose | .vscale => true
  | .vcvtd => !cvtTile op.w2
  | _ => false

/-- The XOR of a byte string's 32-bit words, the last padded with zeros (R182). -/
def foldBytes : List Byte → BitVec 32
  | a :: b :: c :: d :: rest => (d ++ c ++ b ++ a) ^^^ foldBytes rest
  | l => BitVec.ofNat 32 (leNat l)

def SEnt.word (x : SEnt) : Word := x.flag ++ x.kind ++ x.role ++ x.stride ++ x.prod ++ 0#1 ++ x.addr
/-- XS of a header (R182). -/
def WuEnt.sheafXs (e : WuEnt) : Word :=
  match e.op.kind with
  | .mma | .mmas | .mmao | .mmad | .mmasd | .mmaod | .wld | .tldd | .tstd | .vcvtd => e.xs
  | .vscale => (e.xs.setWidth 32).setWidth 64
  | _ => 0
/-- INSN (R183). -/
def WuEnt.insn (e : WuEnt) (clr : Bool) (len : Nat) : Nat :=
  let m := e.op.kind.major
  len + e.ents.length * 2 ^ 16 + bit clr * 2 ^ 19 + e.op.fn * 2 ^ 20 + bit m.2 * 2 ^ 25 + m.1 * 2 ^ 26

/-- A list padded with zero bytes to a length. -/
def padTo (n : Nat) (l : List Byte) : List Byte := l ++ List.replicate (n - l.length) 0#8
/-- The sheaf's bytes (R182 to R186) from the operands' bytes by ROLE. -/
def WuEnt.sheafBytes (e : WuEnt) (len : Nat) (clr : Bool) (vals : List (Nat × List Byte)) (extra : List Byte) : List Byte :=
  let val := fun x : SEnt => assocGet [] vals x.role.toNat
  let body := (e.ents.filter fun x => x.flag = 0).foldl (fun b x => padTo (upTo 8 b.length) b ++ val x)
    (e.ents.flatMap fun x => natBytes 8 x.word.toNat)
  let body := if e.op.extraLen = 0 then body else padTo (upTo 8 body.length) body ++ extra
  let fold := (e.ents.filter fun x => x.flag = 1).foldl (fun a x => a ^^^ foldBytes (val x)) 0#32
  padTo (32 * len - 32) body ++ natBytes 4 (e.insn clr len) ++ natBytes 4 e.op.w2.toNat ++ natBytes 8 e.sheafXs.toNat
    ++ natBytes 4 (e.rm.toNat + 8 * e.sat.toNat) ++ natBytes 4 fold.toNat ++ natBytes 8 e.seed.toNat

/-! ### The granary's registers (R178, R181) -/

def failGran (code len : Nat) : Fail := { cause := 0x13, detail := BitVec.ofNat 32 (code + 4 * len) }
/-- The inequalities of R178. -/
def Ctrl.granOk (c : Ctrl) : Bool :=
  decide (c.granBase.toNat ≤ c.granHead.toNat) && decide (c.granHead.toNat ≤ c.granLimit.toNat)
    && decide (32 * c.granLimit.toNat ≤ 0x300000)
/-- Check 6. -/
def Ctrl.granFail (c : Ctrl) (len : Nat) : Option Fail :=
  if !c.granOk then some (failGran 1 0)
  else if c.granLimit.toNat < c.granHead.toNat + len then some (failGran 0 len)
  else none

/-! ### Enqueue (R140 to R142) -/

/-- The rounding set (R76). -/
def WuOp.rounds (op : WuOp) : Bool :=
  match op.kind with
  | .vadd | .vsub | .vmul | .vexp2 | .vlog2 | .vrcp | .vrsq | .vtanh | .vrsum | .vscale => floatTy op.fn
  | .vfma | .vcvt | .vcvtd => true
  | .vbcast => op.fn == 1 || op.fn == 2
  | _ => false

/-- The captured entry of an instruction, before its recording. -/
def Args.entry (A : Args) (s : State) (op : WuOp) (xs : Word) : WuEnt :=
  let th := A.th s
  let q := fun (fl : File) (r : Nat) => if fl = .q then streamOf (th.reg .q r) else {}
  { op := op, thr := A.t, ctx := A.ctx s, slot := A.slot s, pc := A.pc, rep := A.ctl.rep.any fun p => repCount p ≠ 0
    rm := A.ctl.rmOr (fcsrWrm th.ctrl.fcsr), sat := A.ctl.satMode, xs := xs
    sd := q A.fd A.d, s1 := q A.fa A.a, s2 := q A.fb A.b
    s3 := if op.kind.isMma then q .q (mmaSq op.w2) else q A.fe A.e
    cfg := op.tile.elim 0 fun k => (vget (s.cell A.n).wide.tiles k).cfg }

/-- Advances the q registers by every element of every operand that names them. -/
def advanceUses (us : List Use) (th : Thread) : Thread :=
  us.foldl (fun th u => match u.q with
    | some r => (List.range u.count).foldl (fun th _ => th.setReg .q r (qStep (th.reg .q r))) th
    | none => th) th

/-- The granary and the producer window after a sheaf's reservation (R180, R188). -/
def Thread.reserve (th : Thread) (e : WuEnt) (len depth : Nat) : Thread :=
  let hdr := th.ctrl.granHead + BitVec.ofNat 17 (len - 1)
  let th := th.modCtrl fun c => { c with granHead := c.granHead + BitVec.ofNat 17 len }
  match e.op.produces, e.use 0 with
  | true, some u =>
    let p : Prod := { hdr := hdr, addr := u.st.addr, stride := u.st.stride, count := u.count, width := u.len, depth := depth + 1 }
    { th with prods := (th.prods ++ [p]).drop (th.prods.length - 7) }
  | _, _ => th

/-- The core's queue holds 16 instructions that have not started. -/
def Core.wuFull (c : Core) : Bool := decide (16 ≤ (c.wuq.filter fun e => e.st = .queued).length)

/-- Captures an instruction: the SRS step, the q pointers, the empty destination, the queue (R142). -/
def State.capture (s : State) (A : Args) (e : WuEnt) : State :=
  let th := A.th s
  let srs := (srStep th.ctrl.srs).1
  let e := if e.op.rounds then { e with seed := srs } else e
  let s := s.modThread A.n A.t fun th =>
    let th := if e.op.rounds then th.modCtrl fun c => { c with srs := srs } else th
    let th := advanceUses e.uses th
    if e.op.kind = .vrsum ∨ e.op.kind = .vrmax then th.setFull A.fd A.d false else th
  s.modCore A.n A.t fun c => { c with wuq := c.wuq ++ [e] }

/-- The instruction records a sheaf (R178, R180). -/
def Args.records (A : Args) (s : State) (e : WuEnt) : Bool := (A.th s).ctrl.recd && e.op.records
/-- Its sheaf's operand entries, each with the depth of its producers (R184, R188). -/
def Args.sheafEnts (A : Args) (s : State) (e : WuEnt) : List (SEnt × Nat) :=
  if A.records s e then e.op.entSpec.map (e.entOf (A.th s).ctrl.recPol (A.th s).prods) else []
/-- The instruction with the entries of its sheaf. -/
def Args.recorded (A : Args) (s : State) (e : WuEnt) : WuEnt := { e with ents := (A.sheafEnts s e).map Prod.fst }
/-- The LM offset of the sheaf that comes next. -/
def Args.sheafStart (A : Args) (s : State) : Nat := 32 * (A.th s).ctrl.granHead.toNat
/-- The ranges of LM that the instruction touches, its sheaf among them. -/
def Args.touches (A : Args) (s : State) (e : WuEnt) : List Range :=
  let own : Range := { o := BitVec.ofNat 64 (A.sheafStart s), len := 32 * e.sheafLen, align := 32, write := true }
  e.ranges ++ if A.records s e then [own] else []
/-- The checks of R141 in their order on an instruction with its entries; `bad` is check 1. -/
def enqueueFail (bad : Bool) (A : Args) (s : State) (e : WuEnt) : Option Fail :=
  let g := s.grant A.n (A.slot s)
  let rs := A.touches s e
  firstFail (illegalIf (bad || (A.records s e && decide (1023 < e.sheafLen))))
    (firstFail (rangeFail A.n rs) (firstFail (alignFail rs) (firstFail (grantFail g (A.slot s) rs) (firstFail (e.unitFail g)
      (firstFail (slotFail (s.cell A.n).wide.inForce (A.slot s)) (if A.records s e then (A.th s).ctrl.granFail e.sheafLen else none))))))
/-- Captures an instruction, and reserves its sheaf where it records one. -/
def State.enqueue (s : State) (A : Args) (e : WuEnt) : State :=
  if A.records s e then
    (s.capture A { A.recorded s e with sheaf := some (A.sheafStart s, (A.recorded s e).sheafLen) }).modThread A.n A.t fun th =>
      th.reserve (A.recorded s e) (A.recorded s e).sheafLen (((A.sheafEnts s e).map Prod.snd).foldl max 0)
  else s.capture A (A.recorded s e)
/-- The effect of issuing a wide-unit instruction: the checks of R141, the wait for a place, the capture. `bad` is check 1. -/
def enqueueBody (mk : Args → State → WuEnt) (bad : WuEnt → Bool) (A : Args) (s : State) : Res :=
  let e := A.recorded s (mk A s)
  Res.unless (enqueueFail (bad e) A s e) (if (s.core A.n A.t).wuFull then .wait s else .done (s.enqueue A (mk A s)))

/-! ### Reading operands at the start (R143, R365) -/

/-- The bytes of an LM operand, element after element; a poisoned line is consumed. -/
def State.readElems (s : State) (n : Nat) (st : Stream) (len : Nat) : List Nat → Except Fail (List Byte)
  | [] => .ok []
  | i :: is =>
    let o := st.at_ i
    if s.poisonedIn (nodeBase n + o) len then .error { cause := 0x50, addr := BitVec.ofNat 64 o }
    else
      match State.readElems s n st len is with
      | .ok bs => .ok (s.bytes (nodeBase n + o) len ++ bs)
      | .error f => .error f
def State.readUse (s : State) (n : Nat) (u : Use) : Except Fail (List Byte) := s.readElems n u.st u.len (List.range u.count)

/-- Weight-buffer bytes from an offset on, modulo 512 KiB (R155). -/
def Wide.wbBytes (w : Wide) (o n : Nat) : List Byte := (List.range n).map fun i => w.wb.get ((o + i) % 0x80000)

/-- What an instruction does at its start: the unit's new state, what it writes at completion, and what its sheaf needs. -/
structure Effect where
  wide  : Wide
  lm    : List (Nat × List Byte) := []
  reg   : Option (File × Nat × Word) := none
  flags : BitVec 5 := 0
  olf   : Bool := false
  vals  : List (Nat × List Byte) := []
  extra : List Byte := []
  clr   : Bool := false
  stale : Nat := 0
deriving Repr, Inhabited

/-- A byte string in pieces. -/
def chunks (k : Nat) (l : List Byte) : List (List Byte) := go l.length l
where
  go : Nat → List Byte → List (List Byte)
    | 0, _ => []
    | f + 1, l => if l.isEmpty || k == 0 then [] else l.take k :: go f (l.drop k)
/-- The writes of a destination's elements. -/
def Use.writes (u : Use) (bs : List Byte) : List (Nat × List Byte) :=
  (chunks u.len bs).zipIdx.map fun p => (u.st.at_ p.2, p.1)

/-- The bytes of a float vector's values and the values of bytes (R83). -/
def elVals (t : Nat) (bs : List Byte) : List Val := (chunks (elWidth t) bs).map fun b => (elFmt t).value (t != 8) true (leNat b)
def elInts (t : Nat) (bs : List Byte) : List Int :=
  (chunks (elWidth t) bs).map fun b => (BitVec.ofNat (elBits t) (leNat b)).toInt
/-- Codes of a byte string (R88). -/
def elCodes (t : Nat) (bs : List Byte) : List Nat :=
  if t = 7 then bs.flatMap fun b => [b.toNat % 16, b.toNat / 16] else bs.map BitVec.toNat
/-- Elements' numbers as bytes. -/
def elBytes (t : Nat) (ns : List Nat) : List Byte :=
  if t = 7 then pair4 ns else ns.flatMap fun n => natBytes (elWidth t) n
where
  pair4 : List Nat → List Byte
    | a :: b :: r => BitVec.ofNat 8 (a % 16 + 16 * (b % 16)) :: pair4 r
    | [a] => [BitVec.ofNat 8 (a % 16)]
    | [] => []

end Sys2Proof.Machine
end

