-- ==== Sys2Proof/Machine/Vector.lean ====
section
/-! DEFINITION. Vector instructions and conversions with tables and tiles: what they compute (R165 to R174, R89, R90) and their
enqueue. -/

namespace Sys2Proof.Machine

/-! ### Element results (R76, R83, R165) -/

/-- Rounds a list of exact results in increasing index, with one generator step per inexact element under SR. -/
def roundAll (fm : Fmt) (mode : BitVec 3) : Word → List Op → List Nat × BitVec 5
  | _, [] => ([], 0)
  | g, o :: os =>
    let r := fm.deliver true mode (srStep g).2 o.v
    let t := roundAll fm mode (if r.step && decide (mode = 6) then (srStep g).1 else g) os
    (r.bits :: t.1, r.flags ||| o.flags ||| t.2)
/-- The same for conversions to an n-bit signed integer (R73). -/
def toIntAll (n : Nat) (mode : BitVec 3) : Word → List Val → List Nat × BitVec 5
  | _, [] => ([], 0)
  | g, v :: vs =>
    let r := toInteger (-(2 ^ (n - 1) : Int)) (2 ^ (n - 1) - 1) mode (srStep g).2 v
    let t := toIntAll n mode (if r.2.2 && decide (mode = 6) then (srStep g).1 else g) vs
    ((BitVec.ofInt n r.1).toNat :: t.1, r.2.1 ||| t.2)

/-- A conversion's exact value: a signalling NaN sets NV (R83). -/
def opConv (v : Val) : Op := { v := v, flags := flagIf v.sNan flagNV }

/-- The order of FMAX and FMIN (R123): -0 stands below +0. -/
def belowVal (a b : Val) : Bool :=
  let c := cmpVal a b
  decide (c < 0) || (decide (c = 0) && a.neg? && !b.neg?)
/-- The second source is chosen (R185's mask). -/
def takesSecond (max : Bool) (a b : Val) : Bool :=
  if a.isNan then !b.isNan else if b.isNan then false else if max then belowVal a b else belowVal b a
def opPick (max : Bool) (a b : Val) : Op :=
  { v := if takesSecond max a b then b else a, flags := flagIf (a.sNan || b.sNan) flagNV }

/-- The exact sum of a float reduction (R168). -/
def opSum (mode : BitVec 3) (vs : List Val) : Op :=
  let p := vs.any fun v => v.isInf && !v.neg?
  let m := vs.any fun v => v.isInf && v.neg?
  if vs.any Val.isNan || (p && m) then { v := .nan false, flags := flagIf (vs.any Val.sNan || (p && m)) flagNV }
  else if p || m then { v := .inf m }
  else
    match vs.map Val.ex with
    | [] => { v := .num {} }
    | x :: xs => { v := .num (xs.foldl (addEx mode) x) }
/-- The least index of the greatest element. -/
def maxIndex (vs : List Val) : Nat :=
  (vs.zipIdx.foldl (fun b p => if belowVal b.1 p.1 then p else b) (vs.headD (.num {}), 0)).2

/-- A bit per element as bytes, element 0 the lowest bit. -/
def bitBytes : List Bool → List Byte
  | a :: b :: c :: d :: e :: f :: g :: h :: r =>
    BitVec.ofNat 8 (bit a + 2 * bit b + 4 * bit c + 8 * bit d + 16 * bit e + 32 * bit f + 64 * bit g + 128 * bit h) :: bitBytes r
  | _ => []

/-- What a vector instruction computes: its destination's bytes, flags, scalar result and extra item. -/
structure VecOut where
  dest  : List Byte := []
  flags : BitVec 5 := 0
  reg   : Word := 0
  extra : List Byte := []
deriving DecidableEq, Repr, Inhabited

/-- Fits the integers of a vector (R72, R166). -/
def intOut (t : Nat) (sat : BitVec 2) (is : List Int) : VecOut :=
  { dest := elBytes t (is.map fun i => (fitBits sat (elBits t) i).toNat) }
def floatOut (t : Nat) (mode : BitVec 3) (g : Word) (os : List Op) : VecOut :=
  let r := roundAll (elFmt t) mode g os
  { dest := elBytes t r.1, flags := r.2 }

/-- VXPOSE's order: destination element k is source element (k mod 8) × c + k / 8 (R169). -/
def transpose (t : Nat) (bs : List Byte) : List Byte :=
  let es := chunks (elWidth t) bs
  let c := es.length / 8
  (List.range es.length).flatMap fun k => es.getD (k % 8 * c + k / 8) []

/-- The forward effect of a vector instruction on its sources' bytes; `free` decides VRMAX's index where a NaN makes the maximum NaN
(log 12). -/
def vecEval (op : WuOp) (rm : BitVec 3) (sat : BitVec 2) (g xs free : Word) (src : Nat → List Byte) : VecOut :=
  let t := op.fn
  let a := fun _ : Unit => elVals t (src 1)
  let b := fun _ : Unit => elVals t (src 2)
  let ia := fun _ : Unit => elInts t (src 1)
  let ib := fun _ : Unit => elInts t (src 2)
  let two := fun (f : Val → Val → Op) (h : Int → Int → Int) =>
    if floatTy t then floatOut t rm g (List.zipWith f (a ()) (b ())) else intOut t sat (List.zipWith h (ia ()) (ib ()))
  let pick := fun (max : Bool) (h : Int → Int → Int) =>
    { two (opPick max) h with
      extra := if floatTy t then bitBytes (List.zipWith (fun x y => !takesSecond max x y) (a ()) (b ())) else [] }
  let one := fun (f : Val → Op) => floatOut t rm g ((a ()).map f)
  match op.kind with
  | .vadd => two (opAdd rm) (· + ·)
  | .vsub => two (opSub rm) (· - ·)
  | .vmul => two opMul (· * ·)
  | .vmax => pick true max
  | .vmin => pick false min
  | .vfma =>
    floatOut 0 rm g (List.zipWith (fun p c => opFma rm p.1 p.2 c) ((elVals 0 (src 1)).zip (elVals 0 (src 2))) (elVals 0 (src 3)))
  | .vexp2 => one opExp2
  | .vlog2 => one opLog2
  | .vrcp => one opRcp
  | .vrsq => one opRsq
  | .vtanh => one opTanh
  | .vscale => let k := binary32.value true true (xs.toNat % 2 ^ 32); one fun x => opMul x k
  | .vrsum =>
    if floatTy t then
      let o := opSum rm (a ())
      let r := binary32.deliver true rm (srStep g).2 o.v
      { reg := boxS r.bits, flags := r.flags ||| o.flags }
    else { reg := BitVec.ofInt 64 ((ia ()).foldl (· + ·) 0) }
  | .vrmax =>
    if floatTy t then
      let vs := a ()
      if vs.any Val.isNan then
        { reg := boxS binary32.nan, flags := flagIf (vs.any Val.sNan) flagNV, extra := natBytes 4 (free.toNat % vecLen t) }
      else
        let k := maxIndex vs
        { reg := boxS (binary32.deliver true 0 0 (vs.getD k (.num {}))).bits, extra := natBytes 4 k }
    else { reg := BitVec.ofInt 64 ((ia ()).foldl max ((ia ()).headD 0)) }
  | .vxpose => { dest := transpose t (src 1) }
  | .vbcast =>
    let n := vecLen t
    if t = 0 then { dest := elBytes 0 (List.replicate n (xs.toNat % 2 ^ 32)) }
    else if floatTy t then
      let r := roundAll (elFmt t) rm g [opConv (binary32.value true true (xs.toNat % 2 ^ 32))]
      { dest := elBytes t (List.replicate n (r.1.headD 0)), flags := r.2 }
    else { dest := elBytes t (List.replicate n (fitBits sat (elBits t) xs.toInt).toNat) }
  | .vcvt =>
    let vs := elVals 0 (src 1)
    if floatTy t then floatOut t rm g (vs.map opConv)
    else let r := toIntAll (elBits t) rm g vs; { dest := elBytes t r.1, flags := r.2 }
  | _ => {}

/-- Reads the sources of an instruction, by ROLE. -/
def State.readSources (s : State) (n : Nat) : List Use → Except Fail (List (Nat × List Byte))
  | [] => .ok []
  | u :: us =>
    if u.role = 0 then State.readSources s n us
    else
      match s.readUse n u with
      | .error f => .error f
      | .ok bs =>
        match State.readSources s n us with
        | .error f => .error f
        | .ok r => .ok ((u.role, bs) :: r)

/-- The effect of a vector instruction (R165 to R172). -/
def vecEffect (e : WuEnt) (n : Nat) (s : State) : Except Fail Effect :=
  match s.readSources n e.uses with
  | .error f => .error f
  | .ok src =>
    let o := vecEval e.op e.rm e.sat e.seed e.xs s.free (assocGet [] src)
    let reg := e.op.kind == .vrsum || e.op.kind == .vrmax
    .ok { wide := (s.cell n).wide, flags := o.flags, extra := o.extra
          lm := if reg then [] else (e.use 0).elim [] fun u => u.writes o.dest
          reg := if reg then some (e.op.file, e.op.d, o.reg) else none
          vals := (0, o.dest) :: src }

/-! ### VCVTD (R174, R88 to R90) -/

/-- A tile's element by row and column, when the tile's shape holds it (R409). -/
def Tile.at_ (t : Tile) (i j : Nat) : Option Nat :=
  if i < tileRows t.cfg ∧ j < tileCols t.cfg then some (t.el.get (i * tileCols t.cfg + j)).toNat else none
/-- The stored bits of a tile's elements in the captured order, at the captured width. -/
def Tile.captured (t : Tile) (cfg : Word) : List Nat :=
  (List.range (tileCount cfg)).map fun k => ((t.at_ (k / tileCols cfg) (k % tileCols cfg)).getD 0) % 2 ^ tileBits cfg
/-- The values of a tile's stored bits as a source type. -/
def tileVal (ty : Nat) (b : Nat) : Val :=
  if ty = 3 then ofInteger (BitVec.ofNat 32 b).toInt else (elFmt ty).value (ty != 8) true b

/-- The exact values of VCVTD's source bytes. -/
def srcVals (ty : Nat) (tab : DTab) (bs : List Byte) : List Val :=
  if ty < 3 then elVals ty bs
  else if ty < 6 then (elInts ty bs).map ofInteger
  else (elCodes ty bs).map tab.value

/-- The outlier list as encoding goes on (R89, R90): the codes, the entries appended, flags and OLF. -/
structure Encoding where
  codes : List Nat := []
  list  : List (Nat × Nat) := []
  flags : BitVec 5 := 0
  olf   : Bool := false
deriving DecidableEq, Repr, Inhabited

/-- Encodes values from an element index on; `room` places are left in the list. -/
def encodeAll (tab : DTab) (code4 olt : Bool) (mode : BitVec 3) : Word → Nat → Nat → List Val → Except Fail Encoding
  | _, _, _, [] => .ok {}
  | g, i, room, v :: vs =>
    let nv := flagIf v.sNan flagNV
    let put := fun (c : Nat) (fl : BitVec 5) (olf : Bool) (r : Except Fail Encoding) =>
      match r with
      | .error f => Except.error f
      | .ok r => .ok { r with codes := c :: r.codes, flags := r.flags ||| fl ||| nv, olf := r.olf || olf }
    match tab.encode code4 v with
    | .code c fl => put c fl false (encodeAll tab code4 olt mode g (i + 1) room vs)
    | .outlier z top =>
      if 0 < room then
        let r := binary32.deliver true mode (srStep g).2 v
        match encodeAll tab code4 olt mode (if r.step && decide (mode = 6) then (srStep g).1 else g) (i + 1) (room - 1) vs with
        | .error f => .error f
        | .ok t => put z r.flags false (.ok { t with list := (i, r.bits) :: t.list })
      else if olt then .error { cause := 0x14 }
      else put top flagNX true (encodeAll tab code4 olt mode g (i + 1) room vs)

/-- COUNT of an outlier list (R90). -/
def listCount (bs : List Byte) : Nat := min 64 (leNat (bs.take 8) % 128)
/-- The writes of a list at an offset: the appended entries from place `k` on, and COUNT. -/
def listWrites (o k : Nat) (es : List (Nat × Nat)) : List (Nat × List Byte) :=
  (es.zipIdx.map fun p => (o + 8 + 8 * (k + p.2), natBytes 8 (p.1.1 * 2 ^ 32 + p.1.2))) ++ [(o, natBytes 8 (k + es.length))]

/-- What VCVTD computes without a list: float and integer destinations (R73, R79, R83). -/
def cvtEval (dst : Nat) (mode : BitVec 3) (g : Word) (vs : List Val) : List Byte × BitVec 5 :=
  if floatTy dst then let r := roundAll (elFmt dst) mode g (vs.map opConv); (elBytes dst r.1, r.2)
  else let r := toIntAll (elBits dst) mode g vs; (elBytes dst r.1, r.2)

/-- The effect of VCVTD. -/
def cvtEffect (e : WuEnt) (n : Nat) (s : State) : Except Fail Effect :=
  let w := (s.cell n).wide
  let w2 := e.op.w2
  let tab := vget w.dtabs (cvtTab w2)
  match s.readSources n e.uses with
  | .error f => .error f
  | .ok src =>
    let vs := if cvtTile w2 then ((vget w.tiles e.op.a).captured e.cfg).map (tileVal (cvtS w2))
      else srcVals (cvtS w2) tab (assocGet [] src 1)
    let out := fun bs : List Byte => (e.use 0).elim [] fun u => u.writes bs
    if cvtD w2 < 6 then
      let r := cvtEval (cvtD w2) e.rm e.seed vs
      .ok { wide := w, lm := out r.1, flags := r.2, vals := (0, r.1) :: src }
    else
      let k := listCount (assocGet [] src 5)
      match encodeAll tab (cvtD w2 == 7) (fcsrOlt (s.thread n e.thr).ctrl.fcsr) e.rm e.seed 0 (64 - k) vs with
      | .error f => .error f
      | .ok c =>
        let bs := elBytes (cvtD w2) c.codes
        .ok { wide := w, flags := c.flags, olf := c.olf, vals := (0, bs) :: src
              lm := out bs ++ listWrites (bitsOf e.xs.toNat 0 22) k c.list }

/-! ### Enqueue -/

/-- A wide-unit instruction's fields in this iteration. -/
def Args.op (A : Args) (k : WuKind) (fn : Nat) (w2 : BitVec 32) : WuOp :=
  { kind := k, fn := fn, d := A.d, a := A.a, b := A.b, e := A.e, file := A.fd, w1 := A.word, w2 := w2 }
/-- Enqueues a vector instruction; its scalar operand is rs2 for VSCALE and rs1 for VBCAST. -/
def vecBody (k : WuKind) (t : BitVec 5) : Args → State → Res :=
  enqueueBody (fun A s => A.entry s (A.op k t.toNat 0) (match k with | .vscale => A.rb s | .vbcast => A.ra s | _ => 0)) fun _ => false

def execVadd (c : Ctl) (t d a b : BitVec 5) (s : State) : Out := run (.vadd c t d a b) false (vecBody .vadd t) s
def execVsub (c : Ctl) (t d a b : BitVec 5) (s : State) : Out := run (.vsub c t d a b) false (vecBody .vsub t) s
def execVmul (c : Ctl) (t d a b : BitVec 5) (s : State) : Out := run (.vmul c t d a b) false (vecBody .vmul t) s
/-- VFMA is always binary32 (R166). -/
def execVfma (c : Ctl) (d a b e : BitVec 5) (s : State) : Out := run (.vfma c d a b e) false (vecBody .vfma 0) s
def execVmax (c : Ctl) (t d a b : BitVec 5) (s : State) : Out := run (.vmax c t d a b) false (vecBody .vmax t) s
def execVmin (c : Ctl) (t d a b : BitVec 5) (s : State) : Out := run (.vmin c t d a b) false (vecBody .vmin t) s
def execVexp2 (c : Ctl) (t d a : BitVec 5) (s : State) : Out := run (.vexp2 c t d a) false (vecBody .vexp2 t) s
def execVlog2 (c : Ctl) (t d a : BitVec 5) (s : State) : Out := run (.vlog2 c t d a) false (vecBody .vlog2 t) s
def execVrcp (c : Ctl) (t d a : BitVec 5) (s : State) : Out := run (.vrcp c t d a) false (vecBody .vrcp t) s
def execVrsq (c : Ctl) (t d a : BitVec 5) (s : State) : Out := run (.vrsq c t d a) false (vecBody .vrsq t) s
def execVtanh (c : Ctl) (t d a : BitVec 5) (s : State) : Out := run (.vtanh c t d a) false (vecBody .vtanh t) s
def execVrsum (c : Ctl) (t d a : BitVec 5) (s : State) : Out := run (.vrsum c t d a) false (vecBody .vrsum t) s
def execVrmax (c : Ctl) (t d a : BitVec 5) (s : State) : Out := run (.vrmax c t d a) false (vecBody .vrmax t) s
def execVcvt (c : Ctl) (t d a : BitVec 5) (s : State) : Out := run (.vcvt c t d a) false (vecBody .vcvt t) s
def execVxpose (c : Ctl) (t d a : BitVec 5) (s : State) : Out := run (.vxpose c t d a) false (vecBody .vxpose t) s
def execVbcast (c : Ctl) (t d a : BitVec 5) (s : State) : Out := run (.vbcast c t d a) false (vecBody .vbcast t) s
def execVscale (c : Ctl) (t d a b : BitVec 5) (s : State) : Out := run (.vscale c t d a b) false (vecBody .vscale t) s

/-- The breaches that R174 names. -/
def cvtBad (e : WuEnt) : Bool :=
  let w := e.op.w2
  let code := decide (6 ≤ cvtD w)
  let coded := code || (decide (6 ≤ cvtS w) && decide (cvtS w < 8))
  !cvtPair (cvtS w) (cvtD w) || decide (w.extractLsb' 21 11 ≠ 0)
    || (if cvtTile w then decide (tileTy e.cfg ≠ cvtS w) || decide (cvtCount w ≠ 1) else cvtS w == 8)
    || ((cvtS w == 7 || cvtD w == 7) && decide (e.cvtLen % 2 ≠ 0))
    || (if code then decide (e.xs.toNat % 8 ≠ 0) else decide (e.op.b ≠ 0))
    || (!coded && decide (cvtTab w ≠ 0))
def execVcvtd (c : Ctl) (d a b : BitVec 5) (w2 : BitVec 32) (s : State) : Out :=
  run (.vcvtd c d a b w2) false (enqueueBody (fun A s => A.entry s (A.op .vcvtd 0 w2) (A.rb s)) cvtBad) s

end Sys2Proof.Machine
end

