-- ==== Sys2Proof/Machine/Matrix.lean ====
section
/-! DEFINITION. Tile registers, the weight buffer, decode tables and the matrix instructions: what they do (R150 to R164, R94, R409)
and their enqueue. -/

namespace Sys2Proof.Machine

/-! ### Stores written whole -/

/-- The entries that a list of values gives from an address on. -/
def entriesFrom {w : Nat} (k : Nat) : List (BitVec w) → Store w
  | [] => []
  | v :: vs => if v = 0#w then entriesFrom (k + 1) vs else (k, v) :: entriesFrom (k + 1) vs
/-- A run of values written into a store. -/
def splice {w : Nat} (m : Store w) (k : Nat) (vs : List (BitVec w)) : Store w :=
  m.takeWhile (fun p => decide (p.1 < k)) ++ entriesFrom k vs ++ m.dropWhile fun p => decide (p.1 < k + vs.length)

/-! ### Tile moves (R151 to R154, R409) -/

def Wide.setTile (w : Wide) (k : Nat) (t : Tile) : Wide := { w with tiles := vset w.tiles k t }

/-- A48 bits as TLD puts them: an element whose EXP is 0 is a zero of its sign (R153). -/
def loadBits (cfg : Word) (b : Nat) : Nat :=
  if tileEtype cfg = 0 then
    let v := b % 2 ^ 48
    if v / 2 ^ 38 % 512 = 0 then v / 2 ^ 47 * 2 ^ 47 else v
  else b

/-- The tile after a load of a block from its bytes. -/
def Tile.load (t : Tile) (cfg : Word) (r0 nr c0 nc : Nat) (bs : List Byte) : Tile :=
  let els := (chunks (tileWidth cfg) bs).toArray
  let cols := tileCols t.cfg
  let new := (List.range (tileCount t.cfg)).map fun k =>
    let i := k / cols
    let j := k % cols
    if r0 ≤ i ∧ i < r0 + nr ∧ c0 ≤ j ∧ j < c0 + nc then
      BitVec.ofNat 48 (loadBits cfg (leNat (els.getD ((i - r0) * nc + (j - c0)) [])) % 2 ^ tileBits t.cfg)
    else t.el.get k
  { t with el := entriesFrom 0 new }
/-- The bytes that a store of a block writes. -/
def Tile.store (t : Tile) (cfg : Word) (r0 nr c0 nc : Nat) : List Byte :=
  (List.range nr).flatMap fun i => (List.range nc).flatMap fun j =>
    natBytes (tileWidth cfg) ((t.at_ (r0 + i) (c0 + j)).getD 0 % 2 ^ tileBits cfg)

def moveEffect (e : WuEnt) (n : Nat) (s : State) : Except Fail Effect :=
  let w := (s.cell n).wide
  let b := e.block
  match e.op.kind with
  | .tst | .tstd =>
    let bs := (vget w.tiles e.op.a).store e.cfg b.1 b.2.1 b.2.2.1 b.2.2.2
    .ok { wide := w, lm := (e.use 0).elim [] fun u => u.writes bs }
  | _ =>
    match s.readSources n e.uses with
    | .error f => .error f
    | .ok src =>
      .ok { wide := w.setTile e.op.d ((vget w.tiles e.op.d).load e.cfg b.1 b.2.1 b.2.2.1 b.2.2.2 (assocGet [] src 1)) }

/-- TCFG (R151) decides at its start whether it clears the tile; TZERO (R152). -/
def tileEffect (e : WuEnt) (n : Nat) (s : State) : Effect :=
  let w := (s.cell n).wide
  let t := vget w.tiles e.op.d
  if e.op.kind = .tcfg then
    let clr := !sameShape t.cfg e.xs
    { wide := w.setTile e.op.d { cfg := e.xs, el := if clr then [] else t.el }, clr := clr }
  else { wide := w.setTile e.op.d { t with el := [] } }

/-! ### The weight buffer and the decode tables (R155, R156, R85) -/

def wldEffect (e : WuEnt) (n : Nat) (s : State) : Except Fail Effect :=
  let w := (s.cell n).wide
  match s.readSources n e.uses with
  | .error f => .error f
  | .ok src =>
    let bs := assocGet [] src 1
    let o := wbOffset e.xs
    let wb := splice (splice w.wb o (bs.take (0x80000 - o))) 0 (bs.drop (0x80000 - o))
    .ok { wide := { w with wb := wb } }

def dtldEffect (e : WuEnt) (n : Nat) (s : State) : Except Fail Effect :=
  let w := (s.cell n).wide
  match s.readSources n e.uses with
  | .error f => .error f
  | .ok src =>
    let ws := (chunks 4 (assocGet [] src 1)).map leNat
    let t : DTab := { ent := entriesFrom 0 ((ws.take 256).map (BitVec.ofNat 19)), mode := BitVec.ofNat 2 (ws.getD 256 0) }
    .ok { wide := { w with dtabs := vset w.dtabs e.op.d t } }

/-! ### Operands of a matrix form (R157 to R163, R91) -/

/-- Effective values, exact, with the flags that forming them raises: A by i × K + k, B by k × 16 + j; none where a sparse mask drops
the position. -/
structure Mats where
  k : Nat
  a : Array Op
  b : Array (Option Op)
deriving Inhabited

/-- The element values of an operand's bytes. -/
def matVals (t : Nat) (tab : DTab) (bs : List Byte) : List Val := if t < 6 then elVals t bs else (elCodes t bs).map tab.value
/-- An element under its block scale. -/
def scaled (scl : Bool) (v k : Val) : Op := if scl then opMul v k else { v := v }

/-- Set bits of a mask word below a position. -/
def bitsBelow (m : Nat) : Nat → Nat
  | 0 => 0
  | t + 1 => bitsBelow m t + m / 2 ^ t % 2
/-- Where the value of (k, j) stands among a sparse panel's packed values (R163). -/
def sparseIndex (masks : Array Nat) (g n k j : Nat) : Option Nat :=
  let m := masks.getD (j * g + k / 24) 0
  let r := bitsBelow m (k % 24)
  if m / 2 ^ (k % 24) % 2 = 1 ∧ r < n then some ((j * g + k / 24) * n + r) else none

/-- The operands from the bytes of A, of the panel and of the scales. -/
def matsOf (op : WuOp) (xs : Word) (w : Wide) (a p sc : List Byte) : Mats :=
  let pr := pairOf op.fn
  let kk := op.depth
  let nb := kk / 32
  let scl := mmaScl op.w2
  let av := (matVals pr.a (vget w.dtabs (mmaDta op.w2)) a).toArray
  let tabB := vget w.dtabs (mmaDtb op.w2)
  let sv := (elVals 0 sc).toArray
  let g := op.groups
  let masks := (if op.kind.sparse then (chunks 4 (p.take (64 * g))).map leNat else []).toArray
  let bv := (matVals pr.b tabB (if op.kind.sparse then p.drop (64 * g) else p)).toArray
  let sa := fun i k : Nat => sv.getD (i * nb + k / 32) (.num {})
  let sb := fun j k : Nat => sv.getD (16 * nb + j * nb + k / 32) (.num {})
  { k := kk
    a := ((List.range (16 * kk)).map fun q => scaled scl (av.getD q (.num {})) (sa (q / kk) (q % kk))).toArray
    b := ((List.range (16 * kk)).map fun q =>
      let k := q / 16
      let j := q % 16
      (if op.kind.sparse then sparseIndex masks g (sparseN xs) k j else some (j * kk + k)).map fun ix =>
        scaled scl (bv.getD ix (.num {})) (sb j k)).toArray }

/-- The scale of A's row i at depth k, or 1. -/
def scaleA (op : WuOp) (sc : List Byte) (i k : Nat) : Val :=
  if mmaScl op.w2 then (elVals 0 (((sc.drop (4 * (i * (op.depth / 32) + k / 32)))).take 4)).headD (.num {}) else .num { m := 1 }

/-! ### Sum order (R94) -/

/-- The exact product of two effective values. -/
def prodOp (a b : Op) : Op := let o := opMul a.v b.v; { v := o.v, flags := o.flags ||| a.flags ||| b.flags }
/-- A group's exact sum. -/
def groupSum (ps : List Op) : Op :=
  let o := opSum 0 (ps.map Op.v)
  { o with flags := ps.foldl (fun f p => f ||| p.flags) o.flags }
/-- One step of sum_order on an A48 pattern. -/
def accStep (c : Nat × BitVec 5) (g : Op) : Nat × BitVec 5 :=
  let o := opAdd 0 (a48.value false true c.1) g.v
  let r := a48.deliver true 0 0 o.v
  (r.bits, c.2 ||| g.flags ||| o.flags ||| r.flags)
/-- A list in groups of `k`. -/
def groupsOf {α : Type} (k : Nat) (l : List α) : List (List α) := go l.length l
where
  go : Nat → List α → List (List α)
    | 0, _ => []
    | f + 1, l => if l.isEmpty || k == 0 then [] else l.take k :: go f (l.drop k)
/-- sum_order: groups of 8, or of K where K is less. -/
def sumOrder (c : Nat) (ps : List Op) : Nat × BitVec 5 :=
  ((groupsOf (min 8 ps.length) ps).map groupSum).foldl accStep (c, 0)

/-- The products of an element of C. -/
def Mats.products (m : Mats) (i j : Nat) : List Op :=
  (List.range m.k).map fun k =>
    match m.b.getD (k * 16 + j) none with
    | some b => prodOp (m.a.getD (i * m.k + k) { v := .num {} }) b
    | none => { v := .num {} }

/-! ### MMA, MMAS, MMAO (R162 to R164) -/

/-- The entries of an outlier list: index and value (R90). -/
def listEntries (bs : List Byte) : List (Nat × Val) :=
  ((chunks 8 (bs.drop 8)).take (listCount bs)).map fun b =>
    (leNat b / 2 ^ 32 % 1024, binary32.value true true (leNat b % 2 ^ 32))

/-- One correction of C's row (R164). -/
def correct (op : WuOp) (sc : List Byte) (m : Mats) (c : Array Nat × BitVec 5) (x : Nat × Val) : Array Nat × BitVec 5 :=
  let i := x.1 / m.k
  let k := x.1 % m.k
  if x.1 < 16 * m.k then
    let va := opMul x.2 (scaleA op sc i k)
    (List.range 16).foldl (fun c j =>
      match m.b.getD (k * 16 + j) none with
      | some b =>
        let r := accStep (c.1.getD (16 * i + j) 0, c.2) (prodOp va b)
        (c.1.setIfInBounds (16 * i + j) r.1, r.2)
      | none => c) c
  else c

/-- The panel's bytes. -/
def WuEnt.panel (e : WuEnt) (w : Wide) : List Byte := w.wbBytes (wbOffset e.xs) (e.op.panelBytes e.xs)

def mmaEffect (e : WuEnt) (n : Nat) (s : State) : Except Fail Effect :=
  let w := (s.cell n).wide
  let t := vget w.tiles e.op.d
  match s.readSources n e.uses with
  | .error f => .error f
  | .ok src =>
    let p := e.panel w
    let vals := assocSet src 2 p
    if !isAcc t.cfg then .ok { wide := w, vals := vals }
    else
      let sc := assocGet [] src 4
      let m := matsOf e.op e.xs w (assocGet [] src 1) p sc
      let rs := (List.range 256).map fun q =>
        sumOrder (if mmaZero e.op.w2 then 0 else (t.el.get q).toNat) (m.products (q / 16) (q % 16))
      let c := ((rs.map Prod.fst).toArray, rs.foldl (fun f r => f ||| r.2) 0)
      let c := if e.op.kind.outlier then (listEntries (assocGet [] src 5)).foldl (correct e.op sc m) c else c
      let w := w.setTile e.op.d { t with el := entriesFrom 0 (c.1.toList.map (BitVec.ofNat 48)) }
      .ok { wide := { w with recheck := w.recheck + 1 }, flags := c.2, vals := vals }

/-! ### Enqueue -/

def execTcfg (c : Ctl) (d a : BitVec 5) (s : State) : Out :=
  run (.tcfg c d a) false (enqueueBody (fun A s => A.entry s (A.op .tcfg 0 0) (A.ra s)) fun e => !tcfgOk e.xs) s
def execTzero (c : Ctl) (d : BitVec 5) (s : State) : Out :=
  run (.tzero c d) false (enqueueBody (fun A s => A.entry s (A.op .tzero 0 0) 0) fun _ => false) s
def execTld (c : Ctl) (d a : BitVec 5) (s : State) : Out :=
  run (.tld c d a) false (enqueueBody (fun A s => A.entry s (A.op .tld 0 0) 0) fun _ => false) s
def execTst (c : Ctl) (d a : BitVec 5) (s : State) : Out :=
  run (.tst c d a) false (enqueueBody (fun A s => A.entry s (A.op .tst 0 0) 0) fun _ => false) s
/-- The block lies in the tile, and the reserved bits are 0 (R154). -/
def blockBad (e : WuEnt) : Bool :=
  let b := e.block
  decide (tileRows e.cfg < b.1 + b.2.1) || decide (tileCols e.cfg < b.2.2.1 + b.2.2.2) || decide (e.op.w2.extractLsb' 30 2 ≠ 0)
def execTldd (c : Ctl) (d a b : BitVec 5) (w2 : BitVec 32) (s : State) : Out :=
  run (.tldd c d a b w2) false (enqueueBody (fun A s => A.entry s (A.op .tldd 0 w2) (A.rb s)) blockBad) s
def execTstd (c : Ctl) (d a b : BitVec 5) (w2 : BitVec 32) (s : State) : Out :=
  run (.tstd c d a b w2) false (enqueueBody (fun A s => A.entry s (A.op .tstd 0 w2) (A.rb s)) blockBad) s
def execWld (c : Ctl) (a b : BitVec 5) (s : State) : Out :=
  run (.wld c a b) false (enqueueBody (fun A s => A.entry s (A.op .wld 0 0) (A.rb s)) fun _ => false) s
/-- DTLD's second word is its immediate (R156). -/
def execDtld (c : Ctl) (d a : BitVec 5) (w2 : BitVec 32) (s : State) : Out :=
  run (.dtld c d a w2) false
    (enqueueBody (fun A s =>
      let o := A.ra s + c.imm w2
      { A.entry s (A.op .dtld 0 w2) o with s1 := { addr := o.setWidth 22 } }) fun _ => false) s

/-- The breaches that R161, R163 and R164 name; `rs3` is a short form's scale field. -/
def mmaBad (short : Bool) (e : WuEnt) : Bool :=
  let w := e.op.w2
  let coded := pairCoded e.op.fn
  (if short then tilePair e.cfg == 0 || (!tileScl e.cfg && decide (e.op.e ≠ 0))
    else decide (e.op.fn < 1) || decide (6 < e.op.fn) || decide (w.extractLsb' 9 23 ≠ 0) || (!mmaScl w && decide (mmaSq w ≠ 0))
      || (!coded && (mmaScl w || decide (mmaDta w ≠ 0) || decide (mmaDtb w ≠ 0))))
    || !isAcc e.cfg || (e.op.kind.sparse && decide (bitsOf e.xs.toNat 20 2 = 3))
    || (e.op.kind.outlier && decide (bitsOf e.xs.toNat 32 22 % 8 ≠ 0))

/-- A short form: its pair and second word come from the tile (R161). -/
def shortMma (k : WuKind) : Args → State → Res :=
  enqueueBody (fun A s =>
    let cfg := (vget (s.cell A.n).wide.tiles A.d).cfg
    A.entry s (A.op k (tilePair cfg) (impliedWord cfg A.e)) (A.rb s)) (mmaBad true)
/-- A long form. -/
def longMma (k : WuKind) (fn : BitVec 5) (w2 : BitVec 32) : Args → State → Res :=
  enqueueBody (fun A s => A.entry s (A.op k fn.toNat w2) (A.rb s)) (mmaBad false)

def execMma (c : Ctl) (d a b e : BitVec 5) (s : State) : Out := run (.mma c d a b e) false (shortMma .mma) s
def execMmas (c : Ctl) (d a b e : BitVec 5) (s : State) : Out := run (.mmas c d a b e) false (shortMma .mmas) s
def execMmao (c : Ctl) (d a b e : BitVec 5) (s : State) : Out := run (.mmao c d a b e) false (shortMma .mmao) s
def execMmad (c : Ctl) (fn d a b : BitVec 5) (w2 : BitVec 32) (s : State) : Out := run (.mmad c fn d a b w2) false (longMma .mmad fn w2) s
def execMmasd (c : Ctl) (fn d a b : BitVec 5) (w2 : BitVec 32) (s : State) : Out :=
  run (.mmasd c fn d a b w2) false (longMma .mmasd fn w2) s
def execMmaod (c : Ctl) (fn d a b : BitVec 5) (w2 : BitVec 32) (s : State) : Out :=
  run (.mmaod c fn d a b w2) false (longMma .mmaod fn w2) s

end Sys2Proof.Machine
end

