-- ==== Sys2Proof/Machine/Adjoint.lean ====
section
/-! DEFINITION. Record mode and the walk backward: REC, GMAP and RVS (R178, R190, R193), the gradient map (R191, R192), and what an
adjoint does (R177, R187, R188, R194). -/

namespace Sys2Proof.Machine

/-! ### The gradient map (R191, R192) -/

def GEnt.v (g : GEnt) : Bool := g.w0.getLsbD 63
def GEnt.kind (g : GEnt) : Nat := bitsOf g.w0.toNat 60 3
def GEnt.esize (g : GEnt) : Nat := bitsOf g.w0.toNat 57 3
def GEnt.acc (g : GEnt) : Bool := g.w0.getLsbD 56
def GEnt.stile (g : GEnt) : Nat := bitsOf g.w0.toNat 53 3
def GEnt.pstart (g : GEnt) : Nat := bitsOf g.w0.toNat 0 22
def GEnt.gstart (g : GEnt) : Nat := bitsOf g.w1.toNat 32 22
def GEnt.count (g : GEnt) : Nat := bitsOf g.w1.toNat 0 22
/-- An element's size in half bytes. -/
def GEnt.halves (g : GEnt) : Nat := 2 ^ g.esize

/-- An entry in use keeps the limits of R191. -/
def GEnt.ok (g : GEnt) : Bool :=
  let n := g.count
  let stop := 2 * g.pstart + n * g.halves
  decide (g.kind ≤ 3) && decide (g.esize ≤ 4) && (g.kind == 0 || g.kind == 2 || g.esize == 0) && (g.acc || g.stile == 0)
    && decide (g.w0.extractLsb' 22 31 = 0) && decide (g.w1.extractLsb' 54 10 = 0) && decide (g.w1.extractLsb' 22 10 = 0)
    && (g.kind != 1 || decide (g.pstart < 8)) && (g.kind != 2 || decide (g.pstart < 0x80000)) && (g.kind != 3 || decide (g.pstart < 32))
    && decide (1 ≤ n) && (g.kind != 0 || decide (stop ≤ 0x600000)) && (g.kind != 2 || decide (stop ≤ 0x100000))
    && ((g.kind != 1 && !g.acc) || decide (n ≤ 1024)) && (g.kind != 3 || n == 1)
    && (if g.acc then g.gstart == 0 else g.gstart % 4 == 0 && decide (g.gstart + 4 * n ≤ 0x300000))

/-- Where a primal element lies: an LM or weight-buffer place in half bytes, a tile's element, an f register. -/
inductive GLoc where
  | lm (h : Nat)
  | tile (k i : Nat)
  | wb (h : Nat)
  | reg (r : Nat)
deriving DecidableEq, Repr, Inhabited

/-- The index of a place's element in an entry that holds it. -/
def GEnt.index (g : GEnt) (l : GLoc) : Option Nat :=
  let span := fun (kind h : Nat) =>
    if g.v && g.kind == kind && decide (2 * g.pstart ≤ h) && decide (h < 2 * g.pstart + g.count * g.halves) then
      some ((h - 2 * g.pstart) / g.halves) else none
  match l with
  | .lm h => span 0 h
  | .wb h => span 2 h
  | .tile k i => if g.v && g.kind == 1 && g.pstart % 8 == k && decide (i < g.count) then some i else none
  | .reg r => if g.v && g.kind == 3 && g.pstart % 32 == r then some 0 else none
/-- gmap_find: the lowest-numbered entry that holds a place. -/
def gmapFind (gm : List GEnt) (l : GLoc) : Option (GEnt × Nat) := gm.findSome? fun g => (g.index l).map fun i => (g, i)

/-- Gradients as an adjoint works on them: LM and the unit as it has changed them, the words written, flags, and the first poisoned
word that it read. -/
structure Grad where
  mem   : Store 8
  wide  : Wide
  wrote : List Nat := []
  flags : BitVec 5 := 0
  bad   : Option Nat := none
deriving Repr, Inhabited

/-- What an adjoint's gradient helpers need beside: the map, the node's LM base, and poison. -/
structure GradEnv where
  gm   : List GEnt
  base : Nat
  bad  : Nat → Bool

/-- grad_read. -/
def GradEnv.read (v : GradEnv) (g : Grad) (l : GLoc) : Val × Grad :=
  match gmapFind v.gm l with
  | none => (.num {}, g)
  | some (e, i) =>
    if e.acc then (a48.value false true ((vget g.wide.tiles e.stile).el.get i).toNat, g)
    else
      let a := e.gstart + 4 * i
      (binary32.value true true (leNat (g.mem.slice (v.base + a) 4)),
        if v.bad a then { g with bad := some (g.bad.getD a) } else g)
/-- grad_put. -/
def GradEnv.put (v : GradEnv) (g : Grad) (l : GLoc) (c : Val) : Grad :=
  match gmapFind v.gm l with
  | none => g
  | some (e, i) =>
    if e.acc then
      let r := a48.deliver true 0 0 c
      let t := vget g.wide.tiles e.stile
      { g with flags := g.flags ||| r.flags
               wide := if i < tileCount t.cfg then g.wide.setTile e.stile { t with el := t.el.set i (BitVec.ofNat 48 r.bits) } else g.wide }
    else
      let r := binary32.deliver true 0 0 c
      let a := e.gstart + 4 * i
      { g with flags := g.flags ||| r.flags, mem := g.mem.fill (v.base + a) (natBytes 4 r.bits)
               wrote := if g.wrote.contains a then g.wrote else g.wrote ++ [a] }
/-- grad_add. -/
def GradEnv.add (v : GradEnv) (g : Grad) (l : GLoc) (t : Val) : Grad :=
  let (c, g) := v.read g l
  let o := opAdd 0 c t
  v.put { g with flags := g.flags ||| o.flags } l o.v
/-- Reads a list of gradients. -/
def GradEnv.readAll (v : GradEnv) (g : Grad) : List GLoc → List Val × Grad
  | [] => ([], g)
  | l :: ls =>
    let (c, g) := v.read g l
    let (cs, g) := v.readAll g ls
    (c :: cs, g)

/-! ### Sheaves as RVS reads them (R193) -/

/-- Every kind of instruction, to find one by MAJOR. -/
def allKinds : List WuKind :=
  [.tcfg, .tzero, .tld, .tst, .tldd, .tstd, .wld, .dtld, .mma, .mmas, .mmao, .mmad, .mmasd, .mmaod, .vadd, .vsub, .vmul, .vfma, .vmax,
   .vmin, .vexp2, .vlog2, .vrcp, .vrsq, .vtanh, .vrsum, .vrmax, .vcvt, .vxpose, .vbcast, .vscale, .vcvtd]
def kindOf (major : Nat) (long : Bool) : Option WuKind := allKinds.find? fun k => k.major = (major, long)

/-- FN names a form of the instruction. VFMA's four-register form has no funct5: its sheaves hold FN 0, and no other FN names it
(DESIGN CHOICE, log 121). -/
def fnOk (k : WuKind) (fn : Nat) : Bool :=
  if k.isMma then decide (1 ≤ fn) && decide (fn ≤ 6)
  else
    match k with
    | .vadd | .vsub | .vmul | .vmax | .vmin | .vexp2 | .vlog2 | .vrcp | .vrsq | .vtanh | .vrsum | .vrmax | .vxpose | .vscale => floatTy fn
    | .vcvt => fn == 1 || fn == 2
    | _ => fn == 0

def SEnt.ofWord (w : Word) : SEnt :=
  { flag := w.extractLsb' 62 2, kind := w.extractLsb' 60 2, role := w.extractLsb' 56 4, stride := w.extractLsb' 40 16
    prod := w.extractLsb' 23 17, addr := w.extractLsb' 0 22 }

/-- A header's fields (R182, R183), with its sheaf's first byte. -/
structure Sheaf where
  start : Nat
  len   : Nat
  insn  : Nat
  aux   : BitVec 32
  xs    : Word
  mode  : Nat
  fold  : BitVec 32
  seed  : Word
  words : List Word
deriving DecidableEq, Repr, Inhabited

/-- The sheaf whose header stands at a 32-byte unit of a node's LM. -/
def State.sheafAt (s : State) (n hdr : Nat) : Sheaf :=
  let h := nodeBase n + 32 * hdr
  let insn := s.readNat h 4
  let len := insn % 1024
  let start := 32 * (hdr + 1 - len)
  { start := start, len := len, insn := insn, aux := BitVec.ofNat 32 (s.readNat (h + 4) 4), xs := s.readWord (h + 8)
    mode := s.readNat (h + 16) 4, fold := BitVec.ofNat 32 (s.readNat (h + 20) 4), seed := s.readWord (h + 24)
    words := (List.range (bitsOf insn 16 3)).map fun k => s.readWord (nodeBase n + start + 8 * k) }

def Sheaf.void (h : Sheaf) : Bool := bitsOf h.insn 15 1 == 1
def Sheaf.kind (h : Sheaf) : Option WuKind := kindOf (bitsOf h.insn 26 6) (bitsOf h.insn 25 1 == 1)
def Sheaf.fn (h : Sheaf) : Nat := bitsOf h.insn 20 5

/-- The instruction that a sheaf records, with its captured operands. -/
def Sheaf.entry (h : Sheaf) (k : WuKind) : WuEnt :=
  let es := h.words.map SEnt.ofWord
  let at_ := fun r : Nat => es.find? fun x => x.role.toNat = r
  let str := fun r : Nat => (at_ r).elim ({} : Stream) fun x => { addr := x.addr, stride := x.stride }
  let num := fun r : Nat => (at_ r).elim 0 fun x => x.addr.toNat % (if x.kind = 3 then 32 else 8)
  { op := { kind := k, fn := h.fn, d := num 0, a := num 1, file := .f, w2 := h.aux, rvs := some (h.start, h.len) }
    thr := 0, ctx := 0, slot := 0, pc := 0
    rm := BitVec.ofNat 3 h.mode, sat := BitVec.ofNat 2 (h.mode / 8), seed := h.seed, xs := h.xs
    sd := str 0, s1 := str 1, s2 := str 2, s3 := if k.isMma then str 4 else str 3, ents := es, fold := h.fold
    clr := bitsOf h.insn 19 1 == 1 }

/-- A sheaf's instruction when the header is well formed, none when it is malformed or void (R193). -/
def Sheaf.decode (h : Sheaf) : Option WuEnt :=
  match h.kind with
  | none => none
  | some k =>
    let e := h.entry k
    let spec := e.op.entSpec
    if fnOk k h.fn && e.op.records
        && decide (e.ents.map (fun x => (x.role.toNat, x.kind.toNat)) = spec.map fun p => (p.1, p.2.1))
        && (e.ents.zip spec).all (fun p => if p.2.2.2 then decide (p.1.flag ≠ 3) && (decide (p.1.flag ≠ 2) || (decide (p.1.role ≠ 0) && decide (p.1.kind = 0)))
              else decide (p.1.flag = 3))
    then some e else none

/-- Values of AUX and XS that the instruction's chapter forbids (check 1 of R141, R154, R161, R163, R164, R174). What it asks of the
tile's configuration is left out: an adjoint follows the configuration of its start (R177; DESIGN CHOICE, log 120). -/
def WuEnt.breach (e : WuEnt) : Bool :=
  let w := e.op.w2
  match e.op.kind with
  | .tldd | .tstd => decide (w.extractLsb' 30 2 ≠ 0)
  | .vcvtd => decide (w.extractLsb' 21 11 ≠ 0) || decide (cvtTab w ≠ 0) || (if cvtTile w then decide (cvtCount w ≠ 1) else cvtS w == 8)
  | .mma | .mmas | .mmao | .mmad | .mmasd | .mmaod =>
    decide (w.extractLsb' 9 23 ≠ 0) || (!mmaScl w && decide (mmaSq w ≠ 0))
      || (!pairCoded e.op.fn && (mmaScl w || decide (mmaDta w ≠ 0) || decide (mmaDtb w ≠ 0)))
      || (e.op.kind.sparse && decide (bitsOf e.xs.toNat 20 2 = 3)) || (e.op.kind.outlier && decide (bitsOf e.xs.toNat 32 22 % 8 ≠ 0))
  | _ => false

/-- The malformed headers of R193. -/
def Sheaf.malformed (h : Sheaf) (head base : Nat) : Bool :=
  decide (h.len < 2) || decide (head < base + h.len) || decide (bitsOf h.insn 10 5 ≠ 0) || decide (32 ≤ h.mode)
    || (if h.void then decide (bitsOf h.insn 16 3 ≠ 0)
        else h.words.any (fun w => w.getLsbD 22) || h.decode.isNone)

/-! ### Values (R187, R188) -/

/-- What reading an operand answers: its bytes, how many times it was stale, and the fold of reference bytes. -/
structure Got where
  vals  : List (Nat × List Byte) := []
  stale : Nat := 0
  fold  : BitVec 32 := 0
  refs  : Bool := false
deriving DecidableEq, Repr, Inhabited

/-- Bytes of LM that the unit reads. -/
def State.readBytes (s : State) (n o len : Nat) : Except Fail (List Byte) :=
  if s.poisonedIn (nodeBase n + o) len then .error { cause := 0x50, addr := BitVec.ofNat 64 o } else .ok (s.bytes (nodeBase n + o) len)
/-- An operand read at its location. -/
def State.readPlace (s : State) (n : Nat) (e : WuEnt) (x : SEnt) : Except Fail (List Byte) :=
  if x.kind = 2 then .ok (e.panel (s.cell n).wide)
  else match e.use x.role.toNat with
    | some u => s.readUse n u
    | none => .ok []

/-- What a producer's forward effect gives (R188). -/
def replayed (e : WuEnt) (free : Word) (src : Nat → List Byte) : List Byte :=
  if e.op.kind = .vcvtd then (cvtEval (cvtD e.op.w2) e.rm e.seed (elVals (cvtS e.op.w2) (src 1))).1
  else (vecEval e.op e.rm e.sat e.seed e.xs free src).dest

/-- Where a saved operand starts in its body. -/
def WuEnt.savedAt (e : WuEnt) (x : SEnt) : Nat := ((e.layout.1.find? fun p => p.1.role = x.role).map Prod.snd).getD 0

/-- Joins what operands gave. -/
def collect : List (Except Fail (Option Got)) → Except Fail Got
  | [] => .ok {}
  | .error z :: _ => .error z
  | .ok none :: r => collect r
  | .ok (some g) :: r =>
    match collect r with
    | .error z => .error z
    | .ok h => .ok { vals := g.vals ++ h.vals, stale := g.stale + h.stale, fold := g.fold ^^^ h.fold, refs := g.refs || h.refs }

/-- Bytes that the spec does not give: those of a producer whose sheaf holds no vector instruction any more, or that is its own
producer (log 12). -/
def State.freeBytes (s : State) (role n : Nat) : List Byte :=
  (List.range n).map fun i => (Config.freeWord (s.draws + 8192 * role + i)).setWidth 8

/-- A chain of producers longer than this meets a header twice: PROD has 17 bits. -/
def chainMax : Nat := 2 ^ 17

/-- One operand's values; `all` asks for those with FLAG 3 too, which a recomputation reads at their locations. The number bounds the
chain of producers. A replay operand out of reach adds 1 to STALE and its bytes stay out of the sheaf's own fold; a producer's changed
fold, met in a recomputation, counts each time that it is met, beside the count of that sheaf's own adjoint (R188, R196; DESIGN CHOICE,
log 122). -/
def State.valueOf (s : State) (n granBase : Nat) : Nat → Nat → Bool → WuEnt → SEnt → Except Fail (Option Got)
  | 0, _, _, e, x => .ok (some { vals := [(x.role.toNat, s.freeBytes x.role.toNat (e.valueLen x))] })
  | f + 1, start, all, e, x =>
    let role := x.role.toNat
    if x.flag = 0 then (s.readBytes n (start + e.savedAt x) (e.valueLen x)).map fun b => some { vals := [(role, b)] }
    else if x.flag = 1 then (s.readPlace n e x).map fun b => some { vals := [(role, b)], fold := foldBytes b, refs := true }
    else if x.flag = 3 then (if all ∧ role ≠ 0 then (s.readPlace n e x).map fun b => some { vals := [(role, b)] } else .ok none)
    else if x.prod.toNat < granBase then (s.readPlace n e x).map fun b => some { vals := [(role, b)], stale := 1 }
    else
      let h := s.sheafAt n x.prod.toNat
      match s.readBytes n (32 * x.prod.toNat) 32, (if h.void then none else h.decode) with
      | .error z, _ => .error z
      | .ok _, none => .ok (some { vals := [(role, s.freeBytes role (e.valueLen x))] })
      | .ok _, some p =>
        if !p.op.produces then .ok (some { vals := [(role, s.freeBytes role (e.valueLen x))] })
        else
          match collect ((p.ents.filter fun y => y.role ≠ 0).map fun y => State.valueOf s n granBase f h.start true p y) with
          | .error z => .error z
          | .ok g =>
            .ok (some { vals := [(role, replayed p s.free (assocGet [] g.vals))]
                        stale := g.stale + bit (g.refs && decide (g.fold ≠ p.fold)) })
/-- The values of a sheaf's operands. -/
def State.values (s : State) (n granBase start : Nat) (e : WuEnt) : Except Fail Got :=
  collect (e.ents.map fun x => s.valueOf n granBase chainMax start false e x)

/-- The LM bytes that reading an operand's values touches outside its own sheaf: its location, or its producer's sheaf and what that one
needs. -/
def State.valueRanges (s : State) (n granBase : Nat) : Nat → Bool → WuEnt → SEnt → List Range
  | 0, _, _, _ => []
  | f + 1, all, e, x =>
    let here := (e.use x.role.toNat).elim [] fun u => { u with write := false }.ranges
    let read := fun (o len : Nat) => ({ o := BitVec.ofNat 64 o, len := len, align := 32, write := false } : Range)
    if x.flag = 0 then []
    else if x.flag = 1 then here
    else if x.flag = 3 then (if all ∧ x.role ≠ 0 then here else [])
    else if x.prod.toNat < granBase then here
    else
      let h := s.sheafAt n x.prod.toNat
      [read (32 * x.prod.toNat) 32, read h.start (32 * (x.prod.toNat + 1) - h.start)] ++
        match (if h.void then none else h.decode) with
        | some p => if p.op.produces then (p.ents.filter fun y => y.role ≠ 0).flatMap fun y => State.valueRanges s n granBase f true p y else []
        | none => []

/-! ### Places of an instruction's elements -/

/-- LM places of a vector operand's elements. -/
def Use.places (u : Use) : List GLoc := (List.range u.count).map fun i => .lm (2 * u.st.at_ i)
/-- LM places and tile places of a moved block, by the tile's configuration (R177). -/
def WuEnt.moved (e : WuEnt) (st : Stream) (k : Nat) : List (GLoc × GLoc) :=
  let b := e.block
  (List.range b.2.1).flatMap fun i => (List.range b.2.2.2).map fun j =>
    (.lm (2 * (st.at_ i + j * tileWidth e.cfg)), .tile k ((b.1 + i) * tileCols e.cfg + b.2.2.1 + j))

/-- Places of A's element (i, k), and of B's packed value or dense element (R157 to R159, R163, R194). -/
def WuEnt.placeA (e : WuEnt) (i k : Nat) : GLoc := .lm (2 * e.s1.at_ i + k * (elBits (pairOf e.op.fn).a / 4))
def WuEnt.placeB (e : WuEnt) (masks : Array Nat) (k j : Nat) : Option GLoc :=
  let hb := elBits (pairOf e.op.fn).b / 4
  if e.op.kind.sparse then
    (sparseIndex masks e.op.groups (sparseN e.xs) k j).map fun ix => .wb ((2 * (wbOffset e.xs + 64 * e.op.groups) + ix * hb) % 0x100000)
  else some (.wb ((2 * wbOffset e.xs + (j * e.op.depth + k) * hb) % 0x100000))
def WuEnt.masks (e : WuEnt) (panel : List Byte) : Array Nat :=
  (if e.op.kind.sparse then (chunks 4 (panel.take (64 * e.op.groups))).map leNat else []).toArray

/-- The weight-buffer elements in WLD's lines that the map names, with their LM places (R177). -/
def WuEnt.wldPlaces (e : WuEnt) : List (GLoc × GLoc) :=
  (List.range (128 * wldLines e.xs)).filterMap fun b =>
    let h := (2 * wbOffset e.xs + b) % 0x100000
    match gmapFind e.gmap (.wb h) with
    | some (g, i) => if h = 2 * g.pstart + i * g.halves then some (.wb h, .lm (2 * e.s1.at_ (b / 128) + b % 128)) else none
    | none => none

/-- The destination's places and each source's, as the adjoint uses them. -/
def WuEnt.adjPlaces (e : WuEnt) (panel : List Byte) : List GLoc × List (Nat × List GLoc) :=
  let k := e.op.kind
  let of := fun r : Nat => (e.use r).elim [] Use.places
  match k with
  | .tcfg | .tzero => ((List.range 1024).map (.tile e.op.d), [])
  | .tld | .tldd => let m := e.moved e.s1 e.op.d; (m.map Prod.snd, [(1, m.map Prod.fst)])
  | .tst | .tstd => let m := e.moved e.sd e.op.a; (m.map Prod.fst, [(1, m.map Prod.snd)])
  | .wld => let m := e.wldPlaces; (m.map Prod.fst, [(1, m.map Prod.snd)])
  | .vrsum | .vrmax => ([.reg e.op.d], [(1, of 1)])
  | .vcvtd =>
    if cvtTile e.op.w2 then (of 0, [(1, (List.range (tileCount e.cfg)).map (.tile e.op.a))]) else (of 0, [(1, of 1)])
  | .vadd | .vsub | .vmul | .vmax | .vmin => (of 0, [(1, of 1), (2, of 2)])
  | .vfma => (of 0, [(1, of 1), (2, of 2), (3, of 3)])
  | .mma | .mmas | .mmao | .mmad | .mmasd | .mmaod =>
    let kk := e.op.depth
    let ms := e.masks panel
    ((List.range 256).map (.tile e.op.d),
      [(1, (List.range (16 * kk)).map fun q => e.placeA (q / kk) (q % kk)),
       (2, (List.range (16 * kk)).filterMap fun q => e.placeB ms (q / 16) (q % 16))])
  | _ => (of 0, [(1, of 1)])

/-! ### Element-wise adjoints (R177) -/

/-- One rounding of a term to binary32 (RNE). -/
def term (g : Grad) (o : Op) : Val × Grad :=
  let r := binary32.deliver true 0 0 o.v
  (binary32.value true true r.bits, { g with flags := g.flags ||| o.flags ||| r.flags })
def term2 (f : Val → Val → Op) (g : Grad) (a b : Val) : Val × Grad := term g (f a b)
def ln2Val : Val := binary32.value true true 0x3F317218

/-- The term of the first source: `dy` its gradient, `a` and `b` the sources' values, `y` the destination's. -/
def firstTerm (e : WuEnt) (g : Grad) (dy a b y : Val) : Val × Grad :=
  let mul := term2 opMul
  match e.op.kind with
  | .vmul | .vfma => mul g dy b
  | .vexp2 => let (t, g) := mul g dy y; mul g t ln2Val
  | .vlog2 => let (t, g) := mul g a ln2Val; term2 opDiv g dy t
  | .vrcp => let (t, g) := mul g dy y; let (t, g) := mul g t y; (t.negate, g)
  | .vrsq =>
    let (t, g) := mul g (.num { m := 1, e := -1 }) dy
    let (t, g) := mul g t y
    let (t, g) := mul g t y
    let (t, g) := mul g t y
    (t.negate, g)
  | .vtanh => let (t, g) := mul g y y; let (t, g) := term2 (opSub 0) g (.num { m := 1 }) t; mul g dy t
  | .vscale => mul g (binary32.value true true (e.xs.toNat % 2 ^ 32)) dy
  | .vcvt | .vcvtd =>
    let ty := if e.op.kind = .vcvt then 0 else cvtS e.op.w2
    let r := (elFmt ty).deliver true 0 0 dy
    ((elFmt ty).value (ty != 8) true r.bits, { g with flags := g.flags ||| r.flags ||| flagIf dy.sNan flagNV })
  | _ => (dy, g)

/-- Adds one element's terms to its sources, in the order of R177. -/
def addTerms (v : GradEnv) (e : WuEnt) (places : Nat → Array GLoc) (a b y : Array Val) (mask : Array Bool) (dys : Array Val) (g : Grad) (i : Nat) :
    Grad :=
  let z : Val := .num {}
  let at_ := fun r : Nat => (places r).getD i (.reg 32)
  let dy := match e.op.kind with
    | .vrsum | .vrmax => dys.getD 0 z
    | .vxpose => let c := vecLen e.op.fn / 8; dys.getD (i % c * 8 + i / c) z
    | _ => dys.getD i z
  let (t, g) := firstTerm e g dy (a.getD i z) (b.getD i z) (y.getD i z)
  match e.op.kind with
  | .vmax | .vmin => v.add g (at_ (if mask.getD i true then 1 else 2)) t
  | .vadd => v.add (v.add g (at_ 1) t) (at_ 2) dy
  | .vsub => v.add (v.add g (at_ 1) t) (at_ 2) dy.negate
  | .vmul | .vfma =>
    let g := v.add g (at_ 1) t
    let (u, g) := term2 opMul g dy (a.getD i z)
    let g := v.add g (at_ 2) u
    if e.op.kind = .vfma then v.add g (at_ 3) dy else g
  | _ => v.add g (at_ 1) t

/-- An element-wise adjoint. The elements go in increasing index, all of one element's terms before the next one's, which tells where
places of sources overlap (DESIGN CHOICE, log 123). -/
def elementAdjoint (v : GradEnv) (e : WuEnt) (vals : Nat → List Byte) (extra : List Byte) (g : Grad) : Grad :=
  let (dst, srcs) := e.adjPlaces []
  let (dys, g) := v.readAll g dst
  let g := dst.foldl (fun g l => v.put g l (.num {})) g
  let ty := e.op.fn
  let arr := fun r : Nat => (elVals ty (vals r)).toArray
  let places := fun r : Nat => (assocGet [] srcs r).toArray
  let mask := (extra.flatMap fun b => (List.range 8).map b.getLsbD).toArray
  let n := (places 1).size
  let only := if e.op.kind = .vrmax then some (leNat extra) else none
  let a := arr 1
  let b := arr 2
  let y := arr 0
  (List.range n).foldl (fun g i => if only.all (· == i) then addTerms v e places a b y mask dys.toArray g i else g) g

/-! ### Matrix adjoints (R194) -/

/-- A's effective values with MMAO's corrections, exact (R164, R194). -/
def correctedA (op : WuOp) (sc : List Byte) (m : Mats) (es : List (Nat × Val)) : Array Op :=
  es.foldl (fun a x =>
    if x.1 < 16 * m.k then
      let c := opMul x.2 (scaleA op sc (x.1 / m.k) (x.1 % m.k))
      let o := a.getD x.1 { v := .num {} }
      let r := opAdd 0 o.v c.v
      a.setIfInBounds x.1 { v := r.v, flags := o.flags ||| c.flags ||| r.flags }
    else a) m.a

def matrixAdjoint (v : GradEnv) (e : WuEnt) (vals : Nat → List Byte) (g : Grad) : Grad :=
  let sc := vals 4
  let m := matsOf e.op e.xs g.wide (vals 1) (vals 2) sc
  let ma := if e.op.kind.outlier then correctedA e.op sc m (listEntries (vals 5)) else m.a
  let ms := e.masks (vals 2)
  let cs := (List.range 256).map (GLoc.tile e.op.d)
  let (gs, g) := v.readAll g cs
  let gs := gs.toArray
  let gv := fun i j : Nat => ({ v := gs.getD (16 * i + j) (.num {}) } : Op)
  let zero : Op := { v := .num {} }
  let step := fun (g : Grad) (l : GLoc) (ps : List Op) =>
    let (c, g) := v.read g l
    let r := sumOrder (a48.deliver true 0 0 c).bits ps
    v.put { g with flags := g.flags ||| r.2 ||| flagIf c.sNan flagNV } l (a48.value false true r.1)
  let g := (List.range (16 * m.k)).foldl (fun g q =>
    step g (e.placeA (q / m.k) (q % m.k)) ((List.range 16).map fun j =>
      match m.b.getD (q % m.k * 16 + j) none with
      | some b => prodOp (gv (q / m.k) j) b
      | none => zero)) g
  let g := (List.range (16 * m.k)).foldl (fun g q =>
    match e.placeB ms (q / 16) (q % 16) with
    | some l => step g l ((List.range 16).map fun i => prodOp (ma.getD (i * m.k + q / 16) zero) (gv i (q % 16)))
    | none => g) g
  if mmaZero e.op.w2 then cs.foldl (fun g l => v.put g l (.num {})) g else g

/-! ### The effect of an adjoint -/

/-- Its tile's configuration is that of its start (R177). -/
def WuEnt.atStart (e : WuEnt) (w : Wide) : WuEnt :=
  match e.op.tile with
  | some k => { e with cfg := (vget w.tiles k).cfg }
  | none => e

def adjointEffect (e0 : WuEnt) (n start : Nat) (s : State) : Except Fail Effect :=
  let w := (s.cell n).wide
  let e := e0.atStart w
  match s.values n e.granBase.toNat start e with
  | .error f => .error f
  | .ok got =>
    match s.readBytes n (start + e.extraAt) e.op.extraLen with
    | .error f => .error f
    | .ok extra =>
      let env : GradEnv := { gm := e.gmap, base := nodeBase n, bad := fun a => s.poisonedIn (nodeBase n + a) 4 }
      let vals := assocGet [] got.vals
      let g : Grad := { mem := s.mem, wide := w }
      let g := if e.op.kind.isMma then matrixAdjoint env e vals g else elementAdjoint env e vals extra g
      match g.bad with
      | some a => .error { cause := 0x50, addr := BitVec.ofNat 64 a }
      | none =>
        .ok { wide := if e.op.kind.isMma then { g.wide with recheck := g.wide.recheck + 1 } else g.wide
              lm := g.wrote.map fun a => (a, g.mem.slice (nodeBase n + a) 4)
              flags := g.flags, stale := got.stale + bit (got.refs && decide (got.fold ≠ e.fold)) }

/-! ### RVS's enqueue of an adjoint (R192, R193) -/

/-- Entries of the map that places touch, with the index in them. -/
def touched (gm : List GEnt) (ls : List GLoc) : List (GEnt × Nat) := ls.filterMap (gmapFind gm)
/-- The panel as the checks see it: saved in the body, or in the weight buffer. -/
def State.peekPanel (s : State) (n start : Nat) (e : WuEnt) : List Byte :=
  match e.ents.find? fun x => x.kind = 2 with
  | some x => if x.flag = 0 then s.bytes (nodeBase n + start + e.savedAt x) (e.valueLen x) else e.panel (s.cell n).wide
  | none => []
/-- Checks 1 to 5 of R141 and R192 on an adjoint. -/
def State.adjointFail (s : State) (n : Nat) (slot : BitVec 2) (start len : Nat) (e : WuEnt) : Option Fail :=
  let w := (s.cell n).wide
  let g := s.grant n slot
  let (dst, srcs) := e.adjPlaces (s.peekPanel n start e)
  let ts := touched e.gmap (dst ++ srcs.flatMap Prod.snd)
  let staged := (ts.filter fun p => p.1.acc).map Prod.fst
  let words : List Range := (ts.filter fun p => !p.1.acc).map fun p =>
    { o := BitVec.ofNat 64 (p.1.gstart + 4 * p.2), len := 4, align := 4, write := true }
  let own : Range := { o := BitVec.ofNat 64 start, len := 32 * len, align := 32, write := false }
  let rs := words ++ e.ents.flatMap (s.valueRanges n e.granBase.toNat chainMax false e) ++ [own]
  let refB := e.ents.any fun x => decide (x.kind = 2) && decide (x.flag = 1)
  firstFail (illegalIf (e.breach || staged.any fun x => let c := (vget w.tiles x.stile).cfg; decide (tileEtype c ≠ 0) || decide (tileCount c < x.count)))
    (firstFail (rangeFail n rs) (firstFail (alignFail rs) (firstFail (grantFail g slot rs)
      (firstFail (if staged.all (fun x => grantsTile g x.stile) && (!e.op.kind.isMma || e.op.tabs.all (grantsTab g))
          && (!refB || e.lines.all fun p => grantsLines g p.1 p.2) then none else some { cause := 0x40 })
        (slotFail w.inForce slot)))))

/-- TCFG's adjoint is none unless its tile was cleared (R177). -/
def WuEnt.noAdjoint (e : WuEnt) : Bool := decide (e.op.kind = .tcfg) && !e.clr

/-- The adjoint as it is captured. -/
def WuEnt.forRvs (e : WuEnt) (A : Args) (s : State) : WuEnt :=
  let th := A.th s
  let e := e.atStart (s.cell A.n).wide
  { e with op := { e.op with w1 := A.word }, thr := A.t, ctx := A.ctx s, slot := A.slot s, pc := A.pc, gmap := th.gmap, granBase := th.ctrl.granBase }

/-- Moves GRAN_HEAD past a sheaf and counts it. -/
def State.passSheaf (s : State) (A : Args) (len : Nat) : State :=
  s.modThread A.n A.t fun th =>
    (th.modCtrl fun c => { c with granHead := c.granHead - BitVec.ofNat 17 len }).modRun fun r => { r with rvsDone := r.rvsDone + 1 }

/-- RVS's loop (R193), as far as the core's queue has room: each turn passes one sheaf. -/
def rvsLoop (A : Args) : Nat → State → Res
  | 0, s => .wait s
  | f + 1, s =>
    let th := A.th s
    let lim := (A.ra s).toNat % 2 ^ 32
    let head := th.ctrl.granHead.toNat
    if head ≤ th.ctrl.granBase.toNat ∨ (lim ≠ 0 ∧ lim ≤ th.run.rvsDone) then
      let s := s.writeVarD A (BitVec.ofNat 64 th.run.rvsDone)
      .done (s.modThread A.n A.t fun th => th.modRun fun r => { r with rvsDone := 0 })
    else
      let o := 32 * head - 32
      let hurt := s.poisonedIn (nodeBase A.n + o) 32
      if hurt && s.precise A.n (A.slot s) then .trapIn s { cause := 0x50, addr := BitVec.ofNat 64 o }
      else
        let s := if hurt then s.modThread A.n A.t fun th => th.failed (BitVec.ofNat 64 o) 0 else s
        let h := s.sheafAt A.n (head - 1)
        if h.malformed head th.ctrl.granBase.toNat then .trapIn s (failGran 2 0)
        else
          match (if h.void then none else h.decode) with
          | none => rvsLoop A f (s.passSheaf A h.len)
          | some e =>
            let e := e.forRvs A s
            if e.noAdjoint then rvsLoop A f (s.passSheaf A h.len)
            else if (s.core A.n A.t).wuFull then .wait s
            else
              match s.adjointFail A.n (A.slot s) h.start h.len e with
              | some z => .trapIn s z
              | none => rvsLoop A f ((s.modCore A.n A.t fun c => { c with wuq := c.wuq ++ [e] }).passSheaf A h.len)

/-- RVS: an execution that waits goes on from GRAN_HEAD at the thread's next turn (log 13). -/
def rvsBody (A : Args) (s : State) : Res :=
  let th := A.th s
  if th.ctrl.recd then .illegal
  else if !th.ctrl.granOk then .trap (failGran 1 0)
  else if th.run.rvsDone = 0 ∧ !s.wuIdle A.n A.t then .wait s
  else rvsLoop A 64 s

def execRvs (c : Ctl) (d a : BitVec 5) (s : State) : Out := run (.rvs c d a) false rvsBody s

/-! ### REC and GMAP -/

/-- `rec xs1` (R178). -/
def recBody (A : Args) (s : State) : Res :=
  let p := (A.ra s).setWidth 6
  let th := A.th s
  if bitsOf p.toNat 0 2 = 3 ∨ 2 ≤ bitsOf p.toNat 2 2 ∨ 2 ≤ bitsOf p.toNat 4 2 then .illegal
  else if !th.ctrl.granOk then .trap (failGran 1 0)
  else
    .done (s.modThread A.n A.t fun th =>
      { th.modCtrl (fun c => { c with recPol := p, recd := true }) with prods := if th.ctrl.recd then th.prods else [] })
def execRecStart (c : Ctl) (a : BitVec 5) (s : State) : Out := run (.recStart c a) false recBody s
def execRecStop (c : Ctl) (s : State) : Out :=
  run (.recStop c) false (fun A s => .done (s.modThread A.n A.t fun th => th.modCtrl fun k => { k with recd := false })) s

/-- The 16 entries of a table image. -/
def gmapOf (bs : List Byte) : List GEnt :=
  (chunks 16 bs).map fun b => { w0 := BitVec.ofNat 64 (leNat (b.take 8)), w1 := BitVec.ofNat 64 (leNat (b.drop 8)) }
/-- GMAP (R190): local loads of 8 bytes. -/
def gmapBody (A : Args) (s : State) : Res :=
  let o := A.ra s
  Res.unless (s.checkLM A.n (A.slot s) o 256 8 0)
    (match s.loadUnits A o.toNat 256 8 0 with
      | .error f => .trap f
      | .ok (v, s') =>
        let gm := gmapOf (natBytes 256 v)
        if gm.any fun g => g.v && !g.ok then .illegal
        else .done (s'.modThread A.n A.t fun th => { th with gmap := gm }))
def execGmap (c : Ctl) (a : BitVec 5) (s : State) : Out := run (.gmap c a) false gmapBody s

end Sys2Proof.Machine
end

