-- ==== Sys2Proof/Machine/Context.lean ====
section
/-! DEFINITION. The context table's commits (R328 to R330), the removal of translations (R341, R342), and a context's teardown
(R333). -/

namespace Sys2Proof.Machine

/-! ### The context table (R328, R329) -/

/-- Word `k` of an entry as it reads: BUSY is a teardown's (R333). -/
def CtxEnt.read (e : CtxEnt) (k : Nat) : Word :=
  if k = 0 ∧ e.busy then vget e.words 0 ||| 0x2000000000000000 else vget e.words k
def CtxEnt.v (e : CtxEnt) : Bool := (vget e.words 0).getLsbD 63
def ctxPorts (w0 : Word) : Nat := bitsOf w0.toNat 48 8
/-- ALLOW_ORG, ALLOW_EXT, the GRANT template and WUMASK. -/
def CtxEnt.allow (e : CtxEnt) : Region :=
  Region.ofWords (bitsOf (vget e.words 1).toNat 0 32) (bitsOf (vget e.words 1).toNat 32 32)
def CtxEnt.grant (e : CtxEnt) : Word := vget e.words 2
def CtxEnt.wuMask (e : CtxEnt) : Nat := bitsOf (vget e.words 3).toNat 0 16

/-- Reserved bits of the eight words that a commit would put in place. -/
def ctxReserved (w0 : Word) (ws : Vector Word 8) : Bool :=
  decide (w0 &&& 0x1f00000000003fff ≠ 0) || decide (vget ws 1 &&& 0xff000000ff000000 ≠ 0)
    || decide (vget ws 2 &&& 0x1f00000fff ≠ 0) || decide (vget ws 3 &&& ~~~0xffff#64 ≠ 0)
    || [4, 5, 6, 7].any fun k => decide (vget ws k ≠ 0)
/-- The limits of ALLOW_EXT and of GRANT (R328, R332). -/
def ctxLimits (ws : Vector Word 8) : Bool :=
  let w := (vget ws 1).toNat
  let g := (vget ws 2).toNat
  let okE := fun (lo most : Nat) => decide (1 ≤ bitsOf w lo 8) && decide (bitsOf w lo 8 ≤ most)
  okE 32 16 && okE 40 16 && okE 48 8 && decide (bitsOf g 12 10 ≤ bitsOf g 22 10) && decide (bitsOf g 22 10 ≤ 768)
    && decide (bitsOf g 37 8 ≤ 128)

/-- Nodes that hold a slot for the context, with the slot. -/
def State.hostsOf (s : State) (ctx : Nat) : List (Nat × BitVec 2) :=
  s.cells.filterMap fun p => (s.slotOf p.1 ctx).map fun k => (p.1, k)
/-- Some slot of the context is IN or DRAIN. -/
def State.ctxLive (s : State) (ctx : Nat) : Bool :=
  (s.hostsOf ctx).any fun p => decide ((s.cell p.1).sched.slotState p.2 ≤ 1)

/-- The commit fails (R330). -/
def State.commitFails (s : State) (c : Nat) (v : Word) : Bool :=
  let e := s.ctxEnt c
  let w0 := v &&& ~~~0x2000000000000000
  let on := v.getLsbD 63
  ctxReserved w0 e.staged || !ctxLimits e.staged || e.busy
    || (on && decide (spaceOf (entryAddr w0) ≠ .bulk))
    || (s.ctxs.any fun p => decide (p.1 ≠ c) && p.2.v && decide (ctxPorts (vget p.2.words 0) &&& ctxPorts w0 ≠ 0))
    || (if on then
          !(s.hostsOf c).isEmpty
            && (decide ((w0 ^^^ vget e.words 0) &&& ~~~0x0000ffffffffc000 ≠ 0)
                || [1, 2, 3, 4, 5, 6, 7].any fun k => decide (vget e.staged k ≠ vget e.words k))
        else s.ctxLive c)

def State.setCtx (s : State) (c : Nat) (e : CtxEnt) : State := { s with ctxs := assocSet s.ctxs c e }

/-- The context that owns a port (R344). -/
def State.portOwner (s : State) (n : Nat) : Option Nat :=
  (s.ctxs.find? fun p => p.2.v && (ctxPorts (vget p.2.words 0)).testBit n).map Prod.fst
/-- A port goes DOWN: nothing travels over it any more. -/
def Port.down (p : Port) : Port :=
  { p with st := 0, lanes := 0, queue := [], unacked := [], narrow := none, call := false, above := false, wake := false, parkReq := none
           away := [], rxFlits := [], owed := [] }
/-- A port that no context owns is DOWN (R344). -/
def State.downUnowned (s : State) : State :=
  { s with ports := s.ports.zipIdx.map fun (q : Port × Nat) => if (s.portOwner q.2).isNone ∧ q.1.st ≠ 0 then q.1.down else q.1 }

/-- A write of word 0 (R330): V = 1 changes the entry as one; V = 0 begins a teardown, which leaves word 0 to its end (R333). -/
def State.commit (s : State) (c : Nat) (v : Word) : State :=
  let w0 := v &&& ~~~0x2000000000000000
  if s.commitFails c v then s
  else
    let e := s.ctxEnt c
    let ws := vset e.staged 0 (if w0.getLsbD 63 then w0 else vget e.words 0)
    if w0.getLsbD 63 then (s.setCtx c { e with words := ws }).downUnowned
    else
      let s := s.setCtx c { words := ws, staged := vset e.staged 0 w0, busy := true }
      { s with cox := { s.cox with teardowns := s.cox.teardowns ++ [c] } }
/-- A write of word `k` of an entry: words 1 to 7 are staged. -/
def State.writeCtx (s : State) (c k : Nat) (v : Word) : State :=
  if k = 0 then s.commit c v
  else
    let e := s.ctxEnt c
    s.setCtx c { e with staged := vset e.staged k v }

/-- CONTEXT_COMMIT (R330). -/
def execContextCommit (ctx : Nat) (v : BitVec 64) (s : State) : Out := .next (if ctx < 64 then s.commit ctx v else s)

/-! ### Removing translations (R341, R342) -/

/-- What a TLBI removes: WHAT, CTX, the address, and the dies in scope. -/
structure Tlbi where
  what : Nat
  ctx  : Nat
  va   : Word
  dies : List Nat
deriving DecidableEq, Repr, Inhabited

/-- It removes a translation of a context at a virtual address with a leaf of that level. -/
def Tlbi.hits (x : Tlbi) (ctx lvl page : Nat) : Bool :=
  match x.what with
  | 0 => decide (ctx = x.ctx) && canonical x.va && decide (vpn x.va lvl = page)
  | 1 => decide (ctx = x.ctx)
  | _ => true
/-- It removes a cached translation: a CONTIG entry also where it may serve another page of its group (R336). -/
def Tlbi.removes (x : Tlbi) (e : TlbEnt) : Bool :=
  x.hits e.ctx e.level e.vpn || (decide (x.what = 0) && decide (e.ctx = x.ctx) && canonical x.va && e.groupHas x.va)
/-- A message that was translated by a removed translation. -/
def Tlbi.hitsMsg (x : Tlbi) (m : Msg) : Bool :=
  match m.va with
  | some va => x.hits m.ctx m.lvl (vpn va m.lvl)
  | none => false

/-- Removes the translations from the TLBs in scope, and marks the outbox slots of the nodes there. -/
def State.tlbi (s : State) (x : Tlbi) (inScope : Nat → Bool) : State :=
  let mark := fun th : Thread => th.modRun fun r =>
    { r with outbox := r.outbox.map fun m => if x.hitsMsg m then { m with retr := true } else m }
  { s with
    tlb := s.tlb.filter fun e => !(x.dies.contains e.die && x.removes e)
    cells := s.cells.map fun p =>
      if inScope p.1 then (p.1, { p.2 with threads := p.2.threads.map fun q => (q.1, mark q.2) }) else p }

/-- The loads and forward-buffer writes in scope that used a removed translation: the TLBI is complete when none of them is
left. -/
def State.tlbiWaits (s : State) (x : Tlbi) (inScope : Nat → Bool) : List Nat :=
  s.cells.flatMap fun p =>
    if inScope p.1 then (p.2.mem.fwd.filter fun e => x.hitsMsg e.msg).map fun e => e.msg.id else []
/-- Some forward buffer still holds one of the messages. -/
def State.anyInFlight (s : State) (ids : List Nat) : Bool :=
  !ids.isEmpty && s.cells.any fun p => p.2.mem.fwd.any fun e => ids.contains e.msg.id

/-- All dies: the eight fabric dies and the sill. -/
def allDies : List Nat := List.range 9
def deviceTlbi (what ctx : Nat) (va : Word) : Tlbi := { what := what, ctx := ctx, va := va, dies := allDies }

/-- A control word that breaks the limits of R341. -/
def tlbiBad (v : Word) : Bool :=
  decide (v &&& ~~~0x3f37#64 ≠ 0) || decide (bitsOf v.toNat 4 2 = 3)
/-- The host's TLBI (R342), always at device scope; a word outside the limits of R341 removes nothing (log 15). -/
def State.hostTlbi (s : State) (v : Word) : State :=
  let s := { s with cox := { s.cox with tlbiCtl := v &&& ~~~0x8000000000000000#64 } }
  if tlbiBad v then s
  else
    let x := deviceTlbi (bitsOf v.toNat 4 2) (bitsOf v.toNat 8 6) s.cox.tlbiAddr
    let s := s.tlbi x fun _ => true
    { s with cox := { s.cox with tlbiWait := s.tlbiWaits x fun _ => true } }
/-- The control word as it reads: bit 63 until the conditions hold. -/
def State.tlbiWord (s : State) : Word :=
  s.cox.tlbiCtl ||| if s.anyInFlight s.cox.tlbiWait then 0x8000000000000000 else 0
def execHostTlbi (v : BitVec 64) (s : State) : Out := .next (s.hostTlbi v)

/-! ### Teardown (R333) -/

/-- Zeroes a range of a node's local memory that starts and ends on lines: sharers and poison go, and no run restores the old
bytes. -/
def State.zeroRange (s : State) (n lo hi : Nat) : State :=
  let a := nodeBase n + lo
  let b := nodeBase n + hi
  let inside := fun l : Nat => decide (a ≤ l) && decide (l < b)
  let lines := ((s.cell n).mem.dir.filter fun e => inside e.line).map DirEnt.line
  let s := lines.foldl (fun s l => s.dropSharers n l) s
  let clean := fun th : Thread => th.modRun fun r =>
    { r with undo := r.undo.map fun u => if inside u.line then { u with mask := 0 } else u }
  let s := s.modCell n fun c => { c with threads := c.threads.map fun q => (q.1, clean q.2) }
  { s with mem := s.mem.clear a b, poison := s.poison.filter fun l => !inside l }

/-- Steps 1 and 2: frozen threads abandoned, forward-buffer entries dropped with what they sent. -/
def State.tearThreads (s : State) (n ctx : Nat) : State :=
  let ts := ((s.cell n).threads.filter fun p => decide (p.2.run.st = .frozen) && decide (p.2.ctx = ctx)).map Prod.fst
  let s := ts.foldl (fun s t => s.abandon n t) s
  let out := fun m : Msg => decide (m.cls = 0) && decide (m.src = n) && decide (m.ctx = ctx)
  let s := s.modMem n fun m => { m with fwd := m.fwd.filter fun e => !out e.msg }
  { s with net := s.net.filter fun m => !out m
           cells := s.cells.map fun p => (p.1, p.2.modMem fun m => { m with pending := m.pending.filter fun r => !out r.msg }) }

/-- Handler entries of a slot (R272). -/
def handlerV (w : Word) : Bool := w.getLsbD 63
def handlerSlot (w : Word) : BitVec 2 := w.extractLsb' 61 2

/-- Step 3: arm entries, ready entries, fired descriptors, FIFO elements, landing slots and handlers of the slot. -/
def Cell.tearSched (c : Cell) (slot : BitVec 2) : Cell :=
  let own := fun d : Desc => decide (d.slot = slot)
  let sc := c.sched
  let lands := ((sc.fired.map FiredEnt.desc ++ sc.ready.toList.flatMap fun b => b.map ReadyEnt.desc).filter own).filterMap Desc.landing
  let ready := sc.ready.map fun b => b.filter fun e => !own e.desc
  let sc := { sc with
    arms := sc.arms.filter fun a => !own a.desc
    ready := ready
    fired := sc.fired.filter fun f => !own f.desc
    moves := sc.moves.filter fun m => ready.toList.any fun b => b.any fun e => e.age = m.age
    landing := sc.landing.filter fun l => !lands.contains l
    handlers := sc.handlers.map fun w => if handlerSlot w = slot then 0 else w }
  { c with sched := sc.after c.sched
           mem := { c.mem with fifoC := vset c.mem.fifoC slot.toNat [], fifoL := vset c.mem.fifoL slot.toNat [] } }

/-- Bytes of the weight buffer that a unit number of a grant covers. -/
def wbUnit (k : Nat) : Nat × Nat := (k % 128 * 4096, k % 128 * 4096 + 4096)
/-- Step 4's part of the wide unit and of the threads; what the slot still has in the dispatch queues goes with it (log 15). -/
def Cell.tearWide (c : Cell) (slot : BitVec 2) (g : Word) : Cell :=
  let w := c.wide
  let gone := fun k : Nat => g.getLsbD (56 + k)
  let base := bitsOf g.toNat 45 7
  let tiles := (List.range 8).foldl (fun v k => if gone k then vset v k ({} : Tile) else v) w.tiles
  let dtabs := (List.range 4).foldl (fun v k => if g.getLsbD (52 + k) then vset v k ({} : DTab) else v) w.dtabs
  let units := (List.range (min 128 (bitsOf g.toNat 37 8))).map fun k => wbUnit (base + k)
  let wb := units.foldl (fun m u => Store.clear u.1 u.2 m) w.wb
  let keepBad := fun b : Nat =>
    if b < 8 then !gone b
    else if b < 12 then !g.getLsbD (52 + (b - 8))
    else if 16 ≤ b then !units.any fun u => decide (u.1 ≤ (b - 16) * 64) && decide ((b - 16) * 64 < u.2)
    else true
  let unslot := (List.range 16).foldl (fun m k =>
    if m.getLsbD (4 * k + 3) && decide (bitsOf m.toNat (4 * k) 2 = slot.toNat) then m &&& ~~~(field 15 (4 * k)) else m) w.slots
  { c with
    wide := { w with tiles := tiles, dtabs := dtabs, wb := wb, bad := w.bad.filter keepBad, slots := unslot }
    cores := c.cores.map fun k => { k with wuq := k.wuq.filter fun e => e.slot ≠ slot }
    threads := c.threads.map fun q =>
      (q.1, q.2.modRun fun r => { r with copies := vset r.copies slot.toNat {} }) }
where
  field (v lo : Nat) : Word := BitVec.ofNat 64 (v * 2 ^ lo)

/-- Zeroes what a slot's grant covers of a node's local memory: nothing of the windows of other slots is in it (R332, R333). -/
def State.zeroGrant (s : State) (n : Nat) (slot : BitVec 2) (g : Word) : State :=
  (s.zeroRange n (max (grantBase g) 0x2000) (grantLimit g)).zeroRange n (0x800 * slot.toNat) (0x800 * slot.toNat + 0x800)
/-- Steps 4 and 5 in one node. -/
def State.tearNode (s : State) (ctx : Nat) (p : Nat × BitVec 2) : State :=
  let (n, slot) := p
  let g := s.grant n slot
  let s := (s.tearThreads n ctx).modCell n fun c => c.tearSched slot
  let s := s.zeroGrant n slot g
  let s := (s.modCell n fun c => c.tearWide slot (if isChan n then 0 else g)).busy n
  s.modCell n fun c =>
    { c with err := { c.err with grants := vset c.err.grants slot.toNat 0 }
             sched := { (c.sched.setSlotState slot 0) with slotCtx := vset c.sched.slotCtx slot.toNat none } }

/-! ### The drain of optical ports (R333, R348) -/

/-- Ports of a mask. -/
def maskPorts (mask : Nat) : List Nat := (List.range 8).filter fun n => mask.testBit n
def State.modPorts (s : State) (ns : List Nat) (f : Nat → Port → Port) : State := ns.foldl (fun s n => s.modPort n (f n)) s
/-- Changes every engine's commands to ports of a mask. -/
def State.modPortCmds (s : State) (mask : Nat) (f : EngCmd → EngCmd) : State :=
  let upd := fun c : EngCmd => if c.port.any fun p => mask.testBit p then f c else c
  { s with cells := s.cells.map fun p => (p.1, p.2.modMem fun m => { m with engines := m.engines.map upd }) }
/-- Phase 1 (R348): commands that have not begun are held; the ports are DRAINING. -/
def State.portHold (s : State) (mask : Nat) : State :=
  (s.modPortCmds mask fun c => if c.begun || c.stopped then c else { c with held := true }).modPorts (maskPorts mask)
    fun _ p => { p with st := 3 }
/-- Phase 2 (R348) is not over: flits wait, the peer has not acknowledged every frame, or some command to a port of the mask has begun
and is not done. -/
def State.portBusy (s : State) (mask : Nat) : Bool :=
  ((maskPorts mask).any fun n => !(vget s.ports n).queue.isEmpty || !(vget s.ports n).unacked.isEmpty)
    || s.cells.any fun p => p.2.mem.engines.any fun c => c.begun && !c.stopped && c.port.any fun q => mask.testBit q
/-- Stops a command at an address (R248). -/
def EngCmd.stop (c : EngCmd) (status : BitVec 8) (va : Word) : EngCmd :=
  if c.stopped then c else { c with stopped := true, status := status, fail := va }
/-- A port's lines are no longer on their way: what waits for them hears nothing more. -/
def State.dropPortLines (s : State) (mask : Nat) : State :=
  let at_ := fun m : Msg => (portAt m.dst).any fun p => mask.testBit p
  { s with net := s.net.filter fun m => !at_ m
           cells := s.cells.map fun p => (p.1, p.2.modMem fun m => { m with fwd := m.fwd.filter fun e => !at_ e.msg }) }
/-- At the end of phase 2 (R348) commands that still run stop with STATUS 4. -/
def State.portStop (s : State) (mask : Nat) : State :=
  (s.modPortCmds mask fun c => if c.begun then { c.stop 4 (c.dst + BitVec.ofNat 64 c.pos) with lines := [] } else c).dropPortLines mask
/-- Phase 5 (R348): held commands never begin and stop with STATUS 4. -/
def State.portRelease (s : State) (mask : Nat) : State :=
  s.modPortCmds mask fun c => if c.begun then c else { c with held := false }.stop 4 c.dst

/-- The first part of a teardown: the nodes, the TLBI, and the hold of the ports that carry frames. -/
def State.tearBegin (s : State) (ctx : Nat) : State :=
  let s := ((s.hostsOf ctx).foldl (fun s p => s.tearNode ctx p) s).tlbi (deviceTlbi 1 ctx 0) fun _ => true
  let e := s.ctxEnt ctx
  (s.setCtx ctx { e with drain := some s.fab }).portHold (ctxPorts (vget e.words 0))
/-- What ends a teardown: the ports DOWN, the entry with V = 0. -/
def State.tearEnd (s : State) (ctx : Nat) : State :=
  let e := s.ctxEnt ctx
  let mask := ctxPorts (vget e.words 0)
  let s := ((s.portStop mask).portRelease mask).modPorts (maskPorts mask) fun _ p => p.down
  let s := s.setCtx ctx { e with words := vset e.words 0 (vget e.staged 0), busy := false, drain := none }
  { s with cox := { s.cox with launches := s.cox.launches.filter fun l => l.ctx ≠ ctx
                               teardowns := s.cox.teardowns.filter fun c => c ≠ ctx } }

/-- 10 ms in fabric cycles (R312, R348). -/
def tenMs : Nat := 20000000
/-- CONTEXT_TEARDOWN (R333): the teardown that a commit began, in every cell and channel core where the context holds a slot; its ports go
DOWN once they have drained, or 10 ms have passed. -/
def State.teardown (s : State) (ctx : Nat) : State :=
  let e := s.ctxEnt ctx
  if !e.busy then s
  else
    match e.drain with
    | none => s.tearBegin ctx
    | some t => if s.portBusy (ctxPorts (vget e.words 0)) && decide (s.fab < t + tenMs) then s else s.tearEnd ctx
def execContextTeardown (ctx : Nat) (s : State) : Out := .next (s.teardown ctx)

end Sys2Proof.Machine
end

