-- ==== Sys2Proof/Machine/Control.lean ====
section
/-! DEFINITION. Control transfer (R112, R113), zero-overhead loops (R114 to R116) and the issue of END (R117). -/

namespace Sys2Proof.Machine

/-! ### Shared effects -/

/-- A conditional branch (R112): rs1 and rs2 compared, the target counted in words from the chain's address. -/
def branch (taken : Word → Word → Bool) (imm : Word) (A : Args) (s : State) : Res :=
  if taken (A.ra s) (A.rb s) then .jump s (A.pc + 4 * imm) else .done s

/-- A jump (R113): the target is computed before rd is written. R49's table gives no latency for JAL's J form nor for JALW: the link takes
latency 1 (DESIGN CHOICE, log 124). -/
def jumpLink (target : Args → State → Word) (A : Args) (s : State) : Res := .jump (s.writeD A 1 A.nxt) (target A s)

/-- The words of the instruction at an address as far as its length shows (R114): the prefixes, up to a fifth, and the subject's first
word. -/
def State.shapeFrom (s : State) (n ctx : Nat) (va : Word) (seen : Nat) : Nat → Except Fail Nat
  | 0 => .error { cause := 0x03 }
  | k + 1 =>
    match s.fetchWord n ctx va with
    | .error f => .error f
    | .ok w =>
      if isPfx w then
        (if k = 0 then .error { cause := 0x03 } else State.shapeFrom s n ctx (va + 4) (seen + 1) k)
      else if (w.getLsbD 2 = true) ≠ (0 < seen) then .error { cause := 0x02 }
      else .ok (seen + if w.extractLsb' 0 2 = 2#2 then 2 else 1)

/-- Opens loop set k (R114). -/
def openLoop (k : Nat) (start last count : Word) (th : Thread) : Thread :=
  { th with
    lpStart := vset th.lpStart k ((start.setWidth 58).setWidth 64)
    lpEnd := vset th.lpEnd k ((last.setWidth 58).setWidth 64)
    lpCount := vset th.lpCount k ((count.setWidth 32).setWidth 64) }

/-- The effect of LOOP and LOOPI (R114): `last` is the address of the last body instruction. -/
def loopBody (last : Args → State → Word) (A : Args) (s : State) : Res :=
  let z := last A s
  let count := A.ra s
  let opened := s.modThread A.n A.t (openLoop A.d A.nxt z count)
  if count.setWidth 32 ≠ (0 : BitVec 32) then .done opened
  else
    match s.shapeFrom A.n (A.ctx s) (vaOf (z.setWidth 58)) 0 5 with
    | .error f => .trap f
    | .ok k => .jump opened (vaOf (z.setWidth 58) + BitVec.ofNat 64 (4 * k))

/-! ### Branches and jumps -/

def execBeq (c : Ctl) (a b : BitVec 5) (i : BitVec 10) (s : State) : Out :=
  run (.beq c a b i) true (branch (fun x y => x == y) (c.imm i)) s
def execBne (c : Ctl) (a b : BitVec 5) (i : BitVec 10) (s : State) : Out :=
  run (.bne c a b i) true (branch (fun x y => x != y) (c.imm i)) s
def execBlt (c : Ctl) (a b : BitVec 5) (i : BitVec 10) (s : State) : Out :=
  run (.blt c a b i) true (branch (fun x y => x.slt y) (c.imm i)) s
def execBge (c : Ctl) (a b : BitVec 5) (i : BitVec 10) (s : State) : Out :=
  run (.bge c a b i) true (branch (fun x y => !x.slt y) (c.imm i)) s
def execBltu (c : Ctl) (a b : BitVec 5) (i : BitVec 10) (s : State) : Out :=
  run (.bltu c a b i) true (branch (fun x y => x.ult y) (c.imm i)) s
def execBgeu (c : Ctl) (a b : BitVec 5) (i : BitVec 10) (s : State) : Out :=
  run (.bgeu c a b i) true (branch (fun x y => !x.ult y) (c.imm i)) s
def execJal (c : Ctl) (d : BitVec 5) (i : BitVec 15) (s : State) : Out :=
  run (.jal c d i) true (jumpLink fun A _ => A.pc + 4 * c.imm i) s
def execJalr (c : Ctl) (d a : BitVec 5) (i : BitVec 10) (s : State) : Out :=
  run (.jalr c d a i) true (jumpLink fun A s => (A.ra s + c.imm i) &&& ~~~3#64) s
def execJalw (c : Ctl) (d : BitVec 5) (w2 : BitVec 32) (s : State) : Out :=
  run (.jalw c d w2) true (jumpLink fun A _ => A.pc + 4 * c.imm w2) s

/-! ### Loops -/

/-- LOOP: xs2 with bits [1:0] ignored. -/
def execLoop (c : Ctl) (d a b : BitVec 5) (s : State) : Out :=
  run (.loop c d a b) true (loopBody fun A s => A.rb s &&& ~~~3#64) s
/-- LOOPI: an unsigned immediate, which may not be 0. -/
def execLoopi (c : Ctl) (d a : BitVec 5) (i : BitVec 10) (s : State) : Out :=
  run (.loopi c d a i) true
    (fun A s => if c.immU i = 0 then .illegal else loopBody (fun A _ => A.pc + 4 * c.immU i) A s) s
def execLpbrk (c : Ctl) (d : BitVec 5) (s : State) : Out :=
  run (.lpbrk c d) true (fun A s => .done (s.modThread A.n A.t fun th => { th with lpCount := vset th.lpCount A.d 0 })) s

/-! ### END -/

/-- END (R117, R267): the thread issues nothing more; RUN_END carries out the rest. -/
def execEndTask (c : Ctl) (s : State) : Out :=
  run (.endTask c) true (fun A s => .stop (s.modThread A.n A.t fun th => th.modRun fun r => { r with ending := true })) s

end Sys2Proof.Machine
end

