-- ==== Sys2Proof/Machine/Regs.lean ====
section
/-! DEFINITION. Control and status registers: what each reads as and its write rules (R27 to R31, R33 and the registers that the
chapters describe, with the differences of channel cores, R251). -/

namespace Sys2Proof.Machine

/-- A word with some of its bits replaced. -/
def merge (old new mask : Word) : Word := (old &&& ~~~mask) ||| (new &&& mask)
/-- A field put in place. -/
def field (v : Nat) (lo : Nat) : Word := BitVec.ofNat 64 (v * 2 ^ lo)

/-! ### Thread registers (R29 to R31, R179, R196) -/

/-- A granary register's image (R31). -/
def granWord (o : BitVec 17) : Word := field o.toNat 5
/-- BUDGET's image (R31). -/
def Thread.budgetWord (th : Thread) (now : Nat) : Word := (th.remainAt now) ++ 0#27 ++ th.ctrl.log2
def Thread.thrCtl (th : Thread) : Word := BitVec.ofNat 64 (2 * bit th.ctrl.recd + bit th.ctrl.scoreEn)

/-- A loop register by its number (R33). -/
def Thread.lpReg (th : Thread) (num : Nat) : Word :=
  if num < 0x14 then vget th.lpStart (num - 0x10) else if num < 0x18 then vget th.lpEnd (num - 0x14) else vget th.lpCount (num - 0x18)

/-- The thread registers that a node holds (R33, R251). -/
def threadCsrs (chan : Bool) (num : Nat) : Bool :=
  num == 0 || num == 3 || num == 4 || (decide (0x10 ≤ num) && decide (num < 0x1C)) || (!chan && decide (num < 0x0A))

def Thread.csr (th : Thread) (now num : Nat) : Word :=
  match num with
  | 0 => th.ctrl.fcsr
  | 1 => th.ctrl.prec
  | 2 => th.ctrl.srs
  | 3 => th.budgetWord now
  | 4 => th.thrCtl
  | 5 => granWord th.ctrl.granBase
  | 6 => granWord th.ctrl.granLimit
  | 7 => granWord th.ctrl.granHead
  | 8 => th.ctrl.recPol.setWidth 64
  | 9 => th.ctrl.stale.setWidth 64
  | _ => th.lpReg num

/-- FCSR's write rule (R30): a rounding mode of 7 leaves its field. -/
def fcsrWrite (old v : Word) : Word :=
  let m := 0x3f81f#64 ||| (if v.extractLsb' 5 3 = 7 then 0 else 0xe0) ||| (if v.extractLsb' 8 3 = 7 then 0 else 0x700)
  merge old v m
/-- PREC's write rule (R29). -/
def precWrite (old v : Word) : Word :=
  let p := (v.extractLsb' 0 8).toNat
  merge old v (0x1800#64 ||| (if v.extractLsb' 8 3 = 7 then 0 else 0x700) ||| (if 9 ≤ p ∧ p ≤ 249 then 0xff else 0))
/-- A 2-bit policy field that keeps its value where the new one is too large (R179). -/
def polField (old new : BitVec 6) (lo lim : Nat) : Nat :=
  let n := bitsOf new.toNat lo 2
  (if n ≤ lim then n else bitsOf old.toNat lo 2) * 2 ^ lo
def recPolWrite (old new : BitVec 6) : BitVec 6 := BitVec.ofNat 6 (polField old new 4 1 + polField old new 2 1 + polField old new 0 2)

/-- Writes a thread register. `dbg`: through the debug window, where REMAIN and REC are writable too (R378); a task only lowers its
budget (R301). -/
def Thread.setCsr (th : Thread) (now num : Nat) (v : Word) (dbg : Bool) : Thread :=
  match num with
  | 0 => th.modCtrl fun c => { c with fcsr := fcsrWrite c.fcsr v }
  | 1 => th.modCtrl fun c => { c with prec := precWrite c.prec v }
  | 2 => th.modCtrl fun c => { c with srs := if v = 0 then 1 else v }
  | 3 =>
    let n := bitsOf v.toNat 0 5
    let ok := decide (10 ≤ n) && decide (n ≤ 24)
    if dbg then
      (th.charge now).modCtrl fun c => { c with remain := v.extractLsb' 32 32, log2 := if ok then BitVec.ofNat 5 n else c.log2 }
    else if ok then
      (th.charge now).modCtrl fun c => { c with log2 := BitVec.ofNat 5 n, remain := BitVec.ofNat 32 (min c.remain.toNat (2 ^ n)) }
    else th
  | 4 => th.modCtrl fun c => { c with scoreEn := v.getLsbD 0, recd := if dbg then v.getLsbD 1 else c.recd }
  | 5 => th.modCtrl fun c => { c with granBase := v.extractLsb' 5 17 }
  | 6 => th.modCtrl fun c => { c with granLimit := v.extractLsb' 5 17 }
  | 7 => th.modCtrl fun c => { c with granHead := v.extractLsb' 5 17 }
  | 8 => th.modCtrl fun c => { c with recPol := recPolWrite c.recPol (v.setWidth 6) }
  | 9 => th.modCtrl fun c => { c with stale := v.setWidth 16 }
  | _ =>
    if num < 0x14 then { th with lpStart := vset th.lpStart (num - 0x10) (v &&& 0x3fffffffffffffc) }
    else if num < 0x18 then { th with lpEnd := vset th.lpEnd (num - 0x14) (v &&& 0x3fffffffffffffc) }
    else { th with lpCount := vset th.lpCount (num - 0x18) (v &&& 0xffffffff) }

/-! ### Cell registers -/

/-- DTAB_STAT_k (R86). -/
def DTab.stat (t : DTab) : Word := BitVec.ofNat 64 (8 * bit (t.wf true) + 4 * bit (t.wf false) + t.mode.toNat)
/-- READY_STAT (R266); a channel core's has DEPTH_0 alone (R251). -/
def Sched.readyStat (c : Sched) (n : Nat) : Word :=
  let d := (List.range (readyBanks n)).foldl (fun a b => a + (vget c.ready b).length * 2 ^ (6 * b)) 0
  let f := (c.fired.filter fun f => match f.place with | .thread _ => false | _ => true).length
  BitVec.ofNat 64 ((if isChan n then 0 else f % 4096 * 2 ^ 48) + d)
/-- ARM_USE (R294). -/
def Sched.armUse (c : Sched) (n : Nat) : Word :=
  BitVec.ofNat 64 (c.armsUsed n 0 + c.armsUsed n 1 * 2 ^ 11 + c.armsUsed n 2 * 2 ^ 22)
/-- CELL_PWR (R316). -/
def State.cellPwr (s : State) (n : Nat) : Word :=
  let c := s.cell n
  let p := c.power
  BitVec.ofNat 64 (p.temp.toNat * 2 ^ 32 + bit p.ret * 2 ^ 31 + bit p.hot * 2 ^ 30
    + bit (lptState (s.lptEntry 0 n) = 1) * 2 ^ 29 + p.ceil.toNat * 2 ^ 24 + p.op.toNat * 2 ^ 21
    + (vget c.cores 0).req.toNat + (vget c.cores 1).req.toNat * 8 + (vget c.cores 2).req.toNat * 64 + (vget c.cores 3).req.toNat * 512)
/-- ERR_STAT (R371). -/
def ErrSide.stat (e : ErrSide) : Word := e.ce ++ e.ue ++ e.rollback ++ e.chkm
/-- VOTE_d (R389). -/
def Vote.word (v : Vote) : Word := v.last ++ v.acc ++ v.round ++ 0#3 ++ v.st ++ 0#8 ++ v.judge ++ v.missed ++ 0#2
/-- LINK_STAT (R400). -/
def NetSide.linkStat (c : NetSide) : Word :=
  let w := (List.range 6).foldl (fun a d => a + (vget c.links d).width.toNat * 2 ^ (4 * d)) 0
  BitVec.ofNat 64 (c.lanerep.toNat * 2 ^ 24 + w)
/-- USED of DIR_OVF (R215). -/
def MemSide.ovfUsed (m : MemSide) : Nat := (m.dir.filter fun e => e.ovf).length
def ovfBase (w : Word) : Nat := (w.extractLsb' 8 14).toNat * 256
def ovfEntries (w : Word) : Nat := (w.extractLsb' 28 12).toNat
/-- CTX_STATE (R270). -/
def Cell.ctxState (c : Cell) : Word :=
  let r := [0, 1, 2, 3].foldl (fun a k => a + c.runCount (BitVec.ofNat 2 k) * 2 ^ (8 + 5 * k)) 0
  BitVec.ofNat 64 (r + c.sched.ctxSt.toNat)

/-- The cell registers that any task reads (R33), and those that a channel core holds (R251). -/
def cellCsrs (chan : Bool) (num : Nat) : Bool :=
  if chan then num == 0x48 || num == 0x60 || num == 0x61 || num == 0x63
  else (decide (0x40 ≤ num) && decide (num < 0x44)) || num == 0x48 || (decide (0x50 ≤ num) && decide (num < 0x58))
    || (decide (0x60 ≤ num) && decide (num < 0x64)) || (decide (0x68 ≤ num) && decide (num < 0x6F))
/-- The supervisor registers of a node. -/
def supCsrs (chan : Bool) (num : Nat) : Bool :=
  if chan then num == 0x221 || num == 0x222 || num == 0x226 || num == 0x227 || (decide (0x230 ≤ num) && decide (num < 0x234))
  else num == 0x210 || (decide (0x220 ≤ num) && decide (num < 0x228)) || (decide (0x230 ≤ num) && decide (num < 0x238))

def State.cellCsr (s : State) (n num : Nat) : Word :=
  let c := s.cell n
  if num < 0x44 then (vget c.wide.dtabs (num - 0x40)).stat
  else if num = 0x48 then c.err.touch
  else if num < 0x58 then (vget c.wide.tiles (num - 0x50)).cfg
  else if num = 0x60 then c.sched.readyStat n
  else if num = 0x61 then c.sched.armUse n
  else if num = 0x62 then s.cellPwr n
  else if num = 0x63 then c.err.stat
  else if num < 0x6E then (vget c.net.votes (num - 0x68)).word
  else if num = 0x6E then c.net.linkStat
  else if num = 0x210 then c.wide.slots
  else if num = 0x220 then c.mem.dirOvf ||| field c.mem.ovfUsed 40
  else if num = 0x221 then c.mem.ctrErr
  else if num = 0x222 then c.ctxState
  else if num = 0x223 then c.sched.inbox
  else if num = 0x224 then c.sched.balCtl
  else if num = 0x225 then c.sched.barTmo
  else if num = 0x226 then c.sched.park.setWidth 64
  else if num = 0x227 then c.err.ctl
  else if num < 0x234 then vget c.err.grants (num - 0x230)
  else vget c.err.faultQ (num - 0x234)

/-- DIR_OVF's write rule (R215). -/
def MemSide.writeOvf (m : MemSide) (v : Word) : MemSide :=
  if ovfBase v + 256 * ovfEntries v ≤ Config.lmBytes ∧ m.ovfUsed ≤ ovfEntries v then
    { m with dirOvf := v &&& 0xff_f0_3f_ff_00 }
  else m

/-- A field of CTX_STATE written (R270): 2 counts as 1, 3 leaves it. -/
def Sched.writeCtxField (c : Sched) (v : Word) (slot : BitVec 2) : Sched :=
  match bitsOf v.toNat (2 * slot.toNat) 2 with
  | 0 => c.setSlotState slot 0
  | 3 => c
  | _ => c.setSlotState slot 1

/-- INBOX's write rule (R273). -/
def inboxWrite (old v : Word) : Word :=
  let k := bitsOf v.toNat 32 5
  let b := bitsOf v.toNat 11 11
  if 16 < k ∨ (k ≠ 0 ∧ Config.lmBytes < 2048 * (b + k)) then old else v &&& 0x1f_00_3f_f8_00
/-- BAL_CTL's (R278). -/
def balWrite (old v : Word) : Word := merge old v (0x10ff#64 ||| if bitsOf v.toNat 8 4 ≤ 8 then 0xf00 else 0)
/-- CTX_GRANT_s's (R332); a channel core has the LM fields alone, LM_LIM at most 64 (R251). -/
def grantWrite (chan : Bool) (old v : Word) : Word :=
  let base := bitsOf v.toNat 12 10
  let lim := bitsOf v.toNat 22 10
  if chan then (if lim < base ∨ 64 < lim then old else v &&& 0xfffff000)
  else if lim < base ∨ 768 < lim ∨ 128 < bitsOf v.toNat 37 8 then old
  else v &&& 0xffffffe0fffff000

def fqBase (w : Word) : Nat := (w.extractLsb' 6 16).toNat * 64
def fqLog (w : Word) : Nat := (w.extractLsb' 32 4).toNat
def fqCtr (w : Word) : Nat := (w.extractLsb' 36 22).toNat
/-- TAIL and HEAD of a fault ring's header (R375). -/
def State.fqTail (s : State) (n : Nat) (w : Word) : Nat := s.readNat (nodeBase n + fqBase w) 4
def State.fqHead (s : State) (n : Nat) (w : Word) : Nat := s.readNat (nodeBase n + fqBase w + 4) 4
/-- FAULT_Q_s's write rule (R375). -/
def State.faultQWrite (s : State) (n : Nat) (old v : Word) : Word :=
  let lg := if fqLog v ≤ 10 then fqLog v else fqLog old
  let new := field lg 32 ||| (v &&& 0x3fffff0003fffc0)
  let new := new &&& 0x3ffffff003fffc0
  let holds := decide (fqLog old ≠ 0) && decide (s.fqTail n old ≠ s.fqHead n old)
  if holds ∧ (fqBase new ≠ fqBase old ∨ lg ≠ fqLog old) then old
  else if lg ≠ 0 ∧ Config.lmBytes < fqBase new + 64 + 64 * 2 ^ lg then old
  else new

/-- THR_PARK's write (R343): a free thread parks at once, a parked one whose bit is 0 is in service again. -/
def Cell.writePark (c : Cell) (n fab : Nat) (v : Word) : Cell :=
  let p : BitVec 16 := if isChan n then (v.setWidth 4).setWidth 16 else v.setWidth 16
  { c with
    sched := { c.sched with park := p }
    threads := c.threads.map fun q =>
      (q.1, if q.2.run.st = .free ∧ p.getLsbD q.1 then q.2.modRun fun r => { r with st := .parked }
            else if q.2.run.st = .parked ∧ !p.getLsbD q.1 then q.2.modRun fun r => { r with st := .free, freeAt := fab }
            else q.2) }

/-- Remembers a write of software to a supervisor register, which a spare replays (R392). -/
def Cell.shadowed (c : Cell) (num : Nat) (v : Word) : Cell :=
  c.modErr fun e => { e with shadow := assocSet e.shadow num v }

/-- Writes a supervisor register of a node under its own rules; every other number is read only here. -/
def State.setCellCsr (s : State) (n num : Nat) (v : Word) : State :=
  if !supCsrs (isChan n) num then s
  else
    let s := s.modCell n fun c => c.shadowed num v
    if num = 0x210 then s.modWide n fun w => { w with slots := v &&& 0xbbbbbbbbbbbbbbbb }
    else if num = 0x220 then s.modMem n fun m => m.writeOvf v
    else if num = 0x221 then s.modMem n fun m => { m with ctrErr := v &&& 0xffffffff003fffff }
    else if num = 0x222 then s.modSched n fun c => ([0, 1, 2, 3].foldl (fun c k => c.writeCtxField v (BitVec.ofNat 2 k)) c).after c
    else if num = 0x223 then s.modSched n fun c => { c with inbox := inboxWrite c.inbox v }
    else if num = 0x224 then s.modSched n fun c => { c with balCtl := balWrite c.balCtl v }
    else if num = 0x225 then s.modSched n fun c => { c with barTmo := v &&& 0xffffffff }
    else if num = 0x226 then s.modCell n fun c => c.writePark n s.fab v
    else if num = 0x227 then s.modErr n fun e => { e with ctl := v &&& 0xf7 }
    else if num < 0x234 then
      s.modErr n fun e => { e with grants := vset e.grants (num - 0x230) (grantWrite (isChan n) (vget e.grants (num - 0x230)) v) }
    else
      s.modErr n fun e => { e with faultQ := vset e.faultQ (num - 0x234) (s.faultQWrite n (vget e.faultQ (num - 0x234)) v) }

/-! ### Link and device registers -/

def ones8 (b : BitVec 8) : Nat := popc8 b 8
where
  popc8 (b : BitVec 8) : Nat → Nat
    | 0 => 0
    | k + 1 => bit (b.getLsbD k) + popc8 b k

/-- Flits waiting in the transmit queue, as LNK_Q_n shows them (R346). -/
def Port.txq (p : Port) : BitVec 16 := BitVec.ofNat 16 (min 0xffff p.queue.length)
/-- STRIPE (R346). -/
def Port.stripe (p : Port) : BitVec 4 := BitVec.ofNat 4 (ones8 p.lanes)
/-- Wavelengths of WLIT that are not parked (R346). -/
def Port.active (p : Port) : Nat := ones8 (p.wlit &&& ~~~p.parked)
/-- LNK_STATE_n (R346). -/
def Port.state (p : Port) : Word :=
  0#8 ++ p.gen ++ p.parked ++ p.wlit ++ 0#4 ++ p.peer ++ 0#1 ++ p.peerPort ++ p.stripe ++ BitVec.ofNat 4 p.active
    ++ BitVec.ofBool p.wake ++ p.st
/-- LNK_CTL_n (R349). -/
def Port.ctl (p : Port) : Word := 0#32 ++ p.wthresh ++ 0#7 ++ BitVec.ofBool p.autowake ++ p.park

/-- Applies a park request (R351): newly parked wavelengths enter PARKED at once and leave the stripe at a flit boundary that the ends agree,
in the fabric cycle `due`; released ones wake (log 42). -/
def Port.applyPark (p : Port) (v : BitVec 8) (due : Nat) : Port :=
  { p with parked := v, wake := p.wake || decide (p.parked &&& ~~~v ≠ 0)
           narrow := if v &&& ~~~p.parked ≠ 0 then some (p.narrow.getD due) else p.narrow }
/-- MINW counts 1 to 8 in three bits: 0 stands for 8 (R347). -/
def minWaves (m : BitVec 3) : Nat := if m = 0 then 8 else m.toNat
/-- A write of PARK (R349, R351): refused outside WLIT or below MINW; during a wake it waits. -/
def Port.writePark (p : Port) (v : BitVec 8) (due : Nat) : Port :=
  if v &&& ~~~p.wlit ≠ 0 ∨ ones8 (p.wlit &&& ~~~v) < minWaves p.minw then p
  else if p.wake then { p with park := v, parkReq := some v }
  else { p.applyPark v due with park := v }
/-- The queue stands above WTHRESH. -/
def Port.overFull (p : Port) : Bool := decide (p.wthresh.toNat < p.queue.length)
/-- A write of LNK_CTL: a threshold that falls below the queue is no rise of the queue (R361). -/
def Port.writeCtl (p : Port) (v : Word) (due : Nat) : Port :=
  let p := { p with wthresh := v.extractLsb' 16 16, autowake := v.getLsbD 8 }
  ({ p with above := p.overFull }).writePark (v.setWidth 8) due
/-- The queue after a change of its length: where it has risen above WTHRESH, an automatic wake is called for (R361). -/
def Port.watch (p : Port) : Port :=
  let rose := p.overFull && !p.above && p.autowake && decide (p.parked ≠ 0) && !p.wake
  { p with above := p.overFull, call := p.call || rose }
/-- Flits enter the transmit queue (R346). -/
def Port.push (p : Port) (flits : List (List Word)) : Port := { p with queue := p.queue ++ flits }.watch

/-! ### Frames (R350) -/

/-- Frames that one wavelength has carried by a fabric cycle: one in 1.6 ns (R350). -/
def framesBy (fab : Nat) : Nat := fab * 5 / 16
/-- The wavelengths of a mask, in increasing index. -/
def lanesOf (m : BitVec 8) : List Nat := (List.range 8).filter m.getLsbD
/-- The wavelength of flit k (R350): the ((k - s) mod STRIPE)-th of those in use. -/
def Port.laneFor (p : Port) (k : Nat) : BitVec 8 :=
  let ls := lanesOf p.lanes
  BitVec.ofNat 8 (ls.getD (((k : Int) - p.flit0) % ls.length).toNat 0)
/-- Sends up to a number of flits, each in a frame of its own that is kept until the peer acknowledges it. -/
def Port.sendFrames (p : Port) : Nat → Port
  | 0 => p
  | k + 1 =>
    match p.queue with
    | [] => p
    | f :: fs =>
      Port.sendFrames { p with queue := fs, unacked := p.unacked ++ [{ seq := p.txSeq, lane := p.laneFor p.flitNo, flit := f }]
                               txSeq := p.txSeq + 1, flitNo := p.flitNo + 1 } k
/-- The parked wavelengths leave the stripe (R351). -/
def Port.fall (p : Port) : Port := { p with lanes := p.lanes &&& ~~~p.parked, flit0 := p.flitNo, narrow := none }
/-- A port while fabric cycles pass: a park's boundary comes, and the transmit queue empties over the wavelengths in use while frames flow
(R348, R350). -/
def Port.drained (p : Port) (a b : Nat) : Port :=
  let p := if p.narrow.any fun due => decide (due ≤ b) then p.fall else p
  if p.st = 2 ∨ p.st = 3 then (p.sendFrames (p.stripe.toNat * (framesBy b - framesBy a))).watch else p

/-- DEV_STAT (R405). -/
def DevMisc.stat (m : DevMisc) : Word := 0#32 ++ m.unmapped ++ m.spares ++ m.remapped ++ 0#4 ++ m.step ++ BitVec.ofBool m.ready
/-- PWR_STAT (R318). -/
def DevPower.stat (p : DevPower) : Word :=
  0#16 ++ p.flow ++ p.inlet ++ 0#2 ++ BitVec.ofBool p.bwin ++ p.watts ++ p.limit ++ p.watts10
/-- LOFT_STAT (R402). -/
def DevMisc.loftStat (m : DevMisc) : Word := 0#32 ++ m.loftLost ++ 0#12 ++ vget m.loftSt 1 ++ vget m.loftSt 0
/-- SEC_STAT (R356). -/
def Security.stat (c : Security) : Word :=
  0#40 ++ Config.fusedRollback ++ BitVec.ofBool c.killed ++ BitVec.ofBool c.key ++ c.boot ++ 0#10
    ++ BitVec.ofBool c.overtemp ++ BitVec.ofBool c.glitch ++ BitVec.ofBool c.tamper

/-- The link and device registers. -/
def devCsrs (num : Nat) : Bool :=
  (decide (0x100 ≤ num) && decide (num ≤ 0x110)) || (decide (0x120 ≤ num) && decide (num < 0x126)) || num == 0x130 || num == 0x131
    || (decide (0x240 ≤ num) && decide (num < 0x248)) || (decide (0x280 ≤ num) && decide (num < 0x284)) || num == 0x2F0

def State.devCsr (s : State) (num : Nat) : Word :=
  if num < 0x108 then (vget s.ports (num - 0x100)).state
  else if num < 0x110 then (vget s.ports (num - 0x108)).txq.setWidth 64
  else if num = 0x110 then Config.modId.setWidth 64
  else if num < 0x126 then (vget s.misc.dord (num - 0x120)).setWidth 64
  else if num = 0x130 then s.power.stat
  else if num = 0x131 then s.misc.stat
  else if num < 0x248 then (vget s.ports (num - 0x240)).ctl
  else if num = 0x280 then s.power.ocCause.setWidth 64
  else if num = 0x281 then s.power.pmCtl
  else if num = 0x282 then s.misc.fenceCtl
  else if num = 0x283 then s.misc.loftStat
  else s.sec.stat

/-- Sets OC_CAUSE; a change fires MSI-X vector 1 (R325, R352). -/
def State.setCause (s : State) (v : BitVec 8) : State :=
  if v = s.power.ocCause then s
  else { s with power := { s.power with ocCause := v }, cox := { s.cox with msix := s.cox.msix ++ [1] } }

/-- The conditions of OC_CAUSE that are still there (R312, R325, R326): those of the supply, a boost window above 4,600 W, the coolant
outside its limits, a cell at 105 °C or more. -/
def State.standing (s : State) : BitVec 8 :=
  let hot := s.phys.any fun p => decide (105 ≤ p.2.temp)
  let boost := s.power.bwin && decide (4600 < s.power.watts.toNat)
  s.power.present ||| (if boost then 8 else 0) ||| (if s.power.warm then 0x20 else 0) ||| (if hot then 0x40 else 0)
/-- When a park's flit boundary comes: within 200 ns, 400 fabric cycles (R351; log 42). -/
def State.parkDue (s : State) : Nat := s.fab + s.free.toNat % 401
/-- Writes a link or device register; `cox`: the writer is the cox cores, who alone write DORD_c (R256). -/
def State.setDevCsr (s : State) (cox : Bool) (num : Nat) (v : Word) : State :=
  if 0x120 ≤ num ∧ num < 0x126 then
    (if cox ∧ bitsOf v.toNat 0 3 ≤ 5 then { s with misc := { s.misc with dord := vset s.misc.dord (num - 0x120) (v.setWidth 3) } } else s)
  else if 0x240 ≤ num ∧ num < 0x248 then
    let s := { s with ports := vset s.ports (num - 0x240) ((vget s.ports (num - 0x240)).writeCtl v s.parkDue) }
    s.drawn
  else if num = 0x280 then s.setCause (s.power.ocCause &&& (~~~(v.setWidth 8) ||| s.standing))
  else if num = 0x281 then { s with power := { s.power with pmCtl := v &&& 0xffff07 } }
  else if num = 0x282 then { s with misc := { s.misc with fenceCtl := v &&& 0xffffff0f } }
  else s

end Sys2Proof.Machine
end

