-- ==== Sys2Proof/Machine/WideUnit.lean ====
section
/-! DEFINITION. The wide unit at work: which instruction starts, its start, completion and faults (R144, R145, R147), the slot table
(R149), resuming a held instruction (R147, R189), and TWAIT (R175). -/

namespace Sys2Proof.Machine

/-! ### What an instruction uses of the unit -/

/-- Staging tiles of an adjoint's map. -/
def WuEnt.staging (e : WuEnt) : List Nat := if e.op.rvs.isSome then (e.gmap.filter fun g => g.v && g.acc).map GEnt.stile else []
def WuEnt.matrix (e : WuEnt) : Bool := e.op.kind.isMma
/-- The panel is read from the weight buffer: by a forward form, or by an adjoint that refers to it. -/
def WuEnt.readsPanel (e : WuEnt) : Bool :=
  e.matrix && (e.op.rvs.isNone || e.ents.any fun x => decide (x.kind = 2) && decide (x.flag = 1))
/-- Tiles that it reads and tiles that it writes. -/
def WuEnt.tilesRead (e : WuEnt) : List Nat :=
  if e.op.rvs.isSome then e.staging
  else
    match e.op.kind with
    | .tst | .tstd => [e.op.a]
    | .vcvtd => if cvtTile e.op.w2 then [e.op.a] else []
    | k => if k.isMma && !mmaZero e.op.w2 then [e.op.d] else []
def WuEnt.tilesWritten (e : WuEnt) : List Nat :=
  if e.op.rvs.isSome then e.staging
  else
    match e.op.kind with
    | .tcfg | .tzero | .tld | .tldd => [e.op.d]
    | k => if k.isMma then [e.op.d] else []
/-- Decode tables read. -/
def WuEnt.tabsRead (e : WuEnt) : List Nat := if e.op.kind = .dtld then [] else e.op.tabs
/-- Lines of the weight buffer, in order. -/
def lineList (p : Nat × Nat) : List Nat := (List.range p.2).map fun k => (p.1 + k) % 8192

/-- An earlier-started instruction writes state that this one uses (R144). -/
def conflicts (started e : WuEnt) : Bool :=
  started.tilesWritten.any (fun k => e.tilesRead.contains k || e.tilesWritten.contains k || e.op.tile == some k)
    || (decide (started.op.kind = .wld) && (e.readsPanel || decide (e.op.kind = .wld)))
    || (decide (started.op.kind = .dtld) && (e.op.tabs.contains started.op.d))

/-! ### Arbitration (R144, R147, R149) -/

/-- The first of a queue that may be next: one instruction of a queue runs at a time, and an instruction that is held keeps back its
thread's later ones (log 14). -/
def nextOf : List WuEnt → List Nat → Option WuEnt
  | [], _ => none
  | e :: es, stopped =>
    match e.st with
    | .started => none
    | .queued => if stopped.contains e.thr && !e.orphan then nextOf es stopped else some e
    | _ => nextOf es (e.thr :: stopped)
/-- A core's candidate that no started instruction keeps waiting, and no limit of R323. -/
def Cell.readyHead (c : Cell) (k : Nat) : Option WuEnt :=
  let live := (List.range 4).flatMap fun j => ((vget c.cores j).wuq.filter fun e => e.st = .started)
  (nextOf (vget c.cores k).wuq []).filter fun e =>
    !live.any (fun s => conflicts s e) && !(e.matrix && c.wide.limit.any fun m => decide (m ≤ c.wide.starts))
/-- Positions of a ring of four after one. -/
def after4 (k : Nat) : List Nat := [(k + 1) % 4, (k + 2) % 4, (k + 3) % 4, k % 4]

/-- The issue cycle's winner: its core, its context slot, and whether the round-robin over contexts chose it (R149). -/
def Cell.winner (c : Cell) : Option (Nat × Nat × Bool) :=
  let w := c.wide
  let heads := (List.range 4).filterMap fun k => (c.readyHead k).map fun e => (k, e.slot.toNat)
  let slot := w.rotation / 256 % 16
  let own := if slotV w.inForce slot then some (slotCtxOf w.inForce slot) else none
  let pick := fun ctx : Nat => (after4 (vget w.rrCore ctx)).find? fun k => heads.contains (k, ctx)
  match own.bind fun x => (pick x).map fun k => (k, x) with
  | some (k, x) => some (k, x, false)
  | none => (after4 w.rrCtx).findSome? fun x => (pick x).map fun k => (k, x, true)

/-! ### The start (R143, R144, R363, R368) -/

/-- The effect of an instruction at its start. -/
def WuEnt.effect (e : WuEnt) (n : Nat) (s : State) : Except Fail Effect :=
  match e.op.rvs with
  | some (start, _) => adjointEffect e n start s
  | none =>
    match e.op.kind with
    | .tcfg | .tzero => .ok (tileEffect e n s)
    | .tld | .tldd | .tst | .tstd => moveEffect e n s
    | .wld => wldEffect e n s
    | .dtld => dtldEffect e n s
    | .vcvtd => cvtEffect e n s
    | .mma | .mmas | .mmao | .mmad | .mmasd | .mmaod => mmaEffect e n s
    | _ => vecEffect e n s

/-- An uncorrectable error in a tile, the weight buffer or a table that the instruction reads (R364). -/
def WuEnt.unitError (e : WuEnt) (w : Wide) : Bool :=
  !w.bad.isEmpty &&
    (e.tilesRead.any (fun k => w.bad.contains k) || e.tabsRead.any (fun k => w.bad.contains (8 + k))
      || (e.readsPanel && e.lines.any fun p => (lineList p).any fun k => w.bad.contains (16 + k)))
/-- What the instruction writes whole holds fresh codewords. -/
def WuEnt.healed (e : WuEnt) (clr : Bool) : List Nat :=
  match e.op.kind with
  | .tcfg => if clr then [e.op.d] else []
  | .tzero | .tld => if e.op.rvs.isSome then [] else [e.op.d]
  | .wld => if e.op.rvs.isSome then [] else e.lines.elim [] fun p => (lineList p).map (16 + ·)
  | .dtld => [8 + e.op.d]
  | k => if k.isMma && e.op.rvs.isNone then [e.op.d] else []

/-- Where the recheck compares: every matrix adjoint, and a matrix form whose tile is still an accumulator (R363, R409). -/
def WuEnt.rechecked (e : WuEnt) (w : Wide) : Bool := e.matrix && (e.op.rvs.isSome || isAcc (vget w.tiles e.op.d).cfg)

/-- RESTART's part of the wide unit (R368), for a run whose instruction starts. -/
def Run.wideUse (r : Run) (e : WuEnt) (clr : Bool) : Run :=
  let stale := e.tilesRead.any (fun k => !r.wrote.getLsbD k)
    || (e.op.rvs.isNone && decide (e.op.kind = .wld) && r.readWb) || (decide (e.op.kind = .dtld) && r.readTab.getLsbD e.op.d)
  let written := if e.op.kind = .tcfg ∧ !clr ∧ e.op.rvs.isNone then [] else e.tilesWritten
  { r with restart := r.restart && !stale
           wrote := written.foldl (fun b k => b ||| (1#8 <<< k)) r.wrote
           readWb := r.readWb || e.readsPanel
           readTab := e.tabsRead.foldl (fun b k => b ||| (1#4 <<< k)) r.readTab }

/-- Changes an entry of a core's queue. -/
def State.modEntry (s : State) (n k : Nat) (p : WuEnt → Bool) (f : WuEnt → WuEnt) : State :=
  s.modCell n fun c => c.modCore k fun c => { c with wuq := modFirst p f c.wuq }
def State.dropEntry (s : State) (n k : Nat) (p : WuEnt → Bool) : State :=
  s.modCell n fun c => c.modCore k fun c => { c with wuq := dropFirst p c.wuq }

/-- What a started instruction leaves to its completion. -/
def WuEnt.begun (e : WuEnt) (f : Effect) : WuEnt :=
  let sheaf := e.sheaf.elim [] fun p => [(p.1, e.sheafBytes p.2 f.clr f.vals f.extra)]
  { e with st := .started
           eff := { lm := f.lm, reg := f.reg, flags := f.flags, olf := f.olf, sheaf := sheaf, stale := f.stale } }

/-- The start of a core's candidate. -/
def State.startWide (s : State) (n k : Nat) (e : WuEnt) : State :=
  let w := (s.cell n).wide
  let m := if e.rechecked w then min 2 w.mismatch else 0
  let s := s.modCell n fun c =>
    { c with err := { c.err with chkm := sat16 c.err.chkm m }
             wide := { c.wide with mismatch := if m = 0 then c.wide.mismatch else 0
                                   starts := c.wide.starts + bit e.matrix } }
  let r : Except Fail Effect :=
    if e.unitError w then .error { cause := 0x50, detail := 2 }
    else if m = 2 then .error { cause := 0x51, detail := 1 }
    else e.effect n s
  let s := { s with draws := s.draws + 0x40000 }
  match r with
  | .error f =>
    let s := if f.cause = 0x50 ∧ f.detail = 2 then s.countUe n else s
    if e.orphan then ((s.voidSheafOf n none e).dropEntry n k (· == e)).busy n
    else s.modEntry n k (· == e) fun e => { e with st := .faulted f.cause f.addr f.detail }
  | .ok f =>
    let s := s.modWide n fun _ => { f.wide with bad := f.wide.bad.filter fun b => !(e.healed f.clr).contains b }
    let s := s.modEntry n k (· == e) fun e => e.begun f
    if e.orphan then s else s.modThread n e.thr fun th => th.modRun fun r => r.wideUse e f.clr

/-- WU_INSTRUCTION_START (R144, R149): the head of a core's queue starts where the slot table gives it the issue cycle; a
frozen or moving cell starts none (R320, R388). -/
def execWuInstructionStart (node core : Nat) (s : State) : Out :=
  let c := s.cell node
  match c.winner, c.readyHead core with
  | some (k, ctx, rr), some e =>
    if k ≠ core ∨ isChan node ∨ c.net.frozen ∨ c.paused then .next s
    else
      .next ((s.modWide node fun w =>
        { w with rrCtx := if rr then ctx else w.rrCtx, rrCore := vset w.rrCore ctx k }).startWide node core e)
  | _, _ => .next s

/-! ### Completion (R143, R145, R365) -/

/-- The pieces cover a line. -/
def coversLine (o : Nat) (ps : List (Nat × List Byte)) : Bool :=
  let near := ps.filter fun p => decide (p.1 < o + 64) && decide (o < p.1 + p.2.length)
  (List.range 64).all fun i => near.any fun p => decide (p.1 ≤ o + i) && decide (o + i < p.1 + p.2.length)
/-- The unit's writes at completion: a line that it writes whole, in one access, is no longer poisoned. -/
def State.wideWrites (s : State) (n : Nat) (who : Option Nat) (ps : List (Nat × List Byte)) : State :=
  let s := ps.foldl (fun s p => s.bankWrites who (nodeBase n + p.1) p.2 (p.2.length + 1)) s
  if s.poison.isEmpty then s
  else
    { s with poison := s.poison.filter fun l =>
        !(decide (nodeBase n ≤ l) && decide (l < nodeBase n + Config.lmBytes) && coversLine (l - nodeBase n) ps) }

/-- The effects on the enqueuing thread. -/
def Thread.finishWide (th : Thread) (f : WuEff) : Thread :=
  let th := (th.orWfl f.flags f.olf).modCtrl fun c => { c with stale := sat16 c.stale f.stale }
  match f.reg with
  | some (fl, r, v) => (th.setReg fl r v).setFull fl r true
  | none => th

/-- The lines that a started instruction writes, in increasing addresses. -/
def WuEnt.writeLines (e : WuEnt) (n : Nat) : List Nat :=
  (((e.eff.lm ++ e.eff.sheaf).flatMap fun p => linesOf (nodeBase n + p.1) p.2.length).mergeSort fun a b => decide (a ≤ b)).eraseDups
/-- The started instruction of a core's queue writes all its effects. -/
def State.finishWide (s : State) (n core : Nat) (e : WuEnt) : State :=
  let s := s.wideWrites n (if e.orphan then none else some e.thr) (e.eff.lm ++ e.eff.sheaf)
  let s := if e.orphan then s.busy n else s.modThread n e.thr fun th => th.finishWide e.eff
  s.dropEntry n core (· == e)
/-- WU_INSTRUCTION_COMPLETE (R145): all effects are written, once the sharers of every line that it writes have dropped it (R213). -/
def execWuInstructionComplete (node core : Nat) (s : State) : Out :=
  match (vget (s.cell node).cores core).wuq.find? fun e => e.st = .started with
  | none => .next s
  | some e =>
    match s.claimLines node (16 + core) (e.writeLines node) with
    | (s, true) => .next ((s.unclaim node (16 + core)).finishWide node core e)
    | (s, false) => .next s

/-! ### Faults and resumption (R147, R189) -/

/-- WU_FAULT (R147): the enqueuing thread freezes at its next boundary; the instruction is held. -/
def execWuFault (node core : Nat) (s : State) : Out :=
  let isIt := fun e : WuEnt => match e.st with
    | .faulted .. => decide ((s.thread node e.thr).run.st = .running)
    | _ => false
  match (vget (s.cell node).cores core).wuq.find? isIt with
  | none => .next s
  | some e =>
    match e.st with
    | .faulted cause addr detail =>
      let s := s.modThread node e.thr fun th => th.modRun fun r => { r with ending := false, halting := false }
      let s := s.modEntry node core isIt fun e => { e with st := .held }
      .next ({ s with blocked := false }.takeTrap node e.thr cause false e.rep e.pc addr detail)
    | _ => .next s

/-- RETRY: a thread's held instruction is queued again. -/
def State.retryHeld (s : State) (n t : Nat) : State :=
  s.modCore n t fun c => { c with wuq := c.wuq.map fun e => if e.of t && e.st == .held then { e with st := .queued } else e }
/-- SKIP: it is discarded, its destination register stands and is full, its sheaf is void. -/
def State.skipHeld (s : State) (n t : Nat) : State :=
  match (s.core n t).wuq.find? fun e => e.of t && e.st == .held with
  | none => s
  | some e =>
    let s := s.voidSheafOf n (some t) e
    let s := if e.op.kind = .vrsum ∨ e.op.kind = .vrmax then s.modThread n t fun th => th.setFull e.op.file e.op.d true else s
    s.modCore n t fun c => { c with wuq := dropFirst (· == e) c.wuq }

/-- The rotation holds (R149): in retention, and in the pause of a migration. -/
def Cell.rotationHolds (c : Cell) : Bool := c.power.ret || c.paused
/-- WU_SLOT_BOUNDARY (R148, R149): the rotation moves on by 256 cycles and the table last written comes into force. -/
def execWuSlotBoundary (node : Nat) (s : State) : Out :=
  .next (if (s.cell node).rotationHolds then s
    else s.modWide node fun w => { w with rotation := (w.rotation + 256) % 4096, inForce := w.slots })

/-! ### TWAIT (R175) -/

/-- TWAIT: all but the last n of the thread's instructions are consumed or complete; xd is the number of the thread's instructions that are
not complete, those that it did not wait for among them: R175 does not say which ones it counts (the model's choice, log 117). -/
def twaitBody (A : Args) (s : State) : Res :=
  let v := A.ra s
  let n := min 16 (bitsOf v.toNat 0 5)
  let mine := (s.core A.n A.t).wuq.filter (WuEnt.of A.t)
  let old := mine.take (mine.length - n)
  if old.all fun e => !v.getLsbD 5 && decide (e.st = .started) then .done (s.writeVarD A (BitVec.ofNat 64 mine.length)) else .wait s
def execTwait (c : Ctl) (d a : BitVec 5) (s : State) : Out := run (.twait c d a) false twaitBody s

end Sys2Proof.Machine
end

