-- ==== Sys2Proof/Machine/Debug.lean ====
section
/-! DEFINITION. The debug windows of threads (R378) and the commands of DBG_CTL (R380). -/

namespace Sys2Proof.Machine

/-- The node and thread exist. -/
def threadOk (n t : Nat) : Bool := nodeOk n && decide (t < threadsOf n)
/-- The cell that the cox cores' LPT copy shows as fenced. -/
def State.fencedNode (s : State) (n : Nat) : Bool := !isChan n && decide (lptState (s.lptEntry 0 n) = 2)

/-! ### What a window shows -/

/-- The thread's instruction that R147 holds. -/
def State.heldEnt (s : State) (n t : Nat) : Option WuEnt := (s.core n t).wuq.find? fun e => e.of t && e.st == .held
/-- SETTLED of DBG_STAT (R380). -/
def State.settled (s : State) (n t : Nat) : Bool :=
  (s.thread n t).allFull && (((s.core n t).wuq.filter (WuEnt.of t)).takeWhile fun e => !e.stuck).isEmpty
def RunSt.code : RunSt → Nat
  | .free => 0 | .running => 1 | .frozen => 2 | .parked => 3
/-- DBG_STAT (R380). -/
def State.dbgStat (s : State) (n t : Nat) : Word :=
  let r := (s.thread n t).run
  BitVec.ofNat 64 (bit r.ign * 2 ^ 19 + bit (s.settled n t) * 2 ^ 18 + bit (s.heldEnt n t).isSome * 2 ^ 17
    + bit r.pendErr.isSome * 2 ^ 16 + bit r.restart * 2 ^ 15 + r.cause.toNat * 16 + r.st.code)

/-- A captured pointer as a q register holds it (R28). -/
def Stream.image (x : Stream) : Word := 0#16 ++ x.stride ++ 0#10 ++ x.addr
/-- Doubleword `k` of the held instruction's image: words, operand, pointers, mode and SAT, SEED (R378; log 16). -/
def WuEnt.image (e : WuEnt) (k : Nat) : Word :=
  match k with
  | 0 => e.op.w2 ++ e.op.w1
  | 1 => e.xs
  | 2 => e.sd.image
  | 3 => e.s1.image
  | 4 => e.s2.image
  | 5 => e.s3.image
  | 6 => BitVec.ofNat 64 (e.rm.toNat + 8 * e.sat.toNat)
  | _ => e.seed

/-- The thread register whose number stands at window offsets 0x3A8 to 0x3F0 (R378). -/
def windowCsr (k : Nat) : Nat := if k = 0 then 1 else if k = 1 then 0 else k
/-- Four granules of the pool (R27). -/
def Thread.poolWord (th : Thread) (k : Nat) : Word :=
  th.pool.get (4 * k + 3) ++ th.pool.get (4 * k + 2) ++ th.pool.get (4 * k + 1) ++ th.pool.get (4 * k)

/-- The doubleword at a window offset (R378). A channel core's thread has no f, w and pool state (R251). -/
def State.windowRead (s : State) (n t off : Nat) : Word :=
  let th := s.thread n t
  let ch := isChan n
  let k := off % 0x100 / 8
  if s.fencedNode n then BitVec.allOnes 64
  else if off < 0x100 then th.reg .x k
  else if off < 0x200 then (if ch then 0 else th.reg .f k)
  else if off < 0x300 then (if ch then 0 else th.reg .w k)
  else if off < 0x340 then th.reg .q k
  else if off < 0x3A0 then th.lpReg (0x10 + (off - 0x340) / 8)
  else if off = 0x3A0 then vaOf th.pc
  else if off < 0x3F8 then
    let c := windowCsr ((off - 0x3A8) / 8)
    if threadCsrs ch c then th.csr (s.now n t) c else 0
  else if off = 0x400 then s.dbgStat n t
  else if off = 0x410 then (th.fullX ||| 1).setWidth 64 &&& 0xfffffffe
  else if off = 0x418 then (if ch then 0 else th.fullW ++ th.fullF)
  else if off = 0x420 then BitVec.ofNat 64 (th.run.undo.length * 256) ||| th.ctrl.repIdx.setWidth 64
  else if 0x440 ≤ off ∧ off < 0x480 then th.run.packet.getD ((off - 0x440) / 8) 0
  else if 0x480 ≤ off ∧ off < 0x4C0 then (s.heldEnt n t).elim 0 fun e => e.image ((off - 0x480) / 8)
  else if 0x800 ≤ off ∧ off < 0xA00 then (if ch then 0 else th.poolWord ((off - 0x800) / 8))
  else 0

/-! ### Writes -/

/-- Sets DBG_STAT.IGN. -/
def State.ignored (s : State) (n t : Nat) : State := s.modThread n t fun th => th.modRun fun r => { r with ign := true }

/-- The offset names a register or a part of the pool that a write can change. -/
def windowWritable (ch : Bool) (off : Nat) : Bool :=
  if off < 0x100 then true
  else if off < 0x300 then !ch
  else if off < 0x3A8 then true
  else if off < 0x3F8 then threadCsrs ch (windowCsr ((off - 0x3A8) / 8))
  else !ch && decide (0x800 ≤ off) && decide (off < 0xA00)

/-- A register or pool write that takes effect (R378); a channel core's THR_CTL has no REC (R251). -/
def Thread.windowWrite (th : Thread) (ch : Bool) (now off : Nat) (v : Word) : Thread :=
  let k := off % 0x100 / 8
  if off < 0x100 then (th.setReg .x k v).healed (.reg .x k)
  else if off < 0x200 then (th.setReg .f k v).healed (.reg .f k)
  else if off < 0x300 then (th.setReg .w k (v &&& 0xffffffff00001fff)).healed (.reg .w k)
  else if off < 0x340 then (th.setReg .q k (v &&& 0x0000ffff003fffff)).healed (.reg .q k)
  else if off < 0x3A0 then (th.setCsr now (0x10 + (off - 0x340) / 8) v true).healed (.csr (0x10 + (off - 0x340) / 8))
  else if off = 0x3A0 then
    { th with pc := v.setWidth 58 &&& ~~~3#58, ctrl := { th.ctrl with repIdx := 0 }, outs := th.outs.filter fun o => !o.held }
  else if off < 0x3F8 then (th.setCsr now (windowCsr ((off - 0x3A8) / 8)) (if ch && decide (off = 0x3C8) then v &&& 1 else v) true).healed (.csr (windowCsr ((off - 0x3A8) / 8)))
  else
    let g := (off - 0x800) / 2
    let lo := (th.pool.set g (v.extractLsb' 0 16)).set (g + 1) (v.extractLsb' 16 16)
    [g, g + 1, g + 2, g + 3].foldl (fun th k => th.healed (.granule k))
      { th with pool := (lo.set (g + 2) (v.extractLsb' 32 16)).set (g + 3) (v.extractLsb' 48 16) }

/-- RETRY and SKIP clear the pending error only where they act as RESUME (R147, R380). -/
def State.goOn (s : State) (n t : Nat) (held : Bool) : State := if held then s.runOn n t false else s.resume n t false
/-- A command of DBG_CTL (R380); a thread whose REDELIVER is under way takes none, and a fenced cell answers none (R378, R388). -/
def State.dbgCommand (s : State) (n t : Nat) (v : Word) : State :=
  let r := (s.thread n t).run
  let held := (s.heldEnt n t).isSome
  if !threadOk n t || s.fencedNode n then s
  else if v &&& ~~~15#64 ≠ 0 ∨ (r.rolling ∧ v ≠ 0) then s.ignored n t
  else
    match v.toNat with
    | 0 => s
    | 1 => if r.st = .frozen then (s.retryHeld n t).resume n t false else s.ignored n t
    | 2 => if r.st = .frozen then (s.retryHeld n t).goOn n t held else s.ignored n t
    | 3 => if r.st = .frozen then (s.skipHeld n t).goOn n t held else s.ignored n t
    | 4 => if r.st = .frozen then s.abandon n t else s.ignored n t
    | 5 =>
      if r.st = .frozen ∧ r.restart then (s.modThread n t fun th => th.modRun fun r => { r with rolling := true }).redeliver n t
      else s.ignored n t
    | 6 => if r.st = .frozen then (s.retryHeld n t).resume n t true else s.ignored n t
    | 7 =>
      if r.st = .running ∧ !r.leaving then
        let s := { s with blocked := s.blocked && decide (s.cur ≠ (n, t)) }
        s.takeTrap n t 0x62 false (s.repAt n t) (vaOf (s.thread n t).pc) 0 0
      else s.ignored n t
    | _ => s.ignored n t

/-- What a write to a window finds. -/
inductive WinWrite where
  /-- the write is over -/
  | done (s : State)
  /-- it is held until the thread has settled -/
  | held
deriving DecidableEq, Repr, Inhabited

/-- A write of a doubleword to a window (R378). -/
def State.windowWrite (s : State) (n t off : Nat) (v : Word) : WinWrite :=
  if !threadOk n t || s.fencedNode n then .done s
  else if off = 0x408 then .done (s.dbgCommand n t v)
  else if off = 0x400 then
    .done (if v.getLsbD 19 then s.modThread n t fun th => th.modRun fun r => { r with ign := false } else s)
  else if !windowWritable (isChan n) off then .done s
  else if (s.thread n t).run.st ≠ .frozen then .done (s.ignored n t)
  else if !s.settled n t then .held
  else .done (s.modThread n t fun th => th.windowWrite (isChan n) (s.now n t) off v)

/-- The offset inside a window of a device address. -/
def windowOff (pa : Nat) : Nat := pa % 0x1000
/-- A host write to a window: one that is held stands in State until its thread has settled. -/
def State.hostWindowWrite (s : State) (pa : BitVec 48) (v : Word) : State :=
  match windowOf pa.toNat with
  | none => s
  | some (n, t) =>
    match s.windowWrite n t (windowOff pa.toNat) v with
    | .done s => s
    | .held => { s with misc := { s.misc with dbgHeld := s.misc.dbgHeld ++ [(pa, v)] } }
/-- Performs the held writes whose threads have settled, in order. -/
def State.flushHeld (s : State) : State :=
  let ws := s.misc.dbgHeld
  if ws.isEmpty then s
  else ws.foldl (fun s p => s.hostWindowWrite p.1 p.2) { s with misc := { s.misc with dbgHeld := [] } }

/-- DEBUG_WINDOW_WRITE (R378): an 8-byte write by the host to a thread's window. -/
def execDebugWindowWrite (pa : BitVec 48) (v : BitVec 64) (s : State) : Out :=
  .next (if pa.toNat % 8 = 0 then s.flushHeld.hostWindowWrite pa v else s)

/-- DBG_RESUME (R380). -/
def execDbgResume (node thr : Nat) (s : State) : Out := .next (s.dbgCommand node thr 1)
/-- DBG_RETRY (R147, R380). -/
def execDbgRetry (node thr : Nat) (s : State) : Out := .next (s.dbgCommand node thr 2)
/-- DBG_SKIP (R147, R380). -/
def execDbgSkip (node thr : Nat) (s : State) : Out := .next (s.dbgCommand node thr 3)
/-- DBG_ABANDON (R380). -/
def execDbgAbandon (node thr : Nat) (s : State) : Out := .next (s.dbgCommand node thr 4)
/-- DBG_REDELIVER (R369, R380). -/
def execDbgRedeliver (node thr : Nat) (s : State) : Out := .next (s.dbgCommand node thr 5)
/-- DBG_STEP (R380). -/
def execDbgStep (node thr : Nat) (s : State) : Out := .next (s.dbgCommand node thr 6)
/-- DBG_FREEZE (R380). -/
def execDbgFreeze (node thr : Nat) (s : State) : Out := .next (s.dbgCommand node thr 7)

end Sys2Proof.Machine
end

