-- ==== Sys2Proof/Machine/DevSpace.lean ====
section
/-! DEFINITION. Device system space (R24): the command queue's and host fault ring's registers (R282, R377), the context table, the
mailbox, device and cell registers, the LPT window, handler entries and debug windows, as they read and as they are written. -/

namespace Sys2Proof.Machine

/-! ### Rings (R282, R377) -/

def ringLog (base : Word) : Nat := base.toNat % 32
/-- The completion area lies wholly in host or bulk space (R282). -/
def cbaseOk (base cbase : Word) : Bool :=
  let a := cbase.toNat / 16 * 16
  let b := a + 16 * 2 ^ ringLog base - 1
  (decide (spaceOf a = .host) && decide (spaceOf b = .host)) || (decide (spaceOf a = .bulk) && decide (spaceOf b = .bulk))
/-- The cox cores take commands (R282). -/
def Cox.cqValid (c : Cox) : Bool := ringOk c.cqBase 64 && cbaseOk c.cqBase c.cqCbase
/-- The new value of a ring's base: a LOG2N outside 4 to 16 leaves its field (R282). -/
def baseWrite (old v : Word) : Word :=
  let n := if 4 ≤ ringLog v ∧ ringLog v ≤ 16 then ringLog v else ringLog old
  (v &&& ~~~0x3f#64) ||| BitVec.ofNat 64 n
/-- A write of CQ_BASE or CQ_CBASE is accepted (R282). -/
def Cox.cqFree (c : Cox) : Bool := decide (c.cqHead = c.cqTail) || !c.cqValid
/-- A write of CQ_TAIL (R282). -/
def Cox.writeTail (c : Cox) (v : Word) : Cox :=
  if (v.setWidth 32 - c.cqHead).toNat ≤ 2 ^ ringLog c.cqBase then { c with cqTail := v.setWidth 32 } else c
def Cox.write (c : Cox) (off : Nat) (v : Word) : Cox :=
  match off with
  | 0x00 => if c.cqFree then { c with cqBase := baseWrite c.cqBase v } else c
  | 0x08 => if c.cqFree then { c with cqCbase := v &&& ~~~15#64 } else c
  | 0x18 => c.writeTail v
  | 0x28 => { c with tlbiAddr := v }
  | 0x40 => if c.hfqHead = c.hfqTail ∨ !ringOk c.hfqBase 64 then { c with hfqBase := baseWrite c.hfqBase v } else c
  | 0x48 => { c with hfqHead := v.setWidth 32 }
  | _ => c

/-! ### Reads -/

/-- A doubleword of the firmware and attestation mailbox, as the security core left it (R353, R354). -/
def Security.mailWord (c : Security) (off : Nat) : Word := BitVec.ofNat 64 (leNat ((c.mailbox.drop off).take 8))
/-- The low registers, to 0x5F. -/
def State.coxRead (s : State) (off : Nat) : Word :=
  match off with
  | 0x00 => s.cox.cqBase
  | 0x08 => s.cox.cqCbase
  | 0x10 => s.cox.cqHead.setWidth 64
  | 0x18 => s.cox.cqTail.setWidth 64
  | 0x20 => s.tlbiWord
  | 0x28 => s.cox.tlbiAddr
  | 0x30 => s.misc.stat
  | 0x40 => s.cox.hfqBase
  | 0x48 => s.cox.hfqHead.setWidth 64
  | 0x50 => s.cox.hfqTail.setWidth 64
  | 0x58 => s.cox.hfqLost.setWidth 64
  | _ => 0

def devBase : Nat := 0x400000000000
/-- The cell and the offset in its page of a cell-register or handler address (R24). -/
def cellPage (off : Nat) : Option (Nat × Nat) :=
  if 0x8000000 ≤ off ∧ off < 0x8000000 + 0x10000 * Config.cells then some ((off - 0x8000000) / 0x10000, off % 0x10000) else none
/-- The LPT copy and the entry of an address in the LPT window. -/
def lptPlace (off : Nat) : Option (Nat × Nat) :=
  if 0x100000 ≤ off ∧ off < 0x110000 then some ((off - 0x100000) / 0x2000, off % 0x2000 / 4) else none

/-- A doubleword of device system space at an aligned address (R24): anything that is not listed reads 0. -/
def State.devRead (s : State) (pa : Nat) : Word :=
  let off := pa - devBase
  if off < 0x60 then s.coxRead off
  else if 0x1000 ≤ off ∧ off < 0x2000 then (s.ctxEnt ((off - 0x1000) / 64)).read (off % 64 / 8)
  else if 0x4000 ≤ off ∧ off < 0x5000 then s.sec.mailWord (off - 0x4000)
  else if 0x8000 ≤ off ∧ off < 0xA000 then (if devCsrs ((off - 0x8000) / 8) then s.devCsr ((off - 0x8000) / 8) else 0)
  else if 0x200000 ≤ off ∧ off < 0x200200 then
    (if off % 0x100 < 0x20 then vget (vget s.misc.loftCnt ((off - 0x200000) / 0x100)) (off % 0x100 / 8) else 0)
  else
    match lptPlace off, cellPage off, windowOf pa with
    | some (d, i), _, _ => s.lptEntry d (i + 1) ++ s.lptEntry d i
    | _, some (n, o), _ =>
      if o < 0x2000 then (if cellCsrs false (o / 8) || supCsrs false (o / 8) then s.cellCsr n (o / 8) else 0)
      else if 0x8000 ≤ o ∧ o < 0x8200 then vget (s.cell n).sched.handlers ((o - 0x8000) / 8)
      else 0
    | _, _, some (n, t) => s.windowRead n t (windowOff pa)
    | _, _, _ => 0
/-- What a read changes: a debug read raises a cell from retention (R315). -/
def State.devTouch (s : State) (pa : Nat) : State :=
  match windowOf pa with
  | some (n, _) => s.wake n
  | none => s

/-- The widths that device system space takes (R24): a doubleword, and 4 bytes of the LPT window when reading. -/
def devWidthOk (pa len : Nat) (rd : Bool) : Bool :=
  decide (pa % len = 0) && (decide (len = 8) || (rd && decide (len = 4) && (lptPlace (pa - devBase)).isSome))
/-- A read of either width. -/
def State.devReadLen (s : State) (pa len : Nat) : Word :=
  if len = 4 then
    match lptPlace (pa - devBase) with
    | some (d, i) => (s.lptEntry d i).setWidth 64
    | none => 0
  else s.devRead pa

/-! ### Writes -/

/-- A handler entry written whole (R272). -/
def handlerWord (v : Word) : Word := v &&& ~~~0x100000000000000
def State.setHandler (s : State) (n h : Nat) (v : Word) : State :=
  s.modSched n fun c => { c with handlers := vset c.handlers h (handlerWord v) }

/-- A doubleword written by the host or a thread, and by the cox cores where `cox` (R15, R24, R256): what is not listed ignores
it. Debug windows have their own way (R378). The mailbox range (R24) is among what ignores a write: the spec gives no protocol of its
writes, so a nonce and a recovery image enter whole, as events (the model's choice, log 111). -/
def State.devWrite (s : State) (cox : Bool) (pa : Nat) (v : Word) : State :=
  let off := pa - devBase
  if off = 0x20 then s.hostTlbi v
  else if off < 0x60 then { s with cox := s.cox.write off v }
  else if 0x1000 ≤ off ∧ off < 0x2000 then s.writeCtx ((off - 0x1000) / 64) (off % 64 / 8) v
  else if 0x8000 ≤ off ∧ off < 0xA000 then (if devCsrs ((off - 0x8000) / 8) then s.setDevCsr cox ((off - 0x8000) / 8) v else s)
  else
    match lptPlace off, cellPage off with
    | some (d, i), _ =>
      if cox then
        let put := fun (s : State) (i : Nat) (e : BitVec 32) =>
          if 2 < lptState e ∨ 16 < (e.extractLsb' 4 5).toNat then s
          else { s with lpt := assocSet s.lpt (2048 * d + i) (e &&& 0x70fff#32) }
        put (put s i (v.extractLsb' 0 32)) (i + 1) (v.extractLsb' 32 32)
      else s
    | _, some (n, o) =>
      if o < 0x2000 then s.setCellCsr n (o / 8) v
      else if 0x8000 ≤ o ∧ o < 0x8200 then s.setHandler n ((o - 0x8000) / 8) v
      else s
    | _, _ => s

/-- CQ_TAIL_WRITE (R282): the host writes CQ_TAIL. -/
def execCqTailWrite (v : BitVec 64) (s : State) : Out := .next { s with cox := s.cox.writeTail v }

/-- REGISTER_WRITE (R5, R24): a write to a register of device system space by the host through BAR0 (below 0x4000_2000_0000), or by
the cox cores. A write of another alignment is discarded. -/
def execRegisterWrite (host : Bool) (pa : BitVec 48) (v : BitVec 64) (s : State) : Out :=
  let a := pa.toNat
  if a % 8 ≠ 0 ∨ spaceOf a ≠ .dev ∨ (host ∧ 0x400020000000 ≤ a) then .next s
  else if (windowOf a).isSome then .next (s.flushHeld.hostWindowWrite pa v)
  else .next (s.devWrite (!host) a v)

end Sys2Proof.Machine
end

