-- ==== Sys2Proof/Machine/Remote.lean ====
section
/-! DEFINITION. Accesses by virtual address: LDV and STV (R231, R232), the atomics (R233, R234), DECN (R235), FENCE and EFENCE (R237,
R238), with what each does at a bank. -/

namespace Sys2Proof.Machine

/-! ### What an operation does at its bank -/

/-- The register image of a load's bytes. -/
def loadImage (len : Nat) (sext : Bool) (v : Nat) : Word := if sext then signed (8 * len) v else unsigned (8 * len) v

/-- The new value of an AMO on `w` bytes (R233). -/
def amoNew (op : Nat) (sat : BitVec 2) (w old b : Nat) : Nat :=
  let n := 8 * w
  let sg := fun v : Nat => (BitVec.ofNat n v).toInt
  let x := old % 2 ^ n
  let y := b % 2 ^ n
  match op with
  | 0 => if sat = 2 then (fitBits sat n ((x : Int) + y)).toNat else (fitBits sat n (sg x + sg y)).toNat
  | 1 => x &&& y
  | 2 => x ||| y
  | 3 => x ^^^ y
  | 4 => if sg y < sg x then y else x
  | 5 => if sg x < sg y then y else x
  | 6 => min x y
  | 7 => max x y
  | _ => y
/-- Bytes of an AMO by its funct5: bit 4 is the width (R56). -/
def amoBytes (op : Nat) : Nat := if op / 16 % 2 = 1 then 8 else 4
/-- An AMO at its bank (R208, R220): the old bytes; one on a poisoned line is not performed (R365). -/
def State.amoAt (s : State) (who : Option Nat) (pa op : Nat) (sat : BitVec 2) (b : Nat) : State × Nat :=
  let w := amoBytes op
  let old := s.readNat pa w
  if s.poisoned pa then (s, old) else (s.bankWrite who pa (natBytes w (amoNew (op % 16) sat w old b)), old)
/-- AMO.CAS at its bank (R234): one that fails is a load. -/
def State.casAt (s : State) (who : Option Nat) (pa : Nat) (expected new : Word) : State × Nat :=
  let old := s.readNat pa 8
  if !s.poisoned pa ∧ old = expected.toNat then (s.bankWrite who pa (natBytes 8 new.toNat), old) else (s, old)

/-! ### Loads (R210, R212) -/

/-- The level of the leaf that translates an address. -/
def State.lvlOf (s : State) (n ctx : Nat) (va : Word) : Nat :=
  match s.leafFor (s.dieOf n) ctx va with
  | .ok (l, _) => l
  | .error _ => 3

/-- Bytes that a STORE message writes, coded in AUX (log 10). -/
def Msg.storeLen (m : Msg) : Nat := 2 ^ m.aux.toNat
/-- Bytes that a message that writes at a bank covers. -/
def Msg.width (m : Msg) : Nat :=
  if m.kind = kStore then m.storeLen else if m.kind = kAmo then amoBytes m.aux.toNat else if m.kind = kDecn then 4 else 8
/-- What an AMO, AMO.CAS or DECN makes of the bytes that it finds (R233 to R235). -/
def Msg.newValue (m : Msg) (old : Nat) : Nat :=
  if m.kind = kAmo then amoNew (m.aux.toNat % 16) m.sat m.width old m.opb.toNat
  else if m.kind = kDecn then old - m.opb.toNat
  else if old = (m.payload.headD 0).toNat then m.opb.toNat else old
/-- The message writes in a line. -/
def Msg.liesOver (m : Msg) (line : Nat) : Bool := m.writes && decide (lineOf m.pa = line)
/-- A line's bytes, as far as they are known, after a write that lies over it: an atomic on bytes that are not known leaves them so. -/
def Msg.onLine (m : Msg) (bs : List (Option Byte)) : List (Option Byte) :=
  let o := m.pa % 64
  let w := m.width
  let old := (bs.drop o).take w
  let new := if m.kind = kStore then (natBytes w m.opb.toNat).map some
    else if old.all Option.isSome then (natBytes w (m.newValue (leNat (old.map fun b => b.getD 0)))).map some
    else List.replicate w none
  bs.take o ++ new ++ bs.drop (o + w)
/-- The writes over a line that a load of the thread finds before the home (R210): the stores in the cell's forward buffer, then what the
thread's own outbox holds, in program order. -/
def State.writesOver (s : State) (n t line : Nat) : List Msg :=
  ((s.cell n).mem.fwd.map FwdEnt.msg).filter (fun m => decide (m.kind = kStore) && m.liesOver line)
    ++ (s.thread n t).run.outbox.filter fun m => m.liesOver line
/-- An AMO, AMO.CAS or DECN over some of these bytes is released and not yet performed: what it writes is known at its home alone, and a
load of the bytes waits for it (R210; log 34). -/
def State.atomicAhead (s : State) (n pa len : Nat) : Bool :=
  (s.cell n).mem.fwd.any fun e =>
    e.msg.writes && decide (e.msg.kind ≠ kStore) && decide (e.msg.pa < pa + len) && decide (pa < e.msg.pa + e.msg.width)

/-- The line in the issuing core's L1D (R212). -/
def State.l1Line (s : State) (n t line : Nat) : Option L1Line := (s.core n t).l1d.find? fun l => l.line = line
/-- A load of the thread to that line is still to return (R210). -/
def State.missing (s : State) (n t line : Nat) : Bool :=
  (s.cell n).mem.fwd.any fun e => e.load && decide (e.msg.thr = t) && decide (lineOf (nodeBase e.msg.dst + e.msg.opa.toNat) = line)

/-- A variable-latency result is written at a core cycle (R50), after the fixed-latency results that complete by then (R49). -/
def Thread.fill (th : Thread) (now : Nat) (fl : File) (r : Nat) (v : Word) : Thread := ((th.settle now).setReg fl r v).setFull fl r true
def State.fillD (s : State) (A : Args) (v : Word) : State := s.modThread A.n A.t fun th => th.fill (s.now A.n A.t) A.fd A.d v

/-- A line as the thread finds it without its home (R210): what the L1D holds of it, unless an earlier load of the thread to the line is
still to return, under the writes that the forward buffer and the outbox supply. -/
def State.seen (s : State) (n t line : Nat) : List (Option Byte) :=
  let hit := if s.missing n t line then none else s.l1Line n t line
  (s.writesOver n t line).foldl (fun bs m => m.onLine bs) (hit.elim (List.replicate 64 none) fun l => l.bytes.map some)
/-- Sends a remote load: an REQ outside the outbox (R232). -/
def State.sendLoad (s : State) (A : Args) (va : Word) (h o len : Nat) (sext : Bool) (held : Bool) : State :=
  let th := A.th s
  let m : Msg := { kind := kLoad, src := A.n, dst := h, thr := A.t, ctx := A.ctx s, opa := BitVec.ofNat 64 o
                   aux := BitVec.ofNat 6 len, va := some va, lvl := s.lvlOf A.n (A.ctx s) va, pc := A.pc, launch := th.launch }
  let out : Outst := { file := A.fd, reg := A.d, value := 0, wait := some s.nextId, size := len, sext := sext
                       laid := s.writesOver A.n A.t (lineOf (nodeBase h + o)), addr := va, held := held
                       rep := A.ctl.rep.any fun p => repCount p ≠ 0, idx := th.ctrl.repIdx, ord := th.run.ops }
  let s := s.modThread A.n A.t fun th =>
    { (if held then th else th.setFull A.fd A.d false) with outs := th.outs ++ [out] }
  s.sendKept A.n m true

/-- A remote load under PRECISE (R366) that is on its way: its thread waits at it until the data has come, and takes cause 0x50 where they
are not clean. -/
def heldLoad (A : Args) (s : State) : Res :=
  match (A.th s).outs.find? fun o => o.held with
  | none => .wait s
  | some o =>
    if o.wait.isSome then .wait s
    else
      let s := s.modThread A.n A.t fun th => { th with outs := th.outs.filter fun o => !o.held }
      if o.poison then .trapIn s { cause := 0x50, addr := o.addr, detail := 7 } else .done (s.fillD A o.value)

/-- LDV (R231). -/
def ldvBody (len : Nat) (sext : Bool) (imm : Word) (A : Args) (s : State) : Res :=
  if A.fd = .x ∧ A.d = 0 then .done (s.touch A.n)
  else
    let va := A.ra s + imm
    match s.translateAligned A.n (A.ctx s) .load spaceLdSt va len with
    | .error f => .trap f
    | .ok pa =>
      match homeOf pa with
      | none =>
        if devWidthOk pa len true then .done ((s.devTouch pa).fillD A (loadImage len sext (s.devReadLen pa len).toNat))
        else .trap { cause := 0x24, addr := va, detail := accDetail 0 }
      | some (h, o) =>
        if h = A.n then
          match s.loadAt A va o len with
          | .error f => .trap f
          | .ok (v, s) => .done (s.writeVarD A (loadImage len sext v))
        else
          let send := s.sendLoad A va h o len sext
          if (A.th s).outs.any Outst.held then heldLoad A s
          else if s.atomicAhead A.n pa len then .wait s
          else
            let bs := (s.seen A.n A.t (lineOf pa)).drop (pa % 64) |>.take len
            if bs.all Option.isSome then .done (s.writeVarD A (loadImage len sext (leNat (bs.map fun b => b.getD 0))))
            else if s.precise A.n (A.slot s) then .wait (send true)
            else .done (send false)

/-! ### Stores -/

/-- The outbox has no room for a payload (R239). -/
def boxFail (A : Args) (s : State) (bytes : Nat) : Option Fail :=
  if (A.th s).outboxRoom bytes then none else some { cause := 0x33 }

/-- An uncached write (R204, R368, R378): one to a debug window may be held until its thread has settled. -/
def State.uncachedWrite (s : State) (A : Args) (pa : Nat) (v : Word) : Res :=
  match windowOf pa with
  | none => .done ((s.devWrite false pa v).noRestart A.n A.t)
  | some (n, t) =>
    match (s.wake n).windowWrite n t (windowOff pa) v with
    | .done s => .done (s.noRestart A.n A.t)
    | .held => .wait s

/-- STV (R231, R232): `val` is the value that xs2 gives under SAT. -/
def stvBody (len : Nat) (val : Args → State → Nat) (imm : Word) (A : Args) (s : State) : Res :=
  let va := A.ra s + imm
  match s.translateAligned A.n (A.ctx s) .store spaceLdSt va len with
  | .error f => .trap f
  | .ok pa =>
    match homeOf pa with
    | none =>
      if devWidthOk pa len false then s.uncachedWrite A pa (BitVec.ofNat 64 (val A s))
      else .trap { cause := 0x24, addr := va, detail := accDetail 1 }
    | some (h, o) =>
      if h = A.n then
        let v := natBytes len (val A s)
        claimed A s [lineOf pa] fun s => .done (s.storeLocal A o v)
      else
        Res.unless (boxFail A s 0)
          (.done (s.push A.n A.t { kind := kStore, dst := h, opa := BitVec.ofNat 64 o, opb := BitVec.ofNat 64 (val A s)
                                   aux := BitVec.ofNat 6 (Nat.log2 len), va := some va, lvl := s.lvlOf A.n (A.ctx s) va }))

/-! ### Atomics -/

/-- What an instruction whose messages a release lets go answers while the forward buffer is full, or where a slot no longer
translates (R209, R342). -/
def released (r : State × Released) (k : State → Res) : Res :=
  match r with
  | (s, .all) => k s
  | (s, .full) => .wait s
  | (s, .fault f) => .trapIn s f

/-- The remote form of an atomic (R204): with destination x0 an outbox slot, else it releases the outbox up to itself and its
result returns (R211, R368). -/
def remoteAtomic (A : Args) (m : Msg) (len : Nat) (va : Word) (s : State) : Res :=
  Res.unless (boxFail A s 0)
    (if A.fd = .x ∧ A.d = 0 then .done (s.push A.n A.t m)
     else released ((s.noRestart A.n A.t).releaseAll A.n A.t) fun s =>
       if fwdPlaces A.n ≤ (s.cell A.n).mem.fwdUsed then .wait s
       else
         let id := s.nextId
         let s := s.push A.n A.t m
         let out : Outst := { file := A.fd, reg := A.d, value := 0, wait := some id, size := len, sext := true, addr := va
                              ord := (A.th s).run.ops }
         let s := s.modThread A.n A.t fun th => { th.setFull A.fd A.d false with outs := th.outs ++ [out] }
         .done (s.releaseAll A.n A.t).1)

/-- An atomic: `act` performs it at a bank for the issuing run, where `wr` says that it writes, once no other cell holds the line (R213,
R220), and `msg` is its message. -/
def atomicBody (len : Nat) (act : Args → State → Nat → State × Nat) (wr : Args → State → Nat → Bool) (msg : Args → State → Msg) (A : Args)
    (s : State) : Res :=
  let va := A.ra s
  match s.translateAligned A.n (A.ctx s) .amo spaceBank va len with
  | .error f => .trap f
  | .ok pa =>
    match homeOf pa with
    | none => .trap { cause := 0x26, addr := va, detail := accDetail 2 }
    | some (h, o) =>
      if h = A.n then
        let bad := s.poisoned pa
        if bad ∧ s.precise A.n (A.slot s) ∧ !(A.fd = .x ∧ A.d = 0) then .trap { cause := 0x50, addr := va }
        else
          claimed A s (if !bad && wr A s pa then [lineOf pa] else []) fun s =>
            let (s, old) := act A s pa
            let s := if bad then s.modThread A.n A.t fun th => th.failed va 0 else s
            .done (s.writeVarD A (signed (8 * len) old))
      else
        remoteAtomic A { msg A s with dst := h, opa := BitVec.ofNat 64 o, va := some va, lvl := s.lvlOf A.n (A.ctx s) va } len va s

/-- AMO with an operation (R233); `w` is funct5's bit 4. -/
def amoBody (op : Nat) (w : BitVec 1) : Args → State → Res :=
  let f5 := op + 16 * w.toNat
  atomicBody (amoBytes f5) (fun A s pa => s.amoAt (some A.t) pa f5 A.ctl.satMode (A.rb s).toNat) (fun _ _ _ => true)
    fun A s => { kind := kAmo, opb := A.rb s, aux := BitVec.ofNat 6 f5, sat := A.ctl.satMode }

/-- AMO.CAS (R234, R254). -/
def casBody : Args → State → Res :=
  atomicBody 8 (fun A s pa => s.casAt (some A.t) pa (A.rb s) (A.re s)) (fun A s pa => decide (s.readNat pa 8 = (A.rb s).toNat))
    fun A s => { kind := kCas, opb := A.re s, payload := [A.rb s] }

/-- DECN (R235): an outbox message whatever the home. -/
def decnBody (A : Args) (s : State) : Res :=
  let va := A.ra s
  match s.translateAligned A.n (A.ctx s) .amo spaceBank va 4 with
  | .error f => .trap f
  | .ok pa =>
    match homeOf pa with
    | none => .trap { cause := 0x26, addr := va, detail := accDetail 2 }
    | some (h, o) =>
      Res.unless (boxFail A s 0)
        (.done (s.push A.n A.t { kind := kDecn, dst := h, opa := BitVec.ofNat 64 o, opb := (A.rb s).setWidth 32 |>.setWidth 64
                                 va := some va, lvl := s.lvlOf A.n (A.ctx s) va }))

/-! ### Fences -/

/-- The second half of a FENCE: earlier loads have returned, and the writes that it waits for are performed (R218, R219). -/
def fenceWait (ids : List Nat) (A : Args) (s : State) : Res :=
  if (A.th s).outs.isEmpty ∧ !s.anyInFlight ids then .done (s.modThread A.n A.t fun th => th.modRun fun r => { r with fence := none })
  else .wait (s.modThread A.n A.t fun th => th.modRun fun r => { r with fence := some ids })
/-- What a FENCE waits for beside the thread's loads (R217, R218): at region scope and wider the writes that the forward buffer holds, and at
system scope the engine's lines on their way to host memory or an optical port, until they are issued on the host link or the peer port
has acknowledged them (R227, R345). -/
def MemSide.fenceIds (m : MemSide) (scope : Nat) : List Nat :=
  if scope < 3 then []
  else m.writeIds ++ (if scope = 5 then (m.fwd.filter fun e => e.msg.leavesDevice).map fun e => e.msg.id else [])
/-- FENCE (R218): at core scope and wider it first releases the outbox; what it then waits for depends on its scope. -/
def fenceBody (scope : Nat) (A : Args) (s : State) : Res :=
  if 5 < scope then .illegal
  else
    match (A.th s).run.fence with
    | some ids => fenceWait ids A s
    | none =>
      if scope = 0 then fenceWait [] A s
      else released ((s.noRestart A.n A.t).releaseAll A.n A.t) fun s =>
        fenceWait ((s.cell A.n).mem.fenceIds scope) A s

/-- EFENCE (R228, R238, R366): the thread's earlier operations return, then a pending error is dealt with. -/
def efenceBody (A : Args) (s : State) : Res :=
  let th := A.th s
  let out := !th.outs.isEmpty || (s.cell A.n).mem.fwd.any fun e => decide (e.msg.cls = 0) && decide (e.msg.thr = A.t)
  if out then .wait s
  else
    match th.run.pendErr with
    | none => .done s
    | some a =>
      if s.mayRetry A.n A.t then
        if !s.wuIdle A.n A.t then .wait s
        else
          match s.rollBack A.n A.t with
          | (s, true) => .stop s
          | (s, false) => .wait s
      else .stop (s.freezeError A.n A.t a)

/-! ### The instructions -/

def execLdvB (c : Ctl) (d a : BitVec 5) (i : BitVec 10) (s : State) : Out := run (.ldvB c d a i) false (ldvBody 1 true (c.imm i)) s
def execLdvH (c : Ctl) (d a : BitVec 5) (i : BitVec 10) (s : State) : Out := run (.ldvH c d a i) false (ldvBody 2 true (c.imm i)) s
def execLdvW (c : Ctl) (d a : BitVec 5) (i : BitVec 10) (s : State) : Out := run (.ldvW c d a i) false (ldvBody 4 true (c.imm i)) s
def execLdvD (c : Ctl) (d a : BitVec 5) (i : BitVec 10) (s : State) : Out := run (.ldvD c d a i) false (ldvBody 8 true (c.imm i)) s
def execLdvBu (c : Ctl) (d a : BitVec 5) (i : BitVec 10) (s : State) : Out := run (.ldvBu c d a i) false (ldvBody 1 false (c.imm i)) s
def execLdvHu (c : Ctl) (d a : BitVec 5) (i : BitVec 10) (s : State) : Out := run (.ldvHu c d a i) false (ldvBody 2 false (c.imm i)) s
def execLdvWu (c : Ctl) (d a : BitVec 5) (i : BitVec 10) (s : State) : Out := run (.ldvWu c d a i) false (ldvBody 4 false (c.imm i)) s
def execStvB (c : Ctl) (a b : BitVec 5) (i : BitVec 10) (s : State) : Out := run (.stvB c a b i) false (stvBody 1 (satLow 8) (c.imm i)) s
def execStvH (c : Ctl) (a b : BitVec 5) (i : BitVec 10) (s : State) : Out := run (.stvH c a b i) false (stvBody 2 (satLow 16) (c.imm i)) s
def execStvW (c : Ctl) (a b : BitVec 5) (i : BitVec 10) (s : State) : Out := run (.stvW c a b i) false (stvBody 4 (satLow 32) (c.imm i)) s
def execStvD (c : Ctl) (a b : BitVec 5) (i : BitVec 10) (s : State) : Out :=
  run (.stvD c a b i) false (stvBody 8 (fun A s => (A.rb s).toNat) (c.imm i)) s
def execAmoAdd (c : Ctl) (w : BitVec 1) (d a b : BitVec 5) (s : State) : Out := run (.amoAdd c w d a b) false (amoBody 0 w) s
def execAmoAnd (c : Ctl) (w : BitVec 1) (d a b : BitVec 5) (s : State) : Out := run (.amoAnd c w d a b) false (amoBody 1 w) s
def execAmoOr (c : Ctl) (w : BitVec 1) (d a b : BitVec 5) (s : State) : Out := run (.amoOr c w d a b) false (amoBody 2 w) s
def execAmoXor (c : Ctl) (w : BitVec 1) (d a b : BitVec 5) (s : State) : Out := run (.amoXor c w d a b) false (amoBody 3 w) s
def execAmoMin (c : Ctl) (w : BitVec 1) (d a b : BitVec 5) (s : State) : Out := run (.amoMin c w d a b) false (amoBody 4 w) s
def execAmoMax (c : Ctl) (w : BitVec 1) (d a b : BitVec 5) (s : State) : Out := run (.amoMax c w d a b) false (amoBody 5 w) s
def execAmoMinu (c : Ctl) (w : BitVec 1) (d a b : BitVec 5) (s : State) : Out := run (.amoMinu c w d a b) false (amoBody 6 w) s
def execAmoMaxu (c : Ctl) (w : BitVec 1) (d a b : BitVec 5) (s : State) : Out := run (.amoMaxu c w d a b) false (amoBody 7 w) s
def execAmoSwap (c : Ctl) (w : BitVec 1) (d a b : BitVec 5) (s : State) : Out := run (.amoSwap c w d a b) false (amoBody 8 w) s
def execAmoCas (c : Ctl) (d a b e : BitVec 5) (s : State) : Out := run (.amoCas c d a b e) false casBody s
def execDecn (c : Ctl) (a b : BitVec 5) (s : State) : Out := run (.decn c a b) false decnBody s
def execFence (c : Ctl) (i : BitVec 10) (s : State) : Out := run (.fence c i) false (fenceBody i.toNat) s
def execEfence (c : Ctl) (s : State) : Out := run (.efence c) false efenceBody s

/-- VARIABLE_LATENCY_RESULT (R50): result `k` of a thread that waits for no message is written and its register is full. -/
def execVariableLatencyResult (node thr k : Nat) (s : State) : Out :=
  match (s.thread node thr).outs[k]? with
  | none => .next s
  | some o =>
    if o.wait.isSome ∨ o.held then .next s
    else .next (s.modThread node thr fun th => ({ th with outs := th.outs.eraseIdx k }).fill (s.now node thr) o.file o.reg o.value)

end Sys2Proof.Machine
end

