-- ==== Sys2Proof/Machine/Network.lean ====
section
/-! DEFINITION. Messages on their way: injection and its conditions (R207, R211, R221), the checks of an arrival, what the home banks do
(R208 to R214, R233 to R235, R280, R293), acceptance of SEND and SPAWN (R274, R297), and the answers with their retries (R255, R275,
R276). -/

namespace Sys2Proof.Machine

/-! ### The forward buffer -/

/-- Two messages travel in one order (R207). -/
def Msg.paired (a b : Msg) : Bool := decide (a.dst = b.dst) && decide (a.cls = b.cls)
/-- Entries whose message was injected before an id's, to the same destination in the same class (R207). -/
def MemSide.ahead (k : MemSide) (id : Nat) : List FwdEnt :=
  match k.fwd.find? fun e => e.msg.id = id with
  | none => []
  | some x => k.fwd.filter fun e => decide (0 < e.inj) && decide (e.inj < x.inj) && e.msg.paired x.msg
/-- Earlier slots of the same destination and class that wait (R211). -/
def MemSide.waitAhead (k : MemSide) (id : Nat) : Bool :=
  match k.fwd.find? fun e => e.msg.id = id with
  | none => false
  | some x => (k.fwd.takeWhile fun e => e.msg.id ≠ id).any fun e => decide (e.st = .queued) && e.msg.paired x.msg
def State.dropFwd (s : State) (n id : Nat) : State := s.modMem n fun k => { k with fwd := k.fwd.filter fun e => e.msg.id ≠ id }
/-- Writes that a release still waits for (R219, R221). -/
def FwdEnt.unmet (e : FwdEnt) (k : MemSide) : List Nat := e.needs.filter fun i => k.fwd.any fun x => x.msg.id = i

/-- A released slot may be injected (R211): its condition holds and no earlier slot of its destination and class waits. A frozen
fabric die injects only MNT traffic (R388). -/
def State.canInject (s : State) (n : Nat) (e : FwdEnt) : Bool :=
  let k := (s.cell n).mem
  decide (e.st = .queued) && (e.unmet k).isEmpty && !k.waitAhead e.msg.id && (!(s.cell n).net.frozen || decide (e.msg.cls = 5))
/-- SLOT_INJECT (R221): the entry of an id is injected. -/
def State.injectSlot (s : State) (n id : Nat) : State :=
  match (s.cell n).mem.fwd.find? fun e => e.msg.id = id with
  | none => s
  | some e => if s.canInject n e then s.injectFwd n e.msg else s
def execSlotInject (node k : Nat) (s : State) : Out := .next (s.injectSlot node k)

/-- The scope that a retried release has: the wider of what it met and what scope_of gives now (R223). -/
def State.retryScope (s : State) (m : Msg) : BitVec 3 :=
  if m.releases ∧ !m.command then BitVec.ofNat 3 (max m.scope.toNat (s.scopeOf m.src m.dst m.launch).toNat) else m.scope
/-- A retry is still to come for an entry: it is in back-off, or waits once more for the writes ahead of its release (R223, R275). -/
def FwdEnt.toRetry (e : FwdEnt) : Bool :=
  match e.st with
  | .wait _ => true
  | .queued => decide (0 < e.nacks)
  | .sent => false
/-- The back-off of an entry is over, and no message injected before it is still to be retried (R207, R275). -/
def State.canRetry (s : State) (n : Nat) (e : FwdEnt) : Bool :=
  (match e.st with
    | .wait due => decide (due ≤ s.fab)
    | _ => false)
  && !((s.cell n).mem.ahead e.msg.id).any FwdEnt.toRetry && (!(s.cell n).net.frozen || decide (e.msg.cls = 5))
/-- RETRY_TIMER (R275): a release whose scope grew waits for the writes ahead of it. -/
def State.retry (s : State) (n id : Nat) : State :=
  match (s.cell n).mem.fwd.find? fun e => e.msg.id = id with
  | none => s
  | some e =>
    if !s.canRetry n e then s
    else
      let sc := s.retryScope e.msg
      let m := { e.msg with scope := sc }
      let grew := decide (e.msg.scope.toNat < 3) && decide (3 ≤ sc.toNat) && m.releases
      let older := ((s.cell n).mem.fwd.takeWhile fun x => x.msg.id ≠ id).filter fun x => x.msg.writes
      if grew ∧ !older.isEmpty then s.modFwd n id fun e => { e with msg := m, st := .queued, needs := older.map fun x => x.msg.id }
      else s.injectFwd n m
def execRetryTimer (node k : Nat) (s : State) : Out := .next (s.retry node k)

/-! ### Arrival -/

/-- A message whose sender keeps it until it is answered, so that a NACK makes it come again: a request, an engine's line, a partial
result, a TASKMOVE, a fault packet (R247, R275, R277, R376; log 89). -/
def Msg.nackable (m : Msg) : Bool :=
  m.cls = 0 || m.cls = 2 || m.cls = 3 || (decide (m.cls = 4) && decide (m.kind = 0x10)) || (decide (m.cls = 5) && decide (m.kind = 0x20))
/-- The message of an id, class and kind, if it is the next of its source, destination and class (R207), and the network
without it. One that cannot be NACKed, and whose route needs a lost link, waits for the new routing (R399; log 89). -/
def State.arrived (s : State) (id cls kind : Nat) : Option (Msg × State) :=
  match s.net.find? fun m => decide (m.id = id) && decide (m.cls.toNat = cls) && decide (m.kind.toNat = kind) && decide (m.rsv = 0) with
  | none => none
  | some m =>
    let earlier := (s.net.takeWhile fun x => x ≠ m).any fun x => decide (x.src = m.src) && m.paired x
    if earlier || (!m.nackable && s.crossesLost m) then none else some (m, { s with net := dropFirst (· == m) s.net })

/-- NACK reasons (R255). -/
def nkBusy : Nat := 0
def nkSwitched : Nat := 1
def nkFenced : Nat := 2
def nkNoHandler : Nat := 3

/-- An answer to a message from a node, in the RSP class with its id. -/
def State.answerFrom (s : State) (who : Nat) (m : Msg) (kind aux : Nat) (opb : Word) (payload : List Word) : State :=
  s.inject { id := m.id, cls := 1, kind := BitVec.ofNat 8 kind, src := who, dst := m.src, thr := m.thr, ctx := m.ctx
             opa := m.opa, opb := opb, aux := BitVec.ofNat 6 aux, payload := payload, launch := m.launch }
/-- An answer of the destination. -/
def State.answer (s : State) (m : Msg) (kind aux : Nat) (opb : Word) (payload : List Word) : State :=
  s.answerFrom m.dst m kind aux opb payload
def State.ack (s : State) (m : Msg) : State := s.answer m 1 0 0 []
def State.nackFrom (s : State) (who : Nat) (m : Msg) (reason : Nat) : State := s.answerFrom who m 3 reason 0 []
def State.nack (s : State) (m : Msg) (reason : Nat) : State := s.nackFrom m.dst m reason

/-- A message ahead of this one, of its source and class, was NACKed and its retry has not arrived (R207). -/
def State.behindNack (s : State) (m : Msg) : Bool :=
  ((s.cell m.src).mem.ahead m.id).any fun e =>
    e.toRetry || s.net.any fun x =>
      decide (x.id = e.msg.id) && ((decide (0 < e.nacks) && decide (x.cls = e.msg.cls)) || (decide (x.cls = 1) && decide (x.kind = 3)))

/-- The router that has fenced the destination stands before it (R388): the answering node, the last router of the route, or the cox cores
for a message that no such router sees (log 18). -/
def State.fencedBy (s : State) (m : Msg) : Option Nat :=
  if isChan m.dst then none
  else
    match s.exitPort m with
    | some p => if (s.vote p.1 p.2).closed then some p.1 else if lptState (s.seenEntry m.src m.dst) = 2 then some p.1 else none
    | none => if lptState (s.seenEntry m.src m.dst) = 2 then some coxNode else none
/-- Why a message is turned away before its home looks at it, and which node says so (R15, R16, R207, R271, R388, R399). A cell that moves
takes CTL and MNT messages (R321). -/
def State.turnedAway (s : State) (m : Msg) : Option (Nat × Nat) :=
  if s.behindNack m || s.crossesLost m then some (nkBusy, m.dst)
  else
    match s.fencedBy m with
    | some who => some (nkFenced, who)
    | none =>
      if !isChan m.dst ∧ m.cls.toNat < 4 ∧ (lptState (s.seenEntry m.src m.dst) = 1 ∨ m.phys ≠ s.physOf m.dst) then some (nkSwitched, m.dst)
      else if m.cls = 0 ∧ ((s.slotOf m.dst m.ctx).any fun k => (s.cell m.dst).sched.slotState k == 2) then some (nkSwitched, m.dst)
      else none
/-- A message that its sender keeps, on arrival: turned away with a NACK, or taken. -/
def State.taken (s : State) (id cls : Nat) (kind : BitVec 8) (act : State → Msg → State) : State :=
  match s.arrived id cls kind.toNat with
  | none => s
  | some (m, s) =>
    match s.turnedAway m with
    | some (r, who) => s.nackFrom who m r
    | none => act s m

/-- The node's own writes for an arrived message are made when their turn at every line has come (R213): until then the message waits. -/
def State.whenClaimed (s : State) (m : Msg) (lines : List Nat) (act : State → State) : State :=
  match s.claimLines m.dst (32 + m.id) lines with
  | (s, true) => act (s.unclaim m.dst (32 + m.id))
  | (s, false) => { s with net := m :: s.net }

/-! ### The banks -/

/-- The request writes at its bank (R213, R220, R235). -/
def State.writesAt (s : State) (m : Msg) : Bool :=
  if m.cls = 2 then true
  else if m.kind = kCas then !s.poisoned m.pa && decide (s.readNat m.pa 8 = (m.payload.headD 0).toNat)
  else if m.kind = kDecn then decide (m.opb ≠ 0)
  else m.kind = kStore || m.kind = kAmo || m.kind = kBara || m.kind = kBarx

/-- Records a sharer (R212, R214): whether the requester's L1D may fill. -/
def State.addSharer (s : State) (n line who : Nat) : State × Bool :=
  if isChan n || isChan who || decide (who = n) then (s, false)
  else
    match s.dirEnt n line with
    | none => (s.modMem n fun k => { k with dir := k.dir ++ [{ line := line, sharers := [who] }] }, true)
    | some e =>
      if e.sharers.contains who then (s, true)
      else
        let k := (s.cell n).mem
        let bits := fun (s : State) (place : Nat) (ids : List Nat) => ids.foldl (fun (s : State) i =>
          let a := s.ovfEntry n place + i / 8
          { s with mem := s.mem.set a (s.mem.get a ||| (1#8 <<< (i % 8))) }) s
        let upd := fun (s : State) (e' : DirEnt) =>
          s.modMem n fun k => { k with dir := k.dir.map fun x => if x.line = line then e' else x }
        if e.ovf then (bits (upd s { e with sharers := e.sharers ++ [who] }) e.place [who], true)
        else if e.sharers.length < 4 then (upd s { e with sharers := e.sharers ++ [who] }, true)
        else
          let used := (k.dir.filter fun x => x.ovf).map DirEnt.place
          let cap := (k.dirOvf.extractLsb' 28 12).toNat
          match (List.range cap).find? fun i => !used.contains i with
          | none => (s, false)
          | some i => (bits (upd s { e with sharers := e.sharers ++ [who], ovf := true, place := i }) i (e.sharers ++ [who]), true)

/-- AUX of a DATA message: bit 0 poisoned, bit 1 the L1D fills (log 10). -/
def dataAux (poison fill : Bool) : Nat := bit poison + 2 * bit fill
/-- The words of a line. -/
def State.lineWords (s : State) (line : Nat) : List Word := (List.range 8).map fun k => s.readWord (line + 8 * k)

/-- A report about a message that its home cannot perform (R365). -/
def State.reportMsg (s : State) (n : Nat) (cause who : Nat) (addr : Word) (m : Msg) (detail : BitVec 32) : State :=
  s.reportEvent n m.ctx (some m.launch) cause who addr detail (m.header m.pdst)

/-- A DECN at its bank (R235, R365): one on a poisoned line is not performed, and the region supervisor is told. -/
def State.decnHere (s : State) (m : Msg) : State :=
  if s.poisoned m.pa then s.reportMsg m.dst 0x50 0 (BitVec.ofNat 64 m.pa) { m with cls := 0 } 0
  else s.decnAt m.dst m.opa.toNat m.opb.toNat
/-- A decrement that a bank makes of a counter of its own cell, as a request without a message (R280, R376): it waits at the line as any
other write does (R213). -/
def Msg.own (n off ctx launch : Nat) : Msg :=
  { cls := 7, kind := kDecn, src := n, dst := n, opa := BitVec.ofNat 64 off, opb := 1, ctx := ctx, launch := launch }
/-- Puts a request into a bank's pending slots, with the invalidations that it waits for. -/
def State.pend (s : State) (m : Msg) (left : List Nat) : State :=
  let line := lineOf m.pa
  (s.modMem m.dst fun k => { k with pending := k.pending ++ [{ msg := m, line := line, left := left }] }).invalidate m.dst line left
def State.ownDecn (s : State) (n off ctx launch : Nat) : State :=
  let m := Msg.own n off ctx launch
  let line := lineOf m.pa
  if s.lineFree n line then s.decnHere m else s.pend m (if (s.waiting n line).isEmpty then s.sharersOf n line else [])

/-- A request performed at its bank, with its answer (R208, R212, R233 to R235, R280, R293, R365). -/
def State.performAt (s : State) (m : Msg) : State :=
  let n := m.dst
  let off := m.opa.toNat
  let bad := s.poisoned m.pa
  let k := m.kind
  if m.cls = 7 then (if k = kDecn then s.decnHere m else s)
  else if m.cls = 2 then (s.bankWrite none m.pa ((wordBytes m.payload).take m.bytes)).ack m
  else if k = kLoad then
    let line := lineOf m.pa
    let (s, fill) := if bad then (s, false) else s.addSharer n line m.src
    s.answer m 0 (dataAux bad fill) 0 (s.lineWords line)
  else if k = kStore then (s.bankWrite none m.pa (natBytes m.storeLen m.opb.toNat)).ack m
  else if k = kAmo then
    let (s, old) := s.amoAt none m.pa m.aux.toNat m.sat m.opb.toNat
    s.answer m 0 (dataAux bad false) (BitVec.ofNat 64 old) []
  else if k = kCas then
    let (s, old) := s.casAt none m.pa (m.payload.headD 0) m.opb
    s.answer m 0 (dataAux bad false) (BitVec.ofNat 64 old) []
  else if k = kArm then
    match (s.cell n).sched.arms.find? fun a => decide (a.ctr.toNat = off) && decide (a.st = .reserved) with
    | none => s.ack m
    | some a => (s.modSched n fun c => c.armCounter n off (decide (s.readNat m.pa 4 = 0)) a.desc).ack m
  else if k = kDecn then (s.decnHere m).ack m
  else if bad then (s.reportMsg n 0x50 0 (BitVec.ofNat 64 m.pa) m 0).ack m
  else if k = kBara then
    let (s, c) := s.baraAt n off m.opb.toNat
    (c.elim s fun o => s.ownDecn n o m.ctx m.launch).ack m
  else (s.barxAt n off (m.opb = 1)).ack m

/-- Sharers that a request must first invalidate. -/
def State.mustDrop (s : State) (m : Msg) : List Nat := if s.writesAt m then s.sharersOf m.dst (lineOf m.pa) else []
/-- A bank unit's pending slots are full (R213): messages take them. -/
def State.pendFull (s : State) (m : Msg) : Bool :=
  let b := bankOf m.dst m.opa.toNat
  decide (16 ≤ ((s.cell m.dst).mem.pending.filter fun r =>
    decide (r.owner = none) && decide (r.msg.cls ≠ 7) && decide (bankOf m.dst r.msg.opa.toNat = b)).length)
/-- A request at its bank (R208, R213). -/
def State.request (s : State) (m : Msg) : State :=
  let line := lineOf m.pa
  let left := s.mustDrop m
  let waits := !(s.waiting m.dst line).isEmpty
  if left.isEmpty ∧ !waits then s.performAt m
  else if s.pendFull m then s.nack m nkBusy
  else s.pend m (if waits then [] else left)

/-- What stands first at a line must wait for acknowledgements: its invalidations go out. -/
def State.awaitAcks (s : State) (n : Nat) (r : PendReq) (left : List Nat) : State :=
  (s.modMem n fun m => { m with pending := modFirst (· == r) (fun x => { x with left := left }) m.pending }).invalidate n r.line left
/-- Performs what waits for a line from the head on (R213), until a request must wait for acknowledgements or a write of the node's own has
its turn. -/
def State.drainLine (s : State) (n line : Nat) : Nat → State
  | 0 => s
  | k + 1 =>
    match s.waiting n line with
    | [] => s
    | r :: _ =>
      if !r.left.isEmpty then s
      else
        let left := if r.owner.isSome then s.sharersOf n line else s.mustDrop r.msg
        if !left.isEmpty then s.awaitAcks n r left
        else if r.owner.isSome then s
        else State.drainLine ((s.modMem n fun m => { m with pending := dropFirst (· == r) m.pending }).performAt r.msg) n line k
/-- Serves the lines at which something waits whose turn has come. -/
def State.serveLines (s : State) (n : Nat) : State :=
  ((s.cell n).mem.pending.map PendReq.line).eraseDups.foldl (fun s l => s.drainLine n l (s.waiting n l).length) s

/-- A bank request on arrival. -/
def State.bankArrival (s : State) (id : Nat) (kind : BitVec 8) : State := s.taken id 0 kind fun s m => (s.wake m.dst).request m

def execMsgLoad (k : Nat) (s : State) : Out := .next (s.bankArrival k kLoad)
def execMsgStore (k : Nat) (s : State) : Out := .next (s.bankArrival k kStore)
def execMsgAmo (k : Nat) (s : State) : Out := .next (s.bankArrival k kAmo)
def execMsgCas (k : Nat) (s : State) : Out := .next (s.bankArrival k kCas)
def execMsgDecn (k : Nat) (s : State) : Out := .next (s.bankArrival k kDecn)
def execMsgArm (k : Nat) (s : State) : Out := .next (s.bankArrival k kArm)
def execMsgBara (k : Nat) (s : State) : Out := .next (s.bankArrival k kBara)
def execMsgBarx (k : Nat) (s : State) : Out := .next (s.bankArrival k kBarx)

/-! ### SEND and SPAWN -/

/-- The launch under which a message's run is placed at a node: its own where the region holds the node, else the context's
latest one there. -/
def State.launchAt (s : State) (ctx n launch : Nat) : Nat :=
  if (s.launchOf launch).any fun l => decide (l.ctx = ctx) && l.region.has n then launch
  else (s.cox.launches.filter fun l => decide (l.ctx = ctx) && l.region.has n).getLast?.elim launch Launch.seq
/-- The fired places are full (R261). -/
def State.placesFull (s : State) (n : Nat) : Bool := decide (firedPlaces n ≤ (s.cell n).sched.placesUsed)
/-- Landing slots (R273): the number and the LM offset of slot `i`. -/
def inboxCount (w : Word) : Nat := bitsOf w.toNat 32 5
def inboxSlot (w : Word) (i : Nat) : Nat := 2048 * (bitsOf w.toNat 11 11 + i)
/-- The lowest free landing slot. -/
def Sched.freeSlot (c : Sched) : Option Nat := (List.range (inboxCount c.inbox)).find? fun i => !c.landing.contains i

/-- Payload flits of a SEND (R240). -/
def Msg.flits (m : Msg) : Nat := m.payload.length / 4
/-- The handler run that an accepted SEND starts (R274). -/
def handlerDesc (m : Msg) (e : Word) (launch : Nat) (land : Option (Nat × Nat)) : Desc :=
  let src := if isChan m.src then chanOf m.src else m.src
  let x11 := BitVec.ofNat 64 (src + m.aux.toNat * 2 ^ 12 + m.flits * 2 ^ 20 + m.thr * 2 ^ 32)
  let x10 := BitVec.ofNat 64 (land.elim 0 Prod.snd)
  { entry := e.extractLsb' 0 56 ++ 0#2, slot := handlerSlot e, prio := e.extractLsb' 57 4, handler := some (x10, x11)
    landing := land.map Prod.fst, launch := launch, ctx := m.ctx }
/-- A SEND at its destination, in the order of R274. -/
def State.acceptSend (s : State) (m : Msg) : State :=
  let n := m.dst
  let c := (s.cell n).sched
  let e := vget c.handlers m.aux.toNat
  match s.slotOf n m.ctx with
  | none => s.nack m nkSwitched
  | some slot =>
    if !handlerV e ∨ handlerSlot e ≠ slot then s.nack m nkNoHandler
    else
      let land := if m.flits = 0 then none else c.freeSlot
      if (m.flits ≠ 0 ∧ land = none) ∨ s.placesFull n then s.nack m nkBusy
      else
        let at_ := land.map fun i => (i, inboxSlot c.inbox i)
        s.whenClaimed m (at_.elim [] fun p => linesOf (nodeBase n + p.2) (8 * m.payload.length)) fun s =>
          let s := at_.elim s fun p => s.bankWrites none (nodeBase n + p.2) (wordBytes m.payload) (m.payload.length + 1)
          let d := handlerDesc m e (s.launchAt m.ctx n m.launch) at_
          (s.modSched n fun c => { c with landing := c.landing ++ land.toList }.fire d .place).ack m
/-- A SPAWN at its destination (R297). -/
def State.acceptSpawn (s : State) (m : Msg) : State :=
  let n := m.dst
  match s.slotOf n m.ctx with
  | none => s.nack m nkSwitched
  | some slot =>
    if s.placesFull n then s.nack m nkBusy
    else
      let d := Desc.ofWords n (m.payload.getD 0 0) (m.payload.getD 1 0) (m.payload.getD 2 0)
      let d := { d with slot := slot, home := homeField m.src, ctr := 0x3fffff, ctx := m.ctx, launch := s.launchAt m.ctx n m.launch }
      (s.modSched n fun c => c.fire d .place).ack m

/-- A SEND, a SPAWN or a command on arrival. -/
def State.runArrival (s : State) (id : Nat) (kind : BitVec 8) (accept : State → Msg → State) : State :=
  s.taken id 0 kind fun s m => accept (s.wake m.dst) m
def execMsgSend (k : Nat) (s : State) : Out := .next (s.runArrival k kSend State.acceptSend)
def execMsgSpawn (k : Nat) (s : State) : Out := .next (s.runArrival k kSpawn State.acceptSpawn)

/-! ### Answers -/

/-- Fills a line of an L1D; one that is full drops its oldest line (R17, R212; log 10). -/
def Core.fillLine (c : Core) (line : Nat) (bs : List Byte) : Core :=
  let rest := c.l1d.filter fun l => l.line ≠ line
  { c with l1d := (rest.drop (rest.length - 6143)) ++ [{ line := line, bytes := bs }] }
/-- An answer on arrival. At a node that has been fenced it is of no effect (R388; log 18). -/
def State.answered (s : State) (id kind : Nat) (act : State → Msg → State) : Out :=
  match s.arrived id 1 kind with
  | none => .next s
  | some (m, s) => .next (if (s.fencedBy m).isSome then s else act s m)
/-- The value that a returned load or atomic gives its register: the line under the writes that were ahead of the load (R210). -/
def Outst.valueOf (o : Outst) (m : Msg) : Word :=
  let len := o.size
  if m.payload.isEmpty then loadImage len o.sext (m.opb.toNat % 2 ^ (8 * len))
  else
    let line := o.laid.foldl (fun bs w => w.onLine bs) ((wordBytes m.payload).map some)
    loadImage len o.sext (leNat (((line.drop (m.opa.toNat % 64)).take len).map fun b => b.getD 0))
/-- The thread's part of a DATA message: a held load keeps its value, another writes its register. -/
def Thread.receive (th : Thread) (now : Nat) (m : Msg) : Thread :=
  match th.outs.find? fun o => o.wait = some m.id with
  | none => th
  | some o =>
    let bad := m.aux.getLsbD 0
    let v := o.valueOf m
    if o.held then { th with outs := th.outs.map fun x => if x = o then { o with wait := none, value := v, poison := bad } else x }
    else
      let th := if bad then th.markErr o.addr 7 o.ord else th
      ({ th with outs := dropFirst (· == o) th.outs }).fill now o.file o.reg v
/-- MSG_DATA (R210, R212): the L1D takes the line, unless its home has invalidated it since (R213). -/
def execMsgData (k : Nat) (s : State) : Out :=
  s.answered k 0 fun s m =>
    let fills := m.aux.getLsbD 1 && (s.cell m.dst).mem.fwd.any fun e => decide (e.msg.id = m.id) && e.load && !e.nofill
    let s := s.dropFwd m.dst m.id
    let line := lineOf (nodeBase m.src + m.opa.toNat)
    let s := if fills then s.modCore m.dst m.thr fun c => c.fillLine line (wordBytes m.payload) else s
    s.modThread m.dst m.thr fun th => th.receive (s.now m.dst m.thr) m
/-- A move is over (R277): the entry has left the bank, or stays in it. -/
def Sched.endMove (c : Sched) (v : Move) (gone : Bool) : Sched :=
  { c with moves := c.moves.filter (· ≠ v)
           ready := c.ready.map fun b =>
             if gone then b.filter fun e => e.age ≠ v.age
             else b.map fun e => if e.age = v.age then { e with moving := false } else e }
/-- Ends the move whose TASKMOVE is answered. -/
def State.moveAnswer (s : State) (n id : Nat) (gone : Bool) : State :=
  match (s.cell n).sched.moves.find? fun v => v.msg = some id with
  | none => s
  | some v => (s.modSched n fun c => (c.endMove v gone).after c).busy n
/-- An engine's command hears that a message of its own is performed (R224, R247). -/
def EngCmd.heard (c : EngCmd) (id : Nat) : EngCmd :=
  match c.lines.find? fun l => l.1 = id with
  | none => c
  | some l => { c with lines := c.lines.filter fun x => x.1 ≠ id, done := c.done + l.2.2 }
/-- An optical port's peer is answered once everything that its message wrote is performed (R345). -/
def Port.heard (p : Port) (id : Nat) : Port :=
  let owed : List Owed := p.owed.map fun o => { o with ids := o.ids.filter (· ≠ id) }
  { p with owed := owed.filter fun (o : Owed) => !o.ids.isEmpty }.push ((owed.filter fun (o : Owed) => o.ids.isEmpty).map Owed.reply)
def State.portHeard (s : State) (m : Msg) : State := (portAt m.dst).elim s fun p => s.modPort p fun q => q.heard m.id
/-- MSG_ACK (R209, R224, R277, R345). -/
def execMsgAck (k : Nat) (s : State) : Out :=
  s.answered k 1 fun s m =>
    (((s.dropFwd m.dst m.id).modMem m.dst fun x => { x with engines := x.engines.map fun c => c.heard m.id }).portHeard m).moveAnswer m.dst m.id true

/-- The back-off before retry `i` (R275). -/
def backOff (i : Nat) : Nat := 256 * 2 ^ min (i - 1) 10
/-- The freeze of a remote load that cannot be delivered (R232, R276): its register stands and is full (log 10), and the thread's PC
is the load, which RESUME executes again (R373). -/
def State.loadLost (s : State) (n : Nat) (m : Msg) (reason : Nat) : State :=
  match (s.thread n m.thr).outs.find? fun o => o.wait = some m.id with
  | none => s
  | some o =>
    let s := s.modThread n m.thr fun th =>
      let th := { th with outs := dropFirst (· == o) th.outs, pc := m.pc.setWidth 58 }.setFull o.file o.reg true
      (th.modCtrl fun c => { c with repIdx := o.idx }).modRun fun r => { r with leaving := false }
    let s := { s with blocked := s.blocked && decide (s.cur ≠ (n, m.thr)) }
    s.takeTrap n m.thr 0x31 false o.rep m.pc (m.va.getD 0) (BitVec.ofNat 32 reason)
/-- The THREAD byte of a report about what a thread sent (R374). -/
def State.threadByte (s : State) (n thr ctx : Nat) : Nat := thr + 16 * (s.slotOf n ctx).elim 0 BitVec.toNat
/-- ADDR of a report about an undeliverable message: R374 gives the faulting data address or 0, and no rule says which it is here, so a
free value chooses (log 24). -/
def State.lostAddr (s : State) (m : Msg) : Word := if s.free.getLsbD 0 then m.va.getD 0 else 0
/-- An undeliverable message (R276, R376). -/
def State.undeliverable (s : State) (n : Nat) (e : FwdEnt) (reason : Nat) : State :=
  let s := s.dropFwd n e.msg.id
  if e.load then s.loadLost n e.msg reason
  else if e.msg.cls = 5 then s.toHost e.msg.payload
  else
    let who := s.threadByte n e.msg.thr e.msg.ctx
    let a := s.lostAddr e.msg
    if reason = nkNoHandler then s.drawn.reportMsg n 0x34 who a e.msg 0 else s.drawn.reportMsg n 0x31 who a e.msg (BitVec.ofNat 32 reason)
/-- The i-th NACK of an entry (R275): back-off, or the end of its retries. -/
def State.nacked (s : State) (n : Nat) (e : FwdEnt) (reason : Nat) : State :=
  if e.nacks < 15 then s.modFwd n e.msg.id fun e => { e with nacks := e.nacks + 1, st := .wait (s.fab + backOff (e.nacks + 1)) }
  else s.undeliverable n e reason
/-- What an entry does at a NACK: a TASKMOVE's move is over (R277); a packet whose supervisor's cell is fenced goes to the cox cores (R376);
another is retried. -/
def State.heardNack (s : State) (n : Nat) (e : FwdEnt) (reason : Nat) : State :=
  if e.msg.cls = 4 then (s.dropFwd n e.msg.id).moveAnswer n e.msg.id false
  else if e.msg.cls = 5 ∧ reason = nkFenced then (s.dropFwd n e.msg.id).toHost e.msg.payload
  else s.nacked n e reason
/-- The sixteenth NACK of a load whose thread is frozen waits with its freeze until the thread runs. -/
def State.nackWaits (s : State) (n : Nat) (e : FwdEnt) : Bool :=
  let th := s.thread n e.msg.thr
  decide (15 ≤ e.nacks) && e.load && decide (th.run.st = .frozen) && th.outs.any fun o => o.wait = some e.msg.id
/-- AUX of a NACK with which an optical port answers a line that its peer could not translate or permit (R345): 8 plus the STATUS. -/
def peerFault (status : Nat) : Nat := 8 + status
/-- The peer's fault stops the command that sent the line (R248, R345). -/
def EngCmd.refused (c : EngCmd) (m : Msg) (status : Nat) : EngCmd :=
  if c.lines.any fun l => l.1 = m.id then
    { c.stop (BitVec.ofNat 8 status) (m.va.getD 0) with lines := c.lines.filter fun l => l.1 ≠ m.id }
  else c
def State.peerRefused (s : State) (n : Nat) (e : FwdEnt) (status : Nat) : State :=
  (s.dropFwd n e.msg.id).modMem n fun x => { x with engines := x.engines.map fun c => c.refused e.msg status }
/-- MSG_NACK (R275 to R277, R345): a TASKMOVE is not sent again. -/
def execMsgNack (k : Nat) (s : State) : Out :=
  match s.arrived k 1 3 with
  | none => .next s
  | some (m, t) =>
    match (s.cell m.dst).mem.fwd.find? fun e => e.msg.id = k with
    | none => .next t
    | some e =>
      if peerFault 0 ≤ m.aux.toNat then .next (t.peerRefused m.dst e (m.aux.toNat - 8))
      else if s.nackWaits m.dst e then .next s
      else .next (t.heardNack m.dst e m.aux.toNat)

/-- MSG_INVAL (R213): the cell's L1Ds drop the line, and it acknowledges. A router that has fenced the cell acknowledges for it (log 18). -/
def execMsgInval (k : Nat) (s : State) : Out :=
  match s.arrived k 4 0 with
  | none => .next s
  | some (m, s) =>
    match s.fencedBy m with
    | some who => .next (s.answerFrom who m 2 0 (BitVec.ofNat 64 m.dst) [])
    | none => .next ((s.modCell m.dst fun c => c.dropLine m.opa.toNat).answer m 2 0 (BitVec.ofNat 64 m.dst) [])
/-- MSG_INVACK (R213): with the last acknowledgement the sharer set is cleared and the line's requests are performed. -/
def execMsgInvack (k : Nat) (s : State) : Out :=
  s.answered k 2 fun s m =>
    let n := m.dst
    let line := m.opa.toNat
    let s := s.modMem n fun x =>
      { x with pending := modFirst (fun r => r.line = line) (fun r => { r with left := r.left.filter (· ≠ m.opb.toNat) }) x.pending }
    match s.waiting n line with
    | r :: _ => if r.left.isEmpty then (s.clearDir n line).drainLine n line (s.waiting n line).length else s
    | [] => s

/-! ### Malformed messages (R255) -/

/-- Kinds that a class lists (R255, R277, R289, R376 and the fencing chapter). -/
def kindOk (cls kind : Nat) : Bool :=
  match cls with
  | 0 => decide (kind ≤ 0x0D)
  | 1 => decide (kind ≤ 3)
  | 2 => decide (kind = 0)
  | 3 => decide (kind ≤ 1)
  | 4 => kind == 0 || (decide (0x10 ≤ kind) && decide (kind ≤ 0x13))
  | 5 => kind == 0x11 || kind == 0x13 || (decide (0x20 ≤ kind) && decide (kind ≤ 0x27))
  | _ => false
/-- A CLASS of 6 or 7, an unlisted KIND or a nonzero reserved bit (R255). -/
def Msg.malformed (m : Msg) : Bool := !kindOk m.cls.toNat m.kind.toNat || decide (m.rsv ≠ 0)
/-- MALFORMED_MESSAGE: discarded, and counted against the port through which it came (R384). -/
def execMalformedMessage (k : Nat) (s : State) : Out :=
  match s.net.find? fun m => decide (m.id = k) && m.malformed with
  | none => .next s
  | some m =>
    let t := { s with net := dropFirst (· == m) s.net }
    .next ((s.exitPort m).elim t fun p => t.modVote (neighbour p.1 p.2) (backDir p.2) fun v => { v with malf := v.malf + 1 })

end Sys2Proof.Machine
end

