-- ==== Sys2Proof/Machine/Tasks.lean ====
section
/-! DEFINITION. The task, message and barrier instructions: SPAWN, ARM, BARA, BARX, HTSET and HTCLR (R288 to R300). -/

namespace Sys2Proof.Machine

/-- Bits of an operand that must be 0. -/
def bitsAbove (v : Word) (n : Nat) : Bool := decide (v >>> n ≠ 0)
/-- Reads a descriptor by local loads (R122, R258): its four doublewords. -/
def withDesc (A : Args) (o : Nat) (s : State) (k : List Word → State → Res) : Res :=
  match s.loadUnits A o 32 8 0 with
  | .error f => .trap f
  | .ok (v, s) => k ((List.range 4).map fun i => BitVec.ofNat 64 (bitsOf v (64 * i) 64)) s
/-- A descriptor's doublewords at a node (R258). -/
def descAt (n : Nat) (ws : List Word) : Desc := Desc.ofWords n (ws.getD 0 0) (ws.getD 1 0) (ws.getD 2 0)

/-- The destination lies in a region of the thread's context (R290 check 3). -/
def regionFail (A : Args) (s : State) (dst : Nat) : Option Fail :=
  if s.inRegions (A.ctx s) dst then none else some { cause := 0x40 }

/-- SPAWN (R296). -/
def spawnBody (A : Args) (s : State) : Res :=
  let dst := (A.ra s).toNat
  let o := A.rb s
  Res.unless
    (firstFail (illegalIf (bitsAbove (A.ra s) 11 || bitsAbove o 22))
      (firstFail (s.checkLM A.n (A.slot s) o 32 8 0) (firstFail (regionFail A s dst) (boxFail A s 32))))
    (withDesc A o.toNat s fun ws s => .done (s.push A.n A.t { kind := kSpawn, dst := dst, payload := ws, bytes := 32 }))

/-- Check 5 of R290 (R292): code 0 where the bank unit's table is full, 1 where the counter is bound. -/
def armFail (A : Args) (s : State) (off : Nat) : Option Fail :=
  let c := (s.cell A.n).sched
  if armPlaces A.n ≤ c.armsUsed A.n (bankOf A.n off) then some { cause := 0x35, detail := 0 }
  else if c.arms.any fun a => decide (a.ctr.toNat = off) && decide (a.st ≠ .fired) then some { cause := 0x35, detail := 1 }
  else none
/-- ARM (R291, R292): the entry is reserved at issue, the message arms it. -/
def armBody (A : Args) (s : State) : Res :=
  let ctr := A.ra s
  let o := A.rb s
  let slot := A.slot s
  Res.unless
    (firstFail (illegalIf (bitsAbove ctr 22 || bitsAbove o 22))
      (firstFail (s.checkLM A.n slot ctr 4 4 0)
        (firstFail (s.checkLM A.n slot o 32 8 0) (firstFail (boxFail A s 0) (armFail A s ctr.toNat)))))
    (withDesc A o.toNat s fun ws s =>
      let d := { descAt A.n ws with slot := slot, ctx := A.ctx s, launch := (A.th s).launch }
      let a : ArmEnt := { ctr := ctr.setWidth 22, st := .reserved, desc := d, msg := s.nextId }
      let s := s.modSched A.n fun c => { c with arms := c.arms ++ [a] }
      .done (s.push A.n A.t { kind := kArm, dst := A.n, opa := ctr, payload := ws }))

/-- BARA and BARX (R300): a message to the barrier's home; operand bits from `limit` up are 0. -/
def barrierBody (kind : BitVec 8) (limit : Nat) (A : Args) (s : State) : Res :=
  let va := A.ra s
  if bitsAbove (A.rb s) limit then .illegal
  else
    match s.translateAligned A.n (A.ctx s) .amo spaceBank va 8 with
    | .error f => .trap f
    | .ok pa =>
      match homeOf pa with
      | none => .trap { cause := 0x26, addr := va, detail := accDetail 2 }
      | some (h, o) =>
        Res.unless (firstFail (regionFail A s h) (boxFail A s 0))
          (.done (s.push A.n A.t { kind := kind, dst := h, opa := BitVec.ofNat 64 o, opb := A.rb s, va := some va
                                   lvl := s.lvlOf A.n (A.ctx s) va }))

/-- HTSET and HTCLR (R298): the slot check, then one write of the whole entry. -/
def handlerBody (limit : Nat) (bad : Args → State → Bool) (entry : Args → State → Word) (A : Args) (s : State) : Res :=
  let ch := bitsOf (A.ra s).toNat 0 6
  let old := vget (s.cell A.n).sched.handlers ch
  if bitsAbove (A.ra s) limit || bad A s then .illegal
  else if handlerV old && decide (handlerSlot old ≠ A.slot s) then .trap { cause := 0x40 }
  else .done (s.setHandler A.n ch (entry A s))
/-- The entry that HTSET writes (R272, R298). -/
def htsetEntry (A : Args) (s : State) : Word :=
  1#1 ++ A.slot s ++ (A.ra s).extractLsb' 6 4 ++ 0#1 ++ (A.rb s).extractLsb' 2 56

def execSpawn (c : Ctl) (a b : BitVec 5) (s : State) : Out := run (.spawn c a b) false spawnBody s
def execArm (c : Ctl) (a b : BitVec 5) (s : State) : Out := run (.arm c a b) false armBody s
def execBara (c : Ctl) (a b : BitVec 5) (s : State) : Out := run (.bara c a b) false (barrierBody kBara 7) s
def execBarx (c : Ctl) (a b : BitVec 5) (s : State) : Out := run (.barx c a b) false (barrierBody kBarx 1) s
def execHtset (c : Ctl) (a b : BitVec 5) (s : State) : Out :=
  run (.htset c a b) false (handlerBody 10 (fun A s => !canonical (A.rb s)) htsetEntry) s
def execHtclr (c : Ctl) (a : BitVec 5) (s : State) : Out :=
  run (.htclr c a) false (handlerBody 6 (fun _ _ => false) fun _ _ => 0) s

end Sys2Proof.Machine
end

