-- ==== Sys2Proof/Machine/Engines.lean ====
section
/-! DEFINITION. SEND (R240), and the copy and collective engines: their commands' issue (R242, R245, R246), their work (R224, R225, R243
to R248), and their result FIFOs (R241, R249). -/

namespace Sys2Proof.Machine

/-! ### SEND (R240) -/

def sendBody (w2 : BitVec 32) (A : Args) (s : State) : Res :=
  let dst := (A.ra s).toNat
  let o := A.rb s
  let flits := bitsOf w2.toNat 0 7
  let bad := decide (w2.extractLsb' 13 19 ≠ 0) || decide (64 < flits) || bitsAbove (A.ra s) 11 || bitsAbove o 22
  Res.unless
    (firstFail (illegalIf bad)
      (firstFail (s.checkLM A.n (A.slot s) o (32 * flits) 8 0) (firstFail (regionFail A s dst) (boxFail A s (32 * flits)))))
    (match s.loadUnits A o.toNat (32 * flits) 8 0 with
      | .error f => .trap f
      | .ok (v, s) =>
        .done (s.push A.n A.t { kind := kSend, dst := dst, aux := w2.extractLsb' 7 6, bytes := 32 * flits
                                payload := (List.range (4 * flits)).map fun i => BitVec.ofNat 64 (bitsOf v (64 * i) 64) }))
def execSend (c : Ctl) (a b : BitVec 5) (w2 : BitVec 32) (s : State) : Out := run (.send c a b w2) false (sendBody w2) s

/-! ### Fields of a command's second word (R242, R246) -/

def EngCmd.isColl (c : EngCmd) : Bool := c.kind == kColl
def EngCmd.isBox (c : EngCmd) : Bool := c.kind == kCpym
def EngCmd.tag (c : EngCmd) : Nat := if c.isColl then bitsOf c.w2.toNat 17 8 else bitsOf c.w2.toNat 8 8
def EngCmd.res (c : EngCmd) : Bool := if c.isColl then c.w2.getLsbD 25 else c.w2.getLsbD 16
def cmdScope (w2 : BitVec 32) : BitVec 3 := w2.extractLsb' 0 3
def cpyOrd (w2 : BitVec 32) : Nat := bitsOf w2.toNat 3 2
def cpyEsz (w2 : BitVec 32) : Nat := bitsOf w2.toNat 5 2
/-- The box of a CPYM, as extents (R242). -/
def cpyBox (w2 : BitVec 32) : Nat × Nat × Nat := (bitsOf w2.toNat 20 4 + 1, bitsOf w2.toNat 24 4 + 1, bitsOf w2.toNat 28 3 + 1)
def collDim (w2 : BitVec 32) : Nat := bitsOf w2.toNat 3 2
def collMode (w2 : BitVec 32) : Nat := bitsOf w2.toNat 5 2
def collOp (w2 : BitVec 32) : Nat := bitsOf w2.toNat 7 3
def collType (w2 : BitVec 32) : Nat := bitsOf w2.toNat 10 3
def collRoot (w2 : BitVec 32) : Nat := bitsOf w2.toNat 13 4
/-- Bytes of an element by TYPE. -/
def collSize (ty : Nat) : Nat := match ty with | 0 => 4 | 1 => 2 | 2 => 4 | _ => 8

/-! ### Issue -/

/-- R230 for the first and the last byte of a range; an empty one is checked at its address. -/
def rangeVa (A : Args) (s : State) (acc : Acc) (allowed : Space → Bool) (va : Word) (len : Nat) : Except Fail Nat :=
  match s.translate A.n (A.ctx s) acc allowed va with
  | .error f => .error f
  | .ok pa =>
    match s.translate A.n (A.ctx s) acc allowed (va + BitVec.ofNat 64 (len - 1)) with
    | .error f => .error f
    | .ok _ => .ok pa
/-- The counter operand (R242 check 4): x0 names none. -/
def counterVa (A : Args) (s : State) : Except Fail (Option (Nat × Nat)) :=
  if A.fe = .x ∧ A.e = 0 then .ok none
  else
    match s.translateAligned A.n (A.ctx s) .amo spaceBank (A.re s) 4 with
    | .error f => .error f
    | .ok pa => .ok (homeOf pa)
/-- The region of the launch that placed the thread's task; a task of no launch is measured against the whole cube (log 17). -/
def State.regionOf (s : State) (launch : Nat) : Region := (s.launchOf launch).elim { ex := 16, ey := 16, ez := 8 } Launch.region

/-- The message of a command to the cell's own engine: the register values and the two words (R254), and the GEN of the port that the
destination names (R348). -/
def cmdMsg (kind : BitVec 8) (w2 : BitVec 32) (len : Nat) (gen : BitVec 8) (A : Args) (s : State) : Msg :=
  let ctr : Word := if A.fe = .x ∧ A.e = 0 then 0 else A.re s
  let hasCtr : Word := if A.fe = .x ∧ A.e = 0 then 0 else 1
  { kind := kind, dst := A.n, opa := A.rd s, opb := A.ra s, scope := cmdScope w2
    payload := [BitVec.ofNat 64 len, ctr, w2 ++ A.word, hasCtr ||| (gen.setWidth 64 <<< 8)] }

/-- Check 1 of R242. -/
def cpyBad (box : Bool) (w2 : BitVec 32) (src len : Word) : Bool :=
  w2.getLsbD 31 || decide (w2.extractLsb' 17 3 ≠ 0) || w2.getLsbD 7 || decide (cpyEsz w2 = 3) || decide (1 < cpyOrd w2)
    || decide (2 ^ 30 < len.toNat) || (!box && decide (w2.extractLsb' 20 11 ≠ 0))
    || (decide (cpyOrd w2 = 1) && (decide (src.toNat % 1024 ≠ 0) || decide (len.toNat % 1024 ≠ 0)))
/-- A range of a copy (R242 check 2): multiples of the element size, then R230. -/
def cpyRange (A : Args) (s : State) (acc : Acc) (allowed : Space → Bool) (va : Word) (len esz : Nat) : Except Fail Nat :=
  if va.toNat % 2 ^ esz ≠ 0 ∨ len % 2 ^ esz ≠ 0 then .error { cause := 0x24, addr := va, detail := accDetail acc.code }
  else rangeVa A s acc allowed va len

/-- The cells of a CPYM's box (R245). -/
def boxCells (h : Nat) (w2 : BitVec 32) : List Nat :=
  let (ex, ey, ez) := cpyBox w2
  { ox := xOf h, oy := yOf h, oz := zOf h, ex := ex, ey := ey, ez := ez : Region }.cells
/-- The page of an address is homed (R202, R245). -/
def State.homedPage (s : State) (n ctx : Nat) (va : Word) : Bool :=
  match s.leafFor (s.dieOf n) ctx va with
  | .ok (_, e) => !leafHashed e
  | .error _ => false
/-- R245's conditions on a box. -/
def boxFail2 (A : Args) (s : State) (w2 : BitVec 32) (dpa : Nat) (ctr : Option (Nat × Nat)) : Option Fail :=
  let r := s.regionOf (A.th s).launch
  let (ex, ey, ez) := cpyBox w2
  match spaceOf dpa with
  | .cell h =>
    if !s.homedPage A.n (A.ctx s) (A.rd s) || decide (r.ex < ex) || decide (r.ey < ey) || decide (r.ez < ez) || ctr.any (fun c => c.1 != h) then
      some { cause := 0x01 }
    else if (boxCells h w2).all (s.inRegions (A.ctx s)) then none
    else some { cause := 0x40 }
  | _ => some { cause := 0x01 }

/-- CPY and CPYM at issue (R242, R245). -/
def cpyBody (box : Bool) (w2 : BitVec 32) (A : Args) (s : State) : Res :=
  let dst := A.rd s
  let src := A.ra s
  let len := A.rb s
  let ch := isChan A.n
  let dspace := if box then spaceCopySrc ch else spaceCopyDst ch
  if cpyBad box w2 src len then .illegal
  else
    match cpyRange A s .load (spaceCopySrc ch) src len.toNat (cpyEsz w2) with
    | .error f => .trap f
    | .ok spa =>
      match cpyRange A s .store dspace dst len.toNat (cpyEsz w2) with
      | .error f => .trap f
      | .ok dpa =>
        if cpyOrd w2 = 1 ∧ spaceOf spa ≠ .bulk then .illegal
        else
          match counterVa A s with
          | .error f => .trap f
          | .ok ctr =>
            let gen := match spaceOf dpa with | .port p => (vget s.ports p).gen | _ => 0
            Res.unless (firstFail (if box then boxFail2 A s w2 dpa ctr else none) (boxFail A s 0))
              (.done (s.push A.n A.t (cmdMsg (if box then kCpym else kCpy) w2 len.toNat gen A s)))
def execCpy (c : Ctl) (d a b e : BitVec 5) (w2 : BitVec 32) (s : State) : Out := run (.cpy c d a b e w2) false (cpyBody false w2) s
def execCpym (c : Ctl) (d a b e : BitVec 5) (w2 : BitVec 32) (s : State) : Out := run (.cpym c d a b e w2) false (cpyBody true w2) s

/-- Extent of a region along a dimension. -/
def Region.extent (r : Region) (dim : Nat) : Nat := match dim with | 0 => r.ex | 1 => r.ey | _ => r.ez
/-- The fields of a COLL within their limits (R246). -/
def collBad (w2 : BitVec 32) (count : Nat) (r : Region) : Bool :=
  decide (w2.extractLsb' 26 6 ≠ 0) || decide (collDim w2 = 3) || decide (collMode w2 = 3) || decide (2 < collOp w2)
    || (decide (collMode w2 = 2) && decide (collOp w2 ≠ 0)) || decide (3 < collType w2)
    || decide (r.extent (collDim w2) ≤ collRoot w2) || decide (count = 0) || decide (65536 < count)
/-- A range is homed in the issuing cell (R246): every page of it that translates is. -/
def State.homedHere (s : State) (A : Args) (va : Word) (len : Nat) : Bool :=
  (pageParts va len).all fun p =>
    match s.leafFor (s.dieOf A.n) (A.ctx s) p.1 with
    | .ok (l, e) => !leafHashed e && decide (spaceOf (leafPa l e p.1) = .cell A.n)
    | .error _ => true
/-- COLL at issue (R246); a port's window raises 0x26 (R345). -/
def collBody (w2 : BitVec 32) (A : Args) (s : State) : Res :=
  let n := (A.rb s).toNat
  let sz := collSize (collType w2)
  let any := fun p : Space => match p with
    | .none | .port _ => false
    | _ => true
  if collBad w2 n (s.regionOf (A.th s).launch) || decide ((A.ra s).toNat % sz ≠ 0) || decide ((A.rd s).toNat % sz ≠ 0) then .illegal
  else
    match rangeVa A s .load any (A.ra s) (n * sz), rangeVa A s .store any (A.rd s) (n * sz) with
    | .error f, _ => .trap f
    | _, .error f => .trap f
    | .ok _, .ok _ =>
      if !s.homedHere A (A.ra s) (n * sz) || !s.homedHere A (A.rd s) (n * sz) then .illegal
      else
        match counterVa A s with
        | .error f => .trap f
        | .ok _ => Res.unless (boxFail A s 0) (.done (s.push A.n A.t (cmdMsg kColl w2 n 0 A s)))
def execColl (c : Ctl) (d a b e : BitVec 5) (w2 : BitVec 32) (s : State) : Out := run (.coll c d a b e w2) false (collBody w2) s

/-! ### ENGP and ENGQ (R249) -/

def engBad (n : Nat) (w2 : BitVec 32) : Bool := decide (1 < w2.toNat) || (isChan n && decide (w2 ≠ 0))
def MemSide.fifo (m : MemSide) (coll : Bool) (slot : Nat) : List Word := if coll then vget m.fifoL slot else vget m.fifoC slot
def MemSide.setFifo (m : MemSide) (coll : Bool) (slot : Nat) (l : List Word) : MemSide :=
  if coll then { m with fifoL := vset m.fifoL slot l } else { m with fifoC := vset m.fifoC slot l }
def engpBody (w2 : BitVec 32) (A : Args) (s : State) : Res :=
  let k := (A.slot s).toNat
  let coll := decide (w2 = 1)
  let f := (s.cell A.n).mem.fifo coll k
  if engBad A.n w2 then .illegal
  else .done ((s.modMem A.n fun m => m.setFifo coll k f.tail).writeVarD A (f.headD 0))
def engqBody (w2 : BitVec 32) (A : Args) (s : State) : Res :=
  let coll := decide (w2 = 1)
  let m := (s.cell A.n).mem
  let busy := (m.engines.filter fun c => decide (c.ctx = A.ctx s) && (c.isColl == coll)).length
  if engBad A.n w2 then .illegal
  else .done (s.writeVarD A (BitVec.ofNat 64 ((m.fifo coll (A.slot s).toNat).length % 256 + busy % 256 * 256)))
def execEngp (c : Ctl) (d : BitVec 5) (w2 : BitVec 32) (s : State) : Out := run (.engp c d w2) false (engpBody w2) s
def execEngq (c : Ctl) (d : BitVec 5) (w2 : BitVec 32) (s : State) : Out := run (.engq c d w2) false (engqBody w2) s

/-! ### Commands at their engine -/

def State.engCmd (s : State) (n id : Nat) : Option EngCmd := (s.cell n).mem.engines.find? fun c => c.id = id
def State.modCmd (s : State) (n id : Nat) (f : EngCmd → EngCmd) : State :=
  s.modMem n fun m => { m with engines := m.engines.map fun c => if c.id = id then f c else c }
def State.dropCmd (s : State) (n id : Nat) : State := s.modMem n fun m => { m with engines := m.engines.filter fun c => c.id ≠ id }

/-- The port whose window an address lies in, for a command's context. -/
def State.portOf (s : State) (n ctx : Nat) (va : Word) : Option Nat :=
  match s.translate n ctx .store (spaceCopyDst (isChan n)) va with
  | .ok pa => (match spaceOf pa with | .port p => some p | _ => none)
  | .error _ => none
/-- The command of a message (R224). -/
def State.cmdOf (s : State) (m : Msg) : EngCmd :=
  let w := m.payload.getD 2 0
  let x := m.payload.getD 3 0
  { id := m.id, kind := m.kind, ctx := m.ctx, slot := (s.slotOf m.dst m.ctx).getD 0, thr := m.thr, launch := m.launch, scope := m.scope
    w1 := w.setWidth 32, w2 := w.extractLsb' 32 32, dst := m.opa, src := m.opb, len := (m.payload.getD 0 0).toNat
    ctr := m.payload.getD 1 0, port := if m.kind = kCpy then s.portOf m.dst m.ctx m.opa else none, gen := x.extractLsb' 8 8
    hasCtr := x.getLsbD 0 }
/-- A command on arrival at its engine. -/
def State.cmdArrival (s : State) (id : Nat) (kind : BitVec 8) : State :=
  s.runArrival id kind fun s m => (s.modMem m.dst fun k => { k with engines := k.engines ++ [s.cmdOf m] }).ack m
def execMsgCpy (k : Nat) (s : State) : Out := .next (s.cmdArrival k kCpy)
def execMsgCpym (k : Nat) (s : State) : Out := .next (s.cmdArrival k kCpym)
def execMsgColl (k : Nat) (s : State) : Out := .next (s.cmdArrival k kColl)

/-- STATUS of a fault (R241). -/
def statusOf (cause : BitVec 8) : BitVec 8 :=
  match cause.toNat with
  | 0x20 => 2 | 0x21 => 2 | 0x22 => 2 | 0x23 => 2 | 0x40 => 3 | 0x50 => 1 | _ => 4
/-- Whether an engine may work: the fabric die of a frozen cell injects nothing of it (R388). -/
def State.engineRuns (s : State) (n : Nat) : Bool := !(s.cell n).net.frozen
/-- A fault stops a command at the failing address, with its STATUS (R248). -/
def State.faultCmd (s : State) (n id : Nat) (f : Fail) : State := s.modCmd n id fun c => c.stop (statusOf f.cause) f.addr

/-! ### Copying (R224, R225, R243 to R245) -/

/-- The source byte of a destination byte (R243, R244). -/
def srcOffset (ord esz i : Nat) : Nat :=
  if ord = 0 then i
  else
    let e := 2 ^ esz
    let q := i % 1024 / e
    i / 1024 * 1024 + 32 * (q % 32) + e * (q / 32) + i % e
/-- A read of bytes within one line at a virtual address: the line is one access, and an uncorrectable error stops the command (R225,
R248). -/
def State.readLine (s : State) (n ctx : Nat) (allowed : Space → Bool) (va : Word) (len : Nat) : Except Fail (State × List Byte) :=
  match s.translate n ctx .load allowed va with
  | .error f => .error f
  | .ok pa => if s.poisoned pa then .error { cause := 0x50, addr := va } else .ok (s.loftAccess pa false, s.bytes pa len)
/-- Reads bytes line by line, in increasing addresses. The number bounds the lines. -/
def State.readLines (s : State) (n ctx : Nat) (allowed : Space → Bool) (va : Word) (len : Nat) : Nat → Except Fail (State × List Byte)
  | 0 => .ok (s, [])
  | k + 1 =>
    if len = 0 then .ok (s, [])
    else
      let m := min len (64 - va.toNat % 64)
      match s.readLine n ctx allowed va m with
      | .error f => .error f
      | .ok (s, bs) =>
        match State.readLines s n ctx allowed (va + BitVec.ofNat 64 m) (len - m) k with
        | .error f => .error f
        | .ok (s, rest) => .ok (s, bs ++ rest)
/-- A range of virtual addresses cut at the ends of lines: the address, the place in the range and the length of each part. The number
bounds them. -/
def lineParts (va : Word) (o len : Nat) : Nat → List (Word × Nat × Nat)
  | 0 => []
  | k + 1 =>
    if len = 0 then []
    else
      let m := min len (64 - va.toNat % 64)
      (va, o, m) :: lineParts (va + BitVec.ofNat 64 m) (o + m) (len - m) k
/-- The physical addresses at which some parts are written, or the fault of the first that does not translate or is not permitted. -/
def State.partAddrs (s : State) (n ctx : Nat) (allowed : Space → Bool) : List (Word × Nat × Nat) → Except Fail (List (Nat × Word × Nat × Nat))
  | [] => .ok []
  | x :: xs =>
    match s.translate n ctx .store allowed x.1, State.partAddrs s n ctx allowed xs with
    | .error f, _ => .error f
    | _, .error f => .error f
    | .ok pa, .ok l => .ok ((pa, x) :: l)
/-- The bytes of a block of 1 KiB in column order (R244). -/
def columns (esz : Nat) (bs : List Byte) : List Byte := (List.range bs.length).map fun i => bs.getD (srcOffset 1 esz i) 0
/-- Source bytes that a copy reads next: up to the end of a line, or a block of 1 KiB in column order (R243, R244). -/
def EngCmd.nextRead (c : EngCmd) : Nat :=
  if cpyOrd c.w2 = 1 then 1024 else min (c.len - c.rpos) (64 - (c.src + BitVec.ofNat 64 c.rpos).toNat % 64)
/-- The next read of a copy: every source byte is read once (R243, R245). -/
def State.copyRead (s : State) (n : Nat) (c : EngCmd) : State :=
  let k := c.nextRead
  match s.readLines n c.ctx (spaceCopySrc (isChan n)) (c.src + BitVec.ofNat 64 c.rpos) k 16 with
  | .error f => s.faultCmd n c.id f
  | .ok (s, bs) =>
    let bs := if cpyOrd c.w2 = 1 then columns (cpyEsz c.w2) bs else bs
    s.modCmd n c.id fun c => { c with rpos := c.rpos + k, buf := c.buf ++ bs }

/-- Bytes of the next write of a copy: up to the end of the destination's line; into a port's window as much as one message carries,
up to the next multiple of 2 KiB (R225, R254; log 112). -/
def EngCmd.chunk (c : EngCmd) : Nat :=
  let unit := if c.port.isSome then 2048 else 64
  min (c.len - c.pos) (unit - (c.dst + BitVec.ofNat 64 c.pos).toNat % unit)
/-- Bytes as doublewords, filled up with zeros to whole flits (R254). -/
def flitWords (bs : List Byte) : List Word :=
  (List.range ((bs.length + 31) / 32 * 4)).map fun i => BitVec.ofNat 64 (leNat ((bs.drop (8 * i)).take 8))
/-- Sends a LINE message (R225, R255): the bytes, for an offset of a node; the engine counts it until it is performed. -/
def State.sendLine (s : State) (n : Nat) (c : EngCmd) (dst off : Nat) (va : Word) (bs : List Byte) (counts : Bool) : State :=
  let id := s.nextId
  (s.modCmd n c.id fun c => { c with lines := c.lines ++ [(id, dst, if counts then bs.length else 0)] }).sendKept n
    { cls := 2, src := n, dst := dst, thr := c.thr, ctx := c.ctx, launch := c.launch, opa := BitVec.ofNat 64 off
      opb := BitVec.ofNat 64 bs.length, bytes := bs.length, payload := flitWords bs, va := some va } false
/-- The home cell of a CPYM's destination (R245). -/
def State.boxHome (s : State) (n : Nat) (c : EngCmd) : Nat :=
  match s.translate n c.ctx .store spaceBank c.dst with
  | .ok pa => (homeOf pa).elim 0 Prod.fst
  | .error _ => 0
/-- Writes a line of a copy: at its home, at every cell of a CPYM's box, at the loft or in host memory through the sill, or at the peer of
a port (R225, R226, R245, R345). -/
def State.sendLines (s : State) (n : Nat) (c : EngCmd) (va : Word) (pa : Nat) (bs : List Byte) : State :=
  match homeOf pa with
  | some (h, o) =>
    if c.isBox then (boxCells (s.boxHome n c) c.w2).zipIdx.foldl (fun s k => s.sendLine n c k.1 o va bs (k.2 == 0)) s
    else s.sendLine n c h o va bs true
  | none =>
    match spaceOf pa with
    | .port p => s.sendLine n c (portNode p) (pa % 2 ^ 42) va bs true
    | _ => s.sendLine n c coxNode pa va bs true
/-- The spaces of a command's destination. -/
def EngCmd.dstSpace (c : EngCmd) (chan : Bool) : Space → Bool := if c.isBox then spaceBank else spaceCopyDst chan
/-- The next write of a copy (R225, R243). -/
def State.copyWrite (s : State) (n : Nat) (c : EngCmd) : State :=
  let va := c.dst + BitVec.ofNat 64 c.pos
  match s.translate n c.ctx .store (c.dstSpace (isChan n)) va with
  | .error f => s.faultCmd n c.id f
  | .ok pa =>
    (s.modCmd n c.id fun x => { x with pos := x.pos + c.chunk, buf := x.buf.drop c.chunk }).sendLines n c va pa (c.buf.take c.chunk)
/-- The next step of a copy that has begun: a write once its bytes are there, else a read. -/
def State.copyStep (s : State) (n : Nat) (c : EngCmd) : State :=
  if c.len ≤ c.pos then s else if c.chunk ≤ c.buf.length then s.copyWrite n c else s.copyRead n c

/-- A LINE at its destination: a bank's request (R208, R213), a line of bulk space or of host memory, or flits for a port's peer. -/
def Msg.flitList (m : Msg) : List (List Word) :=
  m.header m.pdst :: (List.range ((m.payload.length + 3) / 4)).map fun i => (m.payload.drop (4 * i)).take 4
def State.takeLine (s : State) (m : Msg) : State :=
  let bs := (wordBytes m.payload).take m.bytes
  match portAt m.dst with
  | some p => s.modPort p fun q => { q with away := q.away ++ [m] }.push m.flitList
  | none =>
    if m.dst = coxNode then ((s.loftAccess m.opa.toNat true).bankWrite none m.opa.toNat bs).ack m
    else (s.wake m.dst).request m
/-- MSG_LINE: an engine's line that is addressed to the node arrives there (R225, R226, R345). -/
def execMsgLine (node k : Nat) (s : State) : Out :=
  .next (if (s.arrived k 2 0).any fun p => decide (p.1.dst = node) then s.taken k 2 0 State.takeLine else s)

/-! ### Completion and faults (R224, R241, R245, R248) -/

/-- A result element (R241). -/
def EngCmd.element (c : EngCmd) : Word :=
  BitVec.ofNat 64 (2 ^ 63 + c.status.toNat * 2 ^ 40 + c.tag * 2 ^ 32 + c.done % 2 ^ 32)
/-- The result FIFO has a place where one is needed: until then the engine holds the completion (R241). -/
def State.fifoRoom (s : State) (n : Nat) (c : EngCmd) : Bool :=
  !c.res || decide (((s.cell n).mem.fifo c.isColl c.slot.toNat).length < 64)
def State.appendElement (s : State) (n : Nat) (c : EngCmd) : State :=
  if c.res then s.modMem n fun m => m.setFifo c.isColl c.slot.toNat (m.fifo c.isColl c.slot.toNat ++ [c.element]) else s
/-- The decrement of a command's counter: a DECN at device scope (R224). -/
def State.engineDecn (s : State) (n : Nat) (c : EngCmd) (h o : Nat) : State :=
  let m : Msg := { id := s.nextId, kind := kDecn, src := n, dst := h, thr := c.thr, ctx := c.ctx, launch := c.launch
                   opa := BitVec.ofNat 64 o, opb := 1, scope := 4, va := some c.ctr }
  (s.modMem n fun k => { k with fwd := k.fwd ++ [{ msg := m, needs := k.writeIds }] }).takeId
/-- The counters that a command's completion decrements (R243, R245), or the fault that finding them meets (R248). -/
def State.cmdCounters (s : State) (n : Nat) (c : EngCmd) : Except Fail (List (Nat × Nat)) :=
  if !c.hasCtr then .ok []
  else
    match s.translate n c.ctx .amo spaceBank c.ctr with
    | .error f => .error f
    | .ok pa =>
      match homeOf pa with
      | none => .error { cause := 0x26, addr := c.ctr }
      | some (h, o) => .ok (if c.isBox then (boxCells h c.w2).map fun k => (k, o) else [(h, o)])
/-- The counter of a node may be decremented: the copies there are performed, of a command that is no CPYM all of them (R224, R245), and
the forward buffer has a place. -/
def State.decReady (s : State) (n : Nat) (c : EngCmd) (k : Nat) : Bool :=
  !(c.lines.any fun l => !c.isBox || decide (l.2.1 = k)) && decide ((s.cell n).mem.fwdUsed < fwdPlaces n)
/-- Decrements the counters whose turn has come, and what is left. -/
def State.decrements (s : State) (n : Nat) (c : EngCmd) : List (Nat × Nat) → State × List (Nat × Nat)
  | [] => (s, [])
  | p :: ps =>
    if s.decReady n c p.1 then State.decrements (s.engineDecn n c p.1 p.2) n c ps
    else
      let r := State.decrements s n c ps
      (r.1, p :: r.2)
/-- The completion of a command all of whose writes are made (R224, R241, R243, R245): decrements, then its element, and it leaves the
engine. -/
def State.finishCmd (s : State) (n : Nat) (c : EngCmd) : State :=
  if !s.fifoRoom n c || !(c.isBox || c.lines.isEmpty) then s
  else
    match (if c.closing then .ok c.todo else s.cmdCounters n c) with
    | .error f => s.faultCmd n c.id f
    | .ok todo =>
      let r := s.decrements n c todo
      if r.2.isEmpty ∧ c.lines.isEmpty then (r.1.appendElement n c).dropCmd n c.id
      else r.1.modCmd n c.id fun c => { c with closing := true, todo := r.2 }

/-- CPY_COMPLETE and CPYM_COMPLETE (R224, R243, R245). -/
def State.copyComplete (s : State) (n id : Nat) (box : Bool) : State :=
  match s.engCmd n id with
  | none => s
  | some c => if c.begun && !c.stopped && !c.isColl && (c.isBox == box) && decide (c.len ≤ c.pos) then s.finishCmd n c else s
def execCpyComplete (node k : Nat) (s : State) : Out := .next (s.copyComplete node k false)
def execCpymComplete (node k : Nat) (s : State) : Out := .next (s.copyComplete node k true)

/-- The end of a stopped command (R248), once what a copy has sent is performed: its element, no decrement, and cause 0x27. -/
def State.stopCmd (s : State) (n : Nat) (c : EngCmd) : State :=
  if !s.fifoRoom n c || !(c.isColl || c.lines.isEmpty) then s
  else
    ((s.appendElement n c).dropCmd n c.id).reportEvent n c.ctx (some c.launch) 0x27 (c.thr + 16 * c.slot.toNat) c.fail
      (c.status.setWidth 32) [c.w2 ++ c.w1, c.element]
end Sys2Proof.Machine
end

