-- ==== Sys2Proof/Machine/Faults.lean ====
section
/-! DEFINITION. The faults of fetching and decoding (R51, R382) and the end of a budget (R269). -/

namespace Sys2Proof.Machine

/-- The trap of the current thread at its instruction's first word (R51, R373). -/
def State.trapHere (s : State) (rep : Bool) (f : Fail) : State :=
  let th := s.thread s.cur.1 s.cur.2
  if th.run.st = .running then
    { s with blocked := false }.takeTrap s.cur.1 s.cur.2 f.cause false rep (vaOf th.pc) f.addr f.detail
  else s

/-- DECODE_FAULT (R51): the word or chain at the PC raises its cause and changes nothing. -/
def execDecodeFault (cause : BitVec 8) (s : State) : Out := .next (s.trapHere false { cause := cause })

/-- INSTRUCTION_FETCH_FAULT (R51, R365, R382): a word of the next instruction cannot be fetched. The packet's REP flag is set where
the words that can be fetched say that a repeat was to be executed (log 31). -/
def execInstructionFetchFault (cause : BitVec 8) (va : BitVec 64) (detail : BitVec 32) (s : State) : Out :=
  .next (s.trapHere (s.repAt s.cur.1 s.cur.2) { cause := cause, addr := va, detail := detail })

/-- BUDGET_EXPIRY (R269): a running task whose REMAIN is 0 takes cause 0x30 at the boundary, in step 1 of END too, but not from step 3 on,
nor while it moves or is being rolled back (R321, R380). -/
def execBudgetExpiry (node : Nat) (thr : Nat) (s : State) : Out :=
  let th := s.thread node thr
  if th.run.st = .running ∧ th.remainAt (s.now node thr) = 0 ∧ !th.run.leaving ∧ !th.run.rolling ∧ !(s.cell node).paused then
    .next ({ s with blocked := false }.takeTrap node thr 0x30 false (s.repAt node thr) (vaOf th.pc) 0 0)
  else .next s

end Sys2Proof.Machine
end

