-- ==== Sys2Proof/Machine/Scheduler.lean ====
section
/-! DEFINITION. The core scheduler's own steps: insertion and pop (R263, R264), switch-out (R270, R271), balance (R277, R278), and
the barrier timeout (R280, R281). -/

namespace Sys2Proof.Machine

/-! ### Insertion and pop -/

/-- The descriptor's place when it enters a ready bank: its arm entry is FREE, a fired place is free, a thread that held a
rolled-back run is free (R261, R369). -/
def Cell.leavePlace (c : Cell) (f : FiredEnt) (fab : Nat) : Cell :=
  match f.place with
  | .arm => c.modSched fun x =>
      { x with arms := dropFirst (fun a => decide (a.st = .fired) && decide (a.ctr = f.desc.ctr)) x.arms }
  | .place => c
  | .thread t => c.setThread t ((c.thread t).modRun fun r => { r with freeAt := fab })
/-- The run that a counter of a supervisor's cell starts is a supervisor run (R375): the counter is the one that FAULT_Q of the task's slot
names, in the cell of some launch's supervisor. -/
def State.superRun (s : State) (n : Nat) (d : Desc) : Bool :=
  decide (d.ctr.toNat = fqCtr (vget (s.cell n).err.faultQ d.slot.toNat))
    && s.cox.launches.any fun l => decide (l.ctx = d.ctx) && decide (l.sup = some n)
/-- What a fired descriptor is inserted as: only one that waits in its arm entry was started by a counter (R261, R375). -/
def State.inserted (s : State) (n : Nat) (f : FiredEnt) : Desc :=
  match f.place with
  | .arm => { f.desc with super := s.superRun n f.desc }
  | _ => f.desc
/-- DESCRIPTOR_INSERT (R261, R263): the descriptor that fired first enters a bank that has a place. -/
def State.insertFired (s : State) (n : Nat) : State :=
  match (s.cell n).sched.fired with
  | [] => s
  | f :: fs =>
    match ({ (s.cell n).sched with fired := fs } : Sched).insert n (s.inserted n f) with
    | none => s
    | some c => (s.wake n).modCell n fun x => ({ x with sched := c.after (s.cell n).sched }).leavePlace f s.fab
def execDescriptorInsert (node : Nat) (s : State) : Out := .next (s.insertFired node)

/-- A cell pops: it is not frozen (R388), not moving (R320), and not in retention. -/
def State.mayPop (s : State) (n : Nat) : Bool :=
  let c := s.cell n
  !c.net.frozen && !c.power.ret && (isChan n || decide (lptState (s.lptEntry 0 n) = 0) || (!c.paused && c.power.mig.isSome))
/-- The move that balance has planned for an entry and not sent, or has sent (R277). -/
def Sched.moveOf (c : Sched) (e : ReadyEnt) : Option Move := c.moves.find? fun v => v.age = e.age
/-- POP (R262, R264): the thread that has been free longest takes a descriptor and starts. A descriptor that balance has sent to a
neighbour waits for its answer first, and one that it has only planned to move is not moved (log 115). -/
def State.pop (s : State) (n : Nat) : State :=
  let c := s.cell n
  match c.popper n, c.sched.take with
  | some t, some e =>
    if !s.mayPop n || (c.sched.moveOf e).any (fun v => v.msg.isSome) then s
    else
      let now := s.now n t
      s.modCell n fun c =>
        { c with sched := ({ c.sched.popped e with moves := c.sched.moves.filter fun v => v.age ≠ e.age }).refresh }.setThread t
          ((c.thread t).start e.desc now)
  | _, _ => s
def execPop (node : Nat) (s : State) : Out := .next (s.pop node)

/-! ### Context slots (R270, R271) -/

def State.setSlot (s : State) (n slot v : Nat) : State :=
  s.modSched n fun c => (c.setSlotState (BitVec.ofNat 2 slot) v).after c
/-- CTX_SLOT_DRAIN: a slot is put in DRAIN. -/
def execCtxSlotDrain (node slot : Nat) (s : State) : Out := .next (if slot < 4 then s.setSlot node slot 1 else s)
/-- CTX_SLOT_IN: it returns to IN. -/
def execCtxSlotIn (node slot : Nat) (s : State) : Out := .next (if slot < 4 then s.setSlot node slot 0 else s)
/-- CTX_SLOT_OUT: a slot in DRAIN in which no thread runs is OUT. -/
def State.slotOut (s : State) (n slot : Nat) : State :=
  let k := BitVec.ofNat 2 slot
  if (s.cell n).sched.slotState k = 1 ∧ (s.cell n).runCount k = 0 then s.setSlot n slot 2 else s
def execCtxSlotOut (node slot : Nat) (s : State) : Out := .next (if slot < 4 then s.slotOut node slot else s)

/-! ### Balance (R277) -/

/-- Ready depth of a cell. -/
def Sched.depth (c : Sched) : Nat := (c.ready.toList.map List.length).sum
/-- Entries that may move to a neighbour, highest AGE first. -/
def State.movable (s : State) (n dst : Nat) : List ReadyEnt :=
  let c := (s.cell n).sched
  let heads := c.heads.map ReadyEnt.age
  let ok := fun e : ReadyEnt =>
    decide (0 < e.desc.radius.toNat) && !heads.contains e.age && !c.overdue.contains e.age && !e.moving
      && (s.launchOf e.desc.launch).any (fun l => l.region.has dst)
      && decide (s.slotOf dst e.desc.ctx = some e.desc.slot) && (s.cell dst).sched.slotIn e.desc.slot
  ((c.ready.toList.flatMap id).filter ok).mergeSort fun a b => decide (b.age ≤ a.age)
/-- The moves to the neighbour in a direction. -/
def State.balanceTo (s : State) (n d : Nat) : State :=
  let c := (s.cell n).sched
  let diff := c.depth - (vget (s.cell n).net.votes d).depth
  let ctl := c.balCtl
  let dst := neighbour n d
  if !ctl.getLsbD 12 || decide (diff ≤ bitsOf ctl.toNat 0 8) then s
  else
    let es := (s.movable n dst).take (min (bitsOf ctl.toNat 8 4) (diff / 2))
    let ages := es.map ReadyEnt.age
    let needs := (s.cell n).mem.writeIds
    s.modSched n fun c =>
      { c with moves := c.moves ++ ages.map fun a => { age := a, dst := dst, needs := needs }
               ready := c.ready.map fun b => b.map fun e => if ages.contains e.age then { e with moving := true } else e }
/-- BALANCE_EXCHANGE: what each neighbour last reported against the cell's own depth. -/
def execBalanceExchange (node : Nat) (s : State) : Out :=
  .next (if isChan node then s else (List.range 6).foldl (fun s d => s.balanceTo node d) s)

/-- BALANCE_MOVE_SEND: a move whose writes are performed goes out as a TASKMOVE with RADIUS reduced by 1. -/
def State.sendMove (s : State) (n : Nat) : State :=
  let c := (s.cell n).sched
  let held := fun v : Move => v.needs.any fun i => (s.cell n).mem.fwd.any fun e => e.msg.id = i
  match c.moves.find? fun v => v.msg.isNone && !held v with
  | none => s
  | some v =>
    match (c.ready.toList.flatMap id).find? fun e => e.age = v.age with
    | none => s.modSched n fun c => { c with moves := c.moves.filter (· ≠ v) }
    | some e =>
      let d := { e.desc with radius := e.desc.radius - 1 }
      let id := s.nextId
      (s.modSched n fun c => { c with moves := c.moves.map fun x => if x = v then { x with msg := some id } else x }).sendKept n
        { cls := 4, kind := 0x10, src := n, dst := v.dst, ctx := d.ctx, launch := d.launch, desc := some d } false
def execBalanceMoveSend (node : Nat) (s : State) : Out := .next (s.sendMove node)

/-- MSG_TASKMOVE (R261, R277): a fired descriptor at the neighbour, or a NACK; CTL is never NACKed for switching. -/
def execMsgTaskmove (k : Nat) (s : State) : Out :=
  .next (s.taken k 4 0x10 fun s m =>
    match m.desc with
    | none => s
    | some d =>
      if s.placesFull m.dst then s.nack m nkBusy
      else ((s.wake m.dst).modSched m.dst fun c => c.fire d .place).ack m)

/-! ### Barrier timeout (R280, R281) -/

/-- The context whose grant holds an offset of a node. -/
def State.ownerOf (s : State) (n off : Nat) : Option Nat :=
  ([0, 1, 2, 3].find? fun k =>
    let slot := BitVec.ofNat 2 k
    (vget (s.cell n).sched.slotCtx k).isSome && inGrant (s.grant n slot) slot off 8).bind fun k => vget (s.cell n).sched.slotCtx k
/-- BARRIER_TIMEOUT: timer `k` has run for TICKS; it stops and cause 0x32 goes out. It stands still while its cell moves (R321). -/
def State.barrierTimeout (s : State) (n k : Nat) : State :=
  let c := (s.cell n).sched
  match c.timers[k]? with
  | none => s
  | some t =>
    let ticks := c.barTmo.toNat
    let w := s.readNat (nodeBase n + t.off) 8
    if ticks = 0 ∨ t.suspended ∨ s.fab - t.started < ticks ∨ barAbs w ≠ 0 ∨ (s.cell n).paused then s
    else
      let ctx := (s.ownerOf n t.off).getD 0
      (s.modSched n fun c => { c with timers := c.timers.filter (· ≠ t) }).reportEvent n ctx (s.ctxLaunch ctx) 0x32 0
        (BitVec.ofNat 64 t.off) 0 []
def execBarrierTimeout (node k : Nat) (s : State) : Out := .next (s.barrierTimeout node k)

end Sys2Proof.Machine
end

