-- ==== Sys2Proof/Machine/Launch.lean ====
section
/-! DEFINITION. The command queue (R282, R283, R286) and its commands NOP, LAUNCH (R284, R285, R331, R253) and CTXSET (R271, R283);
the constant windows (R36). -/

namespace Sys2Proof.Machine

/-! ### Statuses of a completion record (R286) -/

def stOk : Nat := 0
def stIllegal : Nat := 1
def stBad : Nat := 2
def stBusy : Nat := 3
def stProt : Nat := 4
def stRead : Nat := 5

/-! ### The queue -/

/-- The commands of R283 by what the cox cores do with them. -/
inductive CmdKind where
  | nop | launch | linkmap | ctxIn | ctxDrain | illegal
deriving DecidableEq, Repr, Inhabited

/-- A command entry: its 64 bytes. -/
structure Cmd where
  bytes : List Byte
deriving DecidableEq, Repr, Inhabited

/-- A field of `n` bytes at an offset. -/
def fieldAt (bs : List Byte) (o n : Nat) : Nat := leNat ((bs.drop o).take n)
def zeroAt (bs : List Byte) (o n : Nat) : Bool := decide (fieldAt bs o n = 0)
def Cmd.ctx (c : Cmd) : Nat := fieldAt c.bytes 2 1
def Cmd.tag (c : Cmd) : Nat := fieldAt c.bytes 4 4
def Cmd.arg (c : Cmd) : Nat := fieldAt c.bytes 8 8
/-- What the command is, by the table of R283 and its breaches. -/
def Cmd.kind (c : Cmd) : CmdKind :=
  let b := c.bytes
  if fieldAt b 1 1 ≠ 0 ∨ fieldAt b 3 1 ≠ 0 ∨ 63 < c.ctx then .illegal
  else
    match fieldAt b 0 1 with
    | 0 => if zeroAt b 8 56 then .nop else .illegal
    | 1 => if zeroAt b 16 48 then .launch else .illegal
    | 2 => .linkmap
    | 3 => if !zeroAt b 16 48 then .illegal else if c.arg = 0 then .ctxIn else if c.arg = 1 then .ctxDrain else .illegal
    | _ => .illegal

/-- Where command HEAD lies (R282). -/
def Cox.headAddr (c : Cox) : Nat := c.cqBase.toNat / 64 * 64 + 64 * (c.cqHead.toNat % 2 ^ ringLog c.cqBase)
def Cox.recAddr (c : Cox) : Nat := c.cqCbase.toNat / 16 * 16 + 16 * (c.cqHead.toNat % 2 ^ ringLog c.cqBase)
/-- Writes the completion record, advances HEAD and signals vector 0 (R286, R352). -/
def State.complete (s : State) (tag status : Nat) : State :=
  let rec_ := natBytes 4 tag ++ natBytes 4 status ++ natBytes 4 s.cox.cqHead.toNat ++ natBytes 4 0
  let s := s.put s.cox.recAddr rec_
  { s with cox := { s.cox with cqHead := s.cox.cqHead + 1, pending := .none, msix := s.cox.msix ++ [0] } }
/-- The cox cores take the command at HEAD, if it is of that kind (R282, R283); an entry that cannot be read completes with READ_ERROR
and a TAG that nobody read (R286). -/
def State.takeCmd (s : State) (kind : CmdKind) (act : State → Cmd → State) : State :=
  if !s.cox.cqValid ∨ s.cox.cqHead = s.cox.cqTail ∨ s.cox.pending ≠ .none then s
  else if s.poisonedIn s.cox.headAddr 64 then s.drawn.complete (s.free.setWidth 32).toNat stRead
  else
    let c : Cmd := { bytes := s.bytes s.cox.headAddr 64 }
    if c.kind = kind then act s c else s

/-- CMD_NOP. -/
def execCmdNop (s : State) : Out := .next (s.takeCmd .nop fun s c => s.complete c.tag stOk)
/-- CMD_ILLEGAL. -/
def execCmdIllegal (s : State) : Out := .next (s.takeCmd .illegal fun s c => s.complete c.tag stIllegal)

/-! ### CTXSET (R271, R283) -/

/-- ST_s written for the context's slot wherever the context holds one. -/
def State.ctxset (s : State) (ctx v : Nat) : State :=
  (s.hostsOf ctx).foldl (fun s p => s.modSched p.1 fun c =>
    (c.writeCtxField (BitVec.ofNat 64 (v * 2 ^ (2 * p.2.toNat))) p.2).after c) s
/-- Every slot of the context is OUT. -/
def State.allOut (s : State) (ctx : Nat) : Bool := (s.hostsOf ctx).all fun p => (s.cell p.1).sched.slotState p.2 == 2
/-- CMD_CTXSET_IN. -/
def execCmdCtxsetIn (s : State) : Out := .next (s.takeCmd .ctxIn fun s c => (s.ctxset c.ctx 0).complete c.tag stOk)
/-- CMD_CTXSET_DRAIN: the slots drain, and the command completes when all are OUT. -/
def execCmdCtxsetDrain (s : State) : Out :=
  let s := s.takeCmd .ctxDrain fun s c =>
    let s := s.ctxset c.ctx 1
    { s with cox := { s.cox with pending := .drain c.tag c.ctx } }
  match s.cox.pending with
  | .drain tag ctx => .next (if s.allOut ctx then s.complete tag stOk else s)
  | _ => .next s

/-! ### The launch record (R284) -/

/-- An entry row. -/
structure LRow where
  entry  : Nat
  ctr    : Nat
  gbase  : Nat
  glim   : Nat
  prio   : Nat
  radius : Nat
  budget : Nat
  stage  : Nat
  chan   : Option Nat
  nodes  : List Nat
deriving DecidableEq, Repr, Inhabited

/-- An image piece. -/
structure LPiece where
  src   : Nat
  off   : Nat
  len   : Nat
  nodes : List Nat
deriving DecidableEq, Repr, Inhabited

/-- A record that has been read and checked. -/
structure LRec where
  region : Region
  super  : Option Nat
  rows   : List LRow
  pieces : List LPiece
  cwin   : List Word
deriving DecidableEq, Repr, Inhabited

/-- Bytes of host or bulk space (R284). -/
def hostOrBulk (a n : Nat) : Bool :=
  let b := a + max n 1 - 1
  (decide (spaceOf a = .host) && decide (spaceOf b = .host)) || (decide (spaceOf a = .bulk) && decide (spaceOf b = .bulk))
/-- Reads a part of the record, or answers the status. -/
def State.rdRec (s : State) (a n : Nat) : Except Nat (List Byte) :=
  if !hostOrBulk a n then .error stBad else if s.poisonedIn a n then .error stRead else .ok (s.bytes a n)
/-- The nodes that a PLACE or a CELL names (R253, R284). -/
def placeNodes (r : Region) (p : Nat) : Option (List Nat) :=
  if p.testBit 30 then
    if bitsOf p 9 21 ≠ 0 then none
    else if p.testBit 31 then some ((List.range Config.channels).map fun c => Config.cells + c)
    else if p % 512 < Config.channels then some [Config.cells + p % 512]
    else none
  else if bitsOf p 24 6 ≠ 0 then none
  else if p.testBit 31 then some r.cells
  else
    let x := bitsOf p 0 8
    let y := bitsOf p 8 8
    let z := bitsOf p 16 8
    if x < r.ex ∧ y < r.ey ∧ z < r.ez then some [cellId ((r.ox + x) % 16) ((r.oy + y) % 16) ((r.oz + z) % 8)] else none
/-- A row's own checks: its counter is a word of its node's memory, its zero bits, a channel for cells alone. -/
def rowOf (r : Region) (b : List Byte) : Option LRow :=
  let place := fieldAt b 24 4
  let ctr := fieldAt b 8 4
  let ch := fieldAt b 23 1
  match placeNodes r place with
  | none => none
  | some ns =>
    if 128 ≤ fieldAt b 20 1 ∨ ch.testBit 6 ∨ !zeroAt b 28 4 ∨ ctr % 4 ≠ 0 ∨ (ch.testBit 7 && place.testBit 30)
        ∨ (ns.any fun n => decide (nodeLimit n < ctr + 4)) then none
    else
      some { entry := fieldAt b 0 8, ctr := ctr, gbase := fieldAt b 12 4, glim := fieldAt b 16 4
             prio := fieldAt b 20 1 % 16, radius := fieldAt b 20 1 / 16, budget := fieldAt b 21 1, stage := fieldAt b 22 1
             chan := if ch.testBit 7 then some (ch % 64) else none, nodes := ns }
def pieceOf (r : Region) (b : List Byte) : Option LPiece :=
  let off := fieldAt b 8 4
  let len := fieldAt b 12 4
  match placeNodes r (fieldAt b 16 4) with
  | none => none
  | some ns =>
    if !zeroAt b 20 4 ∨ (ns.any fun n => decide (nodeLimit n < off + len)) ∨ !hostOrBulk (fieldAt b 0 8) len then none
    else some { src := fieldAt b 0 8, off := off, len := len, nodes := ns }
/-- Rows of a table of records of `k` bytes, all good. -/
def allOf {α : Type} (f : List Byte → Option α) (k : Nat) (bs : List Byte) : Nat → Option (List α)
  | 0 => some []
  | n + 1 =>
    match f (bs.take k), allOf f k (bs.drop k) n with
    | some x, some xs => some (x :: xs)
    | _, _ => none
/-- Arm entries that the rows need in a bank unit of a node (R285). -/
def armNeed (rows : List LRow) (n b : Nat) : Nat :=
  (rows.filter fun r => r.nodes.contains n && decide (bankOf n r.ctr = b)).length
def banksOf (n : Nat) : List Nat := if isChan n then [0] else [0, 1, 2]
/-- Channel cores on which the record places a task. -/
def rowChans (rows : List LRow) : List Nat :=
  ((List.range Config.channels).map fun c => Config.cells + c).filter fun n => rows.any fun r => r.nodes.contains n
/-- ORIGIN and EXTENT as the record gives them. -/
def regionRec (h : List Byte) : Option Region :=
  let o := fieldAt h 0 4
  let e := fieldAt h 4 4
  let r := Region.ofWords o e
  if 2 ^ 24 ≤ o ∨ 2 ^ 24 ≤ e ∨ 16 ≤ r.ox ∨ 16 ≤ r.oy ∨ 8 ≤ r.oz then none
  else if 1 ≤ r.ex ∧ r.ex ≤ 16 ∧ 1 ≤ r.ey ∧ r.ey ≤ 16 ∧ 1 ≤ r.ez ∧ r.ez ≤ 8 then some r
  else none
/-- Step 1 of R285: reads and checks the record. -/
def State.readLaunch (s : State) (a : Nat) : Except Nat LRec :=
  match s.rdRec a 64 with
  | .error e => .error e
  | .ok h =>
    let nent := fieldAt h 8 2
    let supe := fieldAt h 10 1
    let sv := fieldAt h 11 1
    let nimg := fieldAt h 12 4
    match regionRec h with
    | none => .error stBad
    | some r =>
      if nent = 0 ∨ 256 < nent ∨ 1 < sv ∨ (sv = 0 ∧ supe ≠ 0) ∨ nent ≤ supe ∨ !zeroAt h 40 24 then .error stBad
      else
        match s.rdRec (fieldAt h 16 8) (32 * nent), s.rdRec (fieldAt h 24 8) 1920, s.rdRec (fieldAt h 32 8) (24 * nimg) with
        | .error e, _, _ => .error e
        | _, .error e, _ => .error e
        | _, _, .error e => .error e
        | .ok rb, .ok cb, .ok pb =>
          match allOf (rowOf r) 32 rb nent, allOf (pieceOf r) 24 pb nimg with
          | some rows, some pieces =>
            let place := fieldAt rb (32 * supe + 24) 4
            let toomany := (r.cells ++ rowChans rows).any fun n => (banksOf n).any fun b => decide (armPlaces n < armNeed rows n b)
            if (sv = 1 ∧ (place.testBit 30 ∨ place.testBit 31)) ∨ toomany then .error stBad
            else
              .ok { region := r, super := if sv = 1 then some supe else none, rows := rows, pieces := pieces
                    cwin := (List.range 240).map fun i => BitVec.ofNat 64 (fieldAt cb (8 * i) 8) }
          | _, _ => .error stBad

/-! ### Slots (R253, R285, R331) -/

/-- A region lies within the allow box (R331). -/
def Region.within (r a : Region) : Bool :=
  let dim := fun (m ro re ao ae : Nat) => (List.range re).all fun i => ringIn m ao ae ((ro + i) % m)
  dim 16 r.ox r.ex a.ox a.ex && dim 16 r.oy r.ey a.oy a.ey && dim 8 r.oz r.ez a.oz a.ez
/-- Two grants overlap (R331): in LM, and in a cell in tiles, decode tables or weight-buffer units. -/
def grantOverlap (chan : Bool) (a b : Word) : Bool :=
  let lm := decide (max (grantBase a) (grantBase b) < min (grantLimit a) (grantLimit b))
  let units := fun g : Word => (List.range (min 128 (bitsOf g.toNat 37 8))).map fun k => (bitsOf g.toNat 45 7 + k) % 128
  lm || (!chan && (decide (bitsOf a.toNat 52 12 &&& bitsOf b.toNat 52 12 ≠ 0) || (units a).any fun u => (units b).contains u))
/-- The node's slot may be the context's. -/
def State.slotFits (s : State) (n ctx k : Nat) : Bool :=
  let v := vget (s.cell n).sched.slotCtx k
  decide (v = some ctx) || (decide (v = none) && (s.slotOf n ctx).isNone)
/-- The template and WUMASK clash with another occupied slot of a node (R331). -/
def State.slotClash (s : State) (n k : Nat) (g : Word) (wu : Nat) : Bool :=
  let c := s.cell n
  let others := [0, 1, 2, 3].filter fun j => decide (j ≠ k) && (vget c.sched.slotCtx j).isSome
  let w := c.wide.slots
  (others.any fun j => grantOverlap (isChan n) g (vget c.err.grants j))
    || (!isChan n && (List.range 16).any fun i => wu.testBit i && w.getLsbD (4 * i + 3) && decide (bitsOf w.toNat (4 * i) 2 ≠ k))
/-- Step 2: the slot, or none for REGION_BUSY. -/
def State.chooseSlot (s : State) (ctx : Nat) (r : LRec) (nodes : List Nat) : Option Nat :=
  let e := s.ctxEnt ctx
  match [0, 1, 2, 3].find? fun k => nodes.all fun n => s.slotFits n ctx k with
  | none => none
  | some k =>
    let clash := nodes.any fun n => s.slotClash n k e.grant e.wuMask
    let arms := nodes.any fun n => (banksOf n).any fun b =>
      decide (armPlaces n < (s.cell n).sched.armsUsed n b + armNeed r.rows n b)
    let fenced := nodes.any fun n => s.fencedNode n
    if clash || arms || fenced then none else some k
/-- WU_SLOTS with the WUMASK slots assigned (R148, R331). -/
def wuAssign (w : Word) (mask k : Nat) : Word :=
  (List.range 16).foldl (fun w i =>
    if mask.testBit i then (w &&& ~~~(BitVec.ofNat 64 (15 * 16 ^ i))) ||| BitVec.ofNat 64 ((8 + k) * 16 ^ i) else w) w
/-- A slot is first taken for the context: CTX_GRANT_s and WU_SLOTS are written. -/
def State.takeSlot (s : State) (ctx k n : Nat) : State :=
  if vget (s.cell n).sched.slotCtx k = some ctx then s
  else
    let e := s.ctxEnt ctx
    let g := if isChan n then (e.grant &&& 0xfffff000) ||| 0 else e.grant
    let g := if isChan n ∧ 64 < bitsOf g.toNat 22 10 then BitVec.ofNat 64 (64 * 2 ^ 22 + min 64 (bitsOf g.toNat 12 10) * 2 ^ 12) else g
    let s := s.modSched n fun c => { (c.setSlotState (BitVec.ofNat 2 k) 0) with slotCtx := vset c.slotCtx k (some ctx) }
    let s := s.setCellCsr n (0x230 + k) g
    if isChan n ∨ e.wuMask = 0 then s else s.setCellCsr n 0x210 (wuAssign (s.cell n).wide.slots e.wuMask k)
/-- A slot that step 2 took returns to free (R286). -/
def State.freeSlotOf (s : State) (k n : Nat) : State :=
  let s := s.modSched n fun c => { c with slotCtx := vset c.slotCtx k none }
  let s := s.setCellCsr n (0x230 + k) 0
  if isChan n then s
  else
    let w := (s.cell n).wide.slots
    s.setCellCsr n 0x210 ((List.range 16).foldl (fun w i =>
      if w.getLsbD (4 * i + 3) && decide (bitsOf w.toNat (4 * i) 2 = k) then w &&& ~~~(BitVec.ofNat 64 (15 * 16 ^ i)) else w) w)

/-! ### Writing the launch -/

/-- Step 3: the image pieces in order; the first that cannot be read stops it. -/
def State.writePieces (s : State) : List LPiece → State × Bool
  | [] => (s, true)
  | p :: ps =>
    if s.poisonedIn p.src p.len then (s, false)
    else
      let bs := s.bytes p.src p.len
      State.writePieces (p.nodes.foldl (fun s n => s.bankWrites none (nodeBase n + p.off) bs (p.len / 64 + 2)) s) ps

/-- Coordinates packed as cw.244 (R36). -/
def packXyz (x y z : Nat) : Word := BitVec.ofNat 64 (x + 256 * y + 65536 * z)
/-- The words of a constant window from cw.0 on (R36, R251). -/
def windowWords (l : Launch) (n : Nat) : List Word :=
  let w := BitVec.ofNat 64
  let r := l.region
  let launch := [packXyz r.ox r.oy r.oz, packXyz r.ex r.ey r.ez, w l.ctx, w l.seq]
  let ch := chanOf n
  l.cwin ++
    if isChan n then [w ch, w (ch / 32), w (ch % 32), w n] ++ launch ++ [0, w (8192 + ch)]
    else [w (xOf n), w (yOf n), w (zOf n), w n] ++ launch ++ [0, 1, 2, 3].flatMap fun k => [w k, w (4 * n + k)]
/-- Step 4 in one node, and R392's for a spare. -/
def State.writeWindow (s : State) (l : Launch) (k n : Nat) : State :=
  s.bankWrites none (nodeBase n + 0x800 * k) (wordBytes (windowWords l n)) 33

/-- The descriptor that a row places in a node (R258, R262). -/
def LRow.desc (r : LRow) (ctx k seq n : Nat) : Desc :=
  { entry := BitVec.ofNat 58 r.entry &&& ~~~3#58, slot := BitVec.ofNat 2 k, budget := budgetOf r.budget
    radius := if isChan n then 0 else BitVec.ofNat 3 r.radius, stage := BitVec.ofNat 8 r.stage, prio := BitVec.ofNat 4 r.prio
    home := homeField n, ctr := BitVec.ofNat 22 r.ctr
    granary := if isChan n ∨ r.glim = 0 then none else some (BitVec.ofNat 17 r.gbase, BitVec.ofNat 17 r.glim), launch := seq, ctx := ctx }
/-- A handler-table entry (R272). -/
def handlerEntry (k prio entry : Nat) : Word :=
  BitVec.ofNat 64 (2 ^ 63 + k % 4 * 2 ^ 61 + prio % 16 * 2 ^ 57 + entry % 2 ^ 58 / 4)
/-- A counter already holds a RESERVED or ARMED entry (R292). -/
def Sched.bound (c : Sched) (off : Nat) : Bool := c.arms.any fun a => decide (a.ctr.toNat = off) && decide (a.st ≠ .fired)
/-- Steps 5 and 6 for one row and node; `zero` selects the rows whose counter reads 0. A zero counter's entry is FIRED at once; a nonzero
counter's is ARMED, and a counter that is bound already takes no second one (R292; DESIGN CHOICE, log 119). -/
def State.placeRow (s : State) (ctx k seq : Nat) (zero : Bool) (r : LRow) (n : Nat) : State :=
  let z := decide (s.readNat (nodeBase n + r.ctr) 4 = 0)
  let s := if zero then s else
    match r.chan with
    | some h => s.modSched n fun c => { c with handlers := vset c.handlers h (handlerEntry k r.prio r.entry) }
    | none => s
  if z ≠ zero then s
  else
    s.modSched n fun c =>
      let a : ArmEnt := { ctr := BitVec.ofNat 22 r.ctr, st := .armed, desc := r.desc ctx k seq n }
      if zero then { c with arms := c.arms ++ [{ a with st := .fired }] }.fire a.desc .arm
      else if c.bound r.ctr then c else { c with arms := c.arms ++ [a] }
def State.placeRows (s : State) (ctx k seq : Nat) (zero : Bool) (rows : List LRow) : State :=
  rows.foldl (fun s r => r.nodes.foldl (fun s n => State.placeRow s ctx k seq zero r n) s) s

/-- FAULT_Q_s.CTR of the supervisor's cell (R375). -/
def State.placeSuper (s : State) (n k ctr : Nat) : State :=
  let w := vget (s.cell n).err.faultQ k
  s.setCellCsr n (0x234 + k) ((w &&& ~~~(BitVec.ofNat 64 (0x3fffff * 2 ^ 36))) ||| BitVec.ofNat 64 (ctr % 2 ^ 22 * 2 ^ 36))

/-- Steps 2 to 6 of a checked record: the new state and the status. -/
def State.launch (s : State) (ctx : Nat) (r : LRec) : State × Nat :=
  let nodes := r.region.cells ++ rowChans r.rows
  match s.chooseSlot ctx r nodes with
  | none => (s, stBusy)
  | some k =>
    let new := nodes.filter fun n => decide (vget (s.cell n).sched.slotCtx k ≠ some ctx)
    let s := nodes.foldl (fun s n => s.takeSlot ctx k n) s
    match s.writePieces r.pieces with
    | (s, false) => (new.foldl (fun s n => s.freeSlotOf k n) s, stRead)
    | (s, true) =>
      let sup := r.super.bind fun i => r.rows[i]?
      let seq := s.cox.launchSeq.toNat
      let l : Launch := { seq := seq, ctx := ctx, region := r.region, sup := sup.bind fun x => x.nodes.head?
                          supCtr := BitVec.ofNat 22 (sup.elim 0 LRow.ctr), cwin := r.cwin, chans := rowChans r.rows }
      let s := nodes.foldl (fun s n => s.writeWindow l k n) s
      let s := { s with cox := { s.cox with launchSeq := s.cox.launchSeq + 1, launches := s.cox.launches ++ [l] } }
      let s := l.sup.elim s fun n => s.placeSuper n k (sup.elim 0 LRow.ctr)
      ((s.placeRows ctx k seq false r.rows).placeRows ctx k seq true r.rows, stOk)

/-- CMD_LAUNCH (R285). -/
def State.cmdLaunch (s : State) (c : Cmd) : State :=
  match s.readLaunch c.arg with
  | .error e => s.complete c.tag e
  | .ok r =>
    let e := s.ctxEnt c.ctx
    if !e.v ∨ e.busy ∨ !r.region.within e.allow then s.complete c.tag stProt
    else
      let (s, st) := s.launch c.ctx r
      s.complete c.tag st
def execCmdLaunch (s : State) : Out := .next (s.takeCmd .launch State.cmdLaunch)

end Sys2Proof.Machine
end

