-- ==== Sys2Proof/Machine/Fencing.lean ====
section
/-! DEFINITION. Strokes and the crew vote (R383 to R390), fencing and the resolution of orphaned messages (R388, R393, R394), the remap to
a spare (R392), test and appeal (R395, R396), and the delivery of fault packets to a supervisor (R376). -/

namespace Sys2Proof.Machine

/-! ### Parties -/

/-- The cox cores' view: the logical cell is not fenced. -/
def State.liveCell (s : State) (n : Nat) : Bool := decide (lptState (s.lptEntry 0 n) ≠ 2)
/-- The router's own copy of the LPT says so (R387). -/
def State.seesLive (s : State) (n lid : Nat) : Bool := decide (lptState (s.seenEntry n lid) ≠ 2)
/-- A CTL or MNT message that names a suspect. -/
def State.tell (s : State) (cls kind src dst : Nat) (opa opb : Word) : State :=
  s.send { cls := BitVec.ofNat 3 cls, kind := BitVec.ofNat 8 kind, src := src, dst := dst, opa := opa, opb := opb }

/-! ### The quorum (R387) -/

/-- L: neighbours of the suspect that the router's copy does not show FENCED. -/
def State.crew (s : State) (n sus : Nat) : Nat := ((List.range 6).filter fun d => s.seesLive n (neighbour sus d)).length
def quorum (l : Nat) : Nat := max 3 (l / 2 + 1)
/-- Bits of ACC. -/
def accCount (a : BitVec 6) : Nat := ((List.range 6).filter fun k => a.getLsbD k).length
def accBit (j : Nat) : BitVec 6 := 1#6 <<< j

/-! ### Reaching FENCED (R388, R394) -/

/-- a ≤ b as serial numbers (R384). -/
def serialLe (a b : BitVec 32) : Bool := decide ((b - a).toNat < 2 ^ 31)
/-- What the closing port discards: traffic of the suspect, not MNT, that enters through it and is stamped after LAST (R394). -/
def State.shutOut (s : State) (n d : Nat) (last : BitVec 32) (m : Msg) : Bool :=
  decide (m.src = neighbour n d) && decide (m.cls ≠ 5) && decide (s.entryPort m = some (n, d)) && !serialLe m.stroke last
/-- The lowest direction of the suspect's live neighbours is this router's. -/
def State.lowestCrew (s : State) (n d : Nat) : Bool :=
  let sus := neighbour n d
  (List.range (backDir d)).all fun j => !s.seesLive n (neighbour sus j)
/-- A router fences its neighbour in a direction (R388). -/
def State.fence (s : State) (n d : Nat) : State :=
  let v := s.vote n d
  if 2 ≤ v.st.toNat then s
  else
    let sus := neighbour n d
    let s := { s with net := s.net.filter fun m => !s.shutOut n d v.last m }
    let s := s.modVote n d fun v => { v with st := 2, closed := true }
    let s := (List.range 6).foldl (fun s j =>
      if j = backDir d ∨ !s.seesLive n (neighbour sus j) then s else s.tell 4 0x13 n (neighbour sus j) (BitVec.ofNat 64 sus) 0) s
    let s := s.tell 5 0x27 n sus (BitVec.ofNat 64 sus) 0
    if s.lowestCrew n d then s.tell 5 0x21 n coxNode (BitVec.ofNat 64 sus) (BitVec.ofNat 64 (v.last.toNat + v.judge.toNat * 2 ^ 32)) else s
/-- A quorum fences (R386, R387); with L below 3 no router does. -/
def State.checkQuorum (s : State) (n d : Nat) : State :=
  let l := s.crew n (neighbour n d)
  let v := s.vote n d
  if 3 ≤ l ∧ quorum l ≤ accCount v.acc ∧ v.st.toNat < 2 then s.fence n d else s

/-- A judge's accusation (R385 to R387): its own ACC bit, and ACCUSE to the suspect's other neighbours; with L below 3 FENCED to the cox
cores, once in a round. -/
def State.accuse (s : State) (n d : Nat) : State :=
  let v := s.vote n d
  if v.judge = 0 ∨ 2 ≤ v.st.toNat then s
  else
    let sus := neighbour n d
    let first := v.acc &&& accBit (backDir d) = 0
    let s := s.modVote n d fun v =>
      { v with st := 1, acc := v.acc ||| accBit (backDir d), round := if v.acc = 0 then 8 else v.round }
    let opa := BitVec.ofNat 64 (sus + backDir d * 2 ^ 11 + (v.judge.toNat - 1) * 2 ^ 14)
    let s := (List.range 6).foldl (fun s j =>
      if j = backDir d then s
      else s.send { cls := 4, kind := 0x12, src := n, dst := neighbour sus j, opa := opa, stroke := v.last }) s
    if s.crew n sus < 3 then
      (if first then s.tell 5 0x21 n coxNode (BitVec.ofNat 64 sus) (BitVec.ofNat 64 (v.last.toNat + v.judge.toNat * 2 ^ 32)) else s)
    else s.checkQuorum n d

/-! ### Strokes (R383, R384) -/

/-- The strokes that a cell sends at its period boundary, while its transmitter works. -/
def State.sendStrokes (s : State) (n : Nat) : State :=
  let c := s.cell n
  let opa := BitVec.ofNat 64 (c.err.chkm.toNat + bit c.net.cf * 2 ^ 16 + bit c.net.cd * 2 ^ 17)
  let s := s.modCell n fun c => c.modNet fun x => { x with stroke := x.stroke + 1, cf := false }
  if c.net.mute then s
  else (List.range 6).foldl (fun s d => s.tell 4 0x11 n (neighbour n d) opa (BitVec.ofNat 64 c.sched.depth)) s
/-- FENCE_CTL's limits (R390). -/
def DevMisc.rate (m : DevMisc) : Nat := bitsOf m.fenceCtl.toNat 16 16
def DevMisc.malLimit (m : DevMisc) : Nat := bitsOf m.fenceCtl.toNat 8 8
def DevMisc.appealLimit (m : DevMisc) : Nat := bitsOf m.fenceCtl.toNat 0 4
/-- What a period boundary does to a vote before it accuses: MISSED, judgements, ROUND, and the counts of the period to come. -/
def Vote.boundary (v : Vote) (rate mal q : Nat) : Vote :=
  let missed := if v.seen then v.missed else if v.missed = 3 then 3 else v.missed + 1
  let judge : BitVec 4 := if v.judge ≠ 0 then v.judge
    else if missed = 3 then 1 else if rate < v.msgs then 5 else if mal < v.malf then 6 else 0
  let round := v.round - (if v.round = 0 then 0 else 1)
  let lapse := decide (v.round ≠ 0) && decide (round = 0) && decide (accCount v.acc < q)
  { v with missed := missed, judge := judge, round := round, acc := if lapse then 0 else v.acc
           seen := false, strokes := 0, msgs := 0, malf := 0 }
/-- The router's boundary for one direction (R384, R386). -/
def State.judgePeriod (s : State) (n d : Nat) : State :=
  let sus := neighbour n d
  if 2 ≤ (s.vote n d).st.toNat ∨ !s.seesLive n sus then s
  else
    let l := s.crew n sus
    (s.modVote n d fun v => v.boundary s.misc.rate s.misc.malLimit (if l < 3 then 7 else quorum l)).accuse n d

/-- A router's port to a physical cell that has been fenced (R386, R388). -/
def Phys.port (e : Phys) (n : Nat) : Option Appeal := (e.ports.find? fun x => x.1 = n).map Prod.snd
def State.setAppeal (s : State) (n p : Nat) (a : Appeal) : State := s.modPhys p fun e => { e with ports := assocSet e.ports n a }
/-- REFUSE (R386): the port is FENCED again. -/
def State.refuseAppeal (s : State) (n p : Nat) (a : Appeal) : State :=
  (s.setAppeal n p { a with vote := { a.vote with st := 2 } }).tell 5 0x25 n coxNode (BitVec.ofNat 64 p) 0
/-- The neighbour's part of an appeal at its period boundary (R386): the sixteenth period with strokes, all of them good, answers ADMIT
(log 84). -/
def State.appealPeriod (s : State) (n p : Nat) : State :=
  match (s.physEnt p).port n with
  | none => s
  | some a =>
    if a.vote.st ≠ 3 then s
    else
      let v := a.vote.boundary s.misc.rate s.misc.malLimit 7
      if 2 ≤ v.judge.toNat then s.refuseAppeal n p { a with vote := v }
      else
        let good := a.good + bit a.vote.seen
        let s := s.setAppeal n p { vote := v, good := good }
        if good = 16 ∧ a.vote.seen then s.tell 5 0x24 n coxNode (BitVec.ofNat 64 p) 0 else s
/-- The strokes of a physical cell that holds no coordinate (R383, R395): its fabric die numbers them, and for 16 periods after its APPEAL
they go out on MNT. -/
def State.physPeriod (s : State) (p : Nat) : State :=
  let e := s.physEnt p
  let s := s.modPhys p fun e => { e with stroke := e.stroke + 1, left := e.left - 1 }
  if e.left = 0 then s
  else e.asked.foldl (fun s n => s.send
    { cls := 5, kind := 0x11, src := physNode p, dst := n, stroke := e.stroke, opa := BitVec.ofNat 64 (bit e.erratic * 2 ^ 17) }) s
/-- The physical cell that a node without a coordinate is. -/
def physOfNode (n : Nat) : Nat := n - 8192
/-- STROKE_PERIOD: a cell's period boundary (R383, R384, R386). The strokes of a cell that has been fenced pass nowhere before its appeal,
and its fabric die only numbers them (R388). -/
def State.strokePeriod (s : State) (n : Nat) : State :=
  if (s.cell n).net.frozen then s.modCell n fun c => c.modNet fun x => { x with stroke := x.stroke + 1 }
  else
    let s := s.sendStrokes n
    let s := (List.range 6).foldl (fun s d => s.judgePeriod n d) s
    (s.phys.map Prod.fst).foldl (fun s p => s.appealPeriod n p) s
def execStrokePeriod (node : Nat) (s : State) : Out :=
  .next (if node < Config.cells then s.strokePeriod node else if physNode 0 ≤ node then s.physPeriod (physOfNode node) else s)

/-- The direction of a neighbour. -/
def dirOf (n m : Nat) : Option Nat := (List.range 6).find? fun d => neighbour n d = m
/-- A stroke comes less than 2,048 fabric cycles after the one before it, if there was one (R384). -/
def Vote.early (v : Vote) (fab : Nat) : Bool := decide (v.lastAt ≠ 0) && decide (fab - v.lastAt < 2048)
/-- CF or CD of a stroke. -/
def Msg.sick (m : Msg) : Bool := m.opa.getLsbD 16 || m.opa.getLsbD 17
/-- The stroke is good (R384). -/
def Vote.good (v : Vote) (m : Msg) (fab : Nat) : Bool := !v.early fab && !m.sick && !serialLe m.stroke v.last
/-- A limit on what comes in one period is exceeded (R384, codes 2, 4 and 5): that judgement holds for the rest of the period, and a good
stroke does not end it (log 98). -/
def Vote.excess (v : Vote) (rate mal : Nat) : Bool := decide (4 < v.strokes) || decide (rate < v.msgs) || decide (mal < v.malf)
/-- A vote after a stroke (R384, R386): its code, or a good stroke, which ends a judgement that does not hold any more. -/
def Vote.stroke (v : Vote) (m : Msg) (own : BitVec 6) (fab rate mal : Nat) : Vote :=
  let early := v.early fab
  let good := v.good m fab
  let v := { v with seen := true, lastAt := fab, strokes := v.strokes + 1, depth := bitsOf m.opb.toNat 0 9 }
  let v := if good then { v with last := m.stroke, missed := 0 } else v
  if early then { v with judge := 2 }
  else if 4 < v.strokes then { v with judge := 3 }
  else if m.sick then { v with judge := 4 }
  else if good && !v.excess rate mal then { v with judge := 0, acc := v.acc &&& ~~~own, st := if v.st = 1 then 0 else v.st }
  else v
/-- A stroke on MNT at a port in state APPEAL (R386). -/
def State.appealStroke (s : State) (n p : Nat) (m : Msg) : State :=
  match (s.physEnt p).port n with
  | none => s
  | some a =>
    if a.vote.st ≠ 3 then s
    else
      let v := a.vote.stroke m 0 s.fab s.misc.rate s.misc.malLimit
      if !a.vote.good m s.fab || decide (2 ≤ v.judge.toNat) then s.refuseAppeal n p { a with vote := v }
      else s.setAppeal n p { a with vote := v }
/-- MSG_STROKE (R384, R386): the closed port passes none but those on MNT. -/
def execMsgStroke (k : Nat) (s : State) : Out :=
  match s.arrived k 4 0x11 with
  | some (m, s) =>
    match dirOf m.dst m.src with
    | none => .next s
    | some d =>
      if 2 ≤ (s.vote m.dst d).st.toNat then .next s
      else .next ((s.modVote m.dst d fun v =>
        v.stroke m (accBit (backDir d)) s.fab s.misc.rate s.misc.malLimit).accuse m.dst d)
  | none =>
    match s.arrived k 5 0x11 with
    | none => .next s
    | some (m, s) => .next (s.appealStroke m.dst (physOfNode m.src) m)

/-- MSG_ACCUSE (R386): the accuser's ACC bit is set. -/
def execMsgAccuse (k : Nat) (s : State) : Out :=
  match s.arrived k 4 0x12 with
  | none => .next s
  | some (m, s) =>
    match dirOf m.dst m.suspect with
    | none => .next s
    | some d =>
      if 2 ≤ (s.vote m.dst d).st.toNat ∨ 6 ≤ bitsOf m.opa.toNat 11 3 then .next s
      else
        let s := s.modVote m.dst d fun v =>
          { v with round := if v.acc = 0 then 8 else v.round, acc := v.acc ||| accBit (bitsOf m.opa.toNat 11 3) }
        .next (s.checkQuorum m.dst d)
/-- MSG_FENCE (R386, R394): from a fencing neighbour on CTL, or from the cox cores on MNT. -/
def execMsgFence (k : Nat) (s : State) : Out :=
  match (s.arrived k 4 0x13).or (s.arrived k 5 0x13) with
  | none => .next s
  | some (m, s) =>
    match dirOf m.dst m.suspect with
    | none => .next s
    | some d => .next (s.fence m.dst d)
/-- MSG_FREEZE (R388): every thread freezes; the fabric die stops all but MNT traffic. It reaches the physical cell that it was sent
to, and no other that took the coordinate since; the copy of a cell that a migration brings to its target is discarded with the target
(R321). -/
def execMsgFreeze (k : Nat) (s : State) : Out :=
  match s.arrived k 5 0x27 with
  | none => .next s
  | some (m, s) =>
    if m.phys ≠ s.physOf m.dst ∨ (s.cell m.dst).power.mig.any (fun g => g.phase = 4) then .next s
    else
      let stop := fun (t : Nat) (th : Thread) =>
        if th.run.st = .running then (th.charge (s.now m.dst t)).settleAll.modRun fun r => { r with st := .frozen } else th
      .next (s.modCell m.dst fun c =>
        { c with threads := c.threads.map fun q => (q.1, stop q.1 q.2), net := { c.net with frozen := true } })

/-! ### Orphaned messages (R393) -/

/-- A SENT entry is treated as if it had received NACK FENCED; where its thread must run first, the NACK waits for that. -/
def State.nackFenced (s : State) (n : Nat) (e : FwdEnt) : State :=
  let s := { s with net := s.net.filter fun m => !(decide (m.id = e.msg.id) && decide (m.cls = e.msg.cls)) }
  if s.nackWaits n e then
    { s with net := s.net ++ [{ id := e.msg.id, cls := 1, kind := 3, src := e.msg.dst, dst := n, thr := e.msg.thr, aux := BitVec.ofNat 6 nkFenced }] }
  else s.heardNack n e nkFenced
/-- LPT_ENTRY_FENCED: the deck's network interfaces take the pending messages to that cell as NACKed. The channel cores' have no copy of
their own and follow deck 0's, at whose ports they enter (R252). -/
def State.orphan (s : State) (deck lid : Nat) : State :=
  let here := fun n : Nat => if isChan n then decide (deck = 0) else decide ((s.dieOf n) = deck)
  let sent := fun (e : FwdEnt) => decide (e.msg.dst = lid) && decide (e.st = .sent)
  let todo := s.cells.flatMap fun p => if here p.1 then (p.2.mem.fwd.filter sent).map fun e => (p.1, e) else []
  todo.foldl (fun s x => s.nackFenced x.1 x.2) s
def execLptEntryFenced (deck : Nat) (lid : Nat) (s : State) : Out :=
  .next (if lid < Config.cells ∧ lptState (s.lptEntry deck lid) = 2 then s.orphan deck lid else s)

/-! ### The cox cores (R392, R394) -/

/-- Live neighbours of a coordinate. -/
def State.liveCrew (s : State) (lid : Nat) : List Nat := ((List.range 6).map fun d => neighbour lid d).filter fun n => s.liveCell n
/-- The cox cores fence alone: FENCE to the live neighbours and FREEZE to the cell, over MNT (R394). -/
def State.fenceAlone (s : State) (lid : Nat) : State :=
  let id := BitVec.ofNat 64 lid
  ((s.liveCrew lid).foldl (fun s n => s.tell 5 0x13 coxNode n id 0) s).tell 5 0x27 coxNode lid id 0
def State.setMig (s : State) (n : Nat) (m : Option Migration) : State := s.modCell n fun c => c.modPower fun p => { p with mig := m }
/-- The pause of a migration is over (R320, R321): budgets and barrier timers go on where they stood. -/
def State.endPause (s : State) (n : Nat) (m : Migration) : State :=
  let wait := s.fab - m.began
  s.modCell n fun c =>
    { c with
      threads := c.threads.map fun p => (p.1, p.2.modCtrl fun k => { k with chargedAt := (vget c.cores (coreIx n p.1)).now })
      sched := { c.sched with timers := c.sched.timers.map fun x => { x with started := x.started + wait } } }
/-- The neighbours' votes about a coordinate that has got another cell return to TRUSTED, with LAST 0 (R392). -/
def State.trustAgain (s : State) (lid : Nat) : State :=
  (List.range 6).foldl (fun s d =>
    s.modVote (neighbour lid d) (backDir d) fun v =>
      { v with st := 0, acc := 0, round := 0, judge := 0, missed := 0, last := 0, closed := false }) s
/-- STATE FENCED in all eight copies. A migration ends there (R321): where its target was being switched in, the old position is written
back with STATE NORMAL and the threads go on at the source, with its neighbours' votes as after a remap (log 84). -/
def State.fenceCell (s : State) (lid : Nat) : State :=
  let p := s.physOf lid
  let away := fun e : Phys => { e with fenced := true, oldLid := some lid, unmapped := false }
  match (s.cell lid).power.mig with
  | some m =>
    if m.phase = 4 then ((((s.setLpt lid (lptWord m.source 0)).modPhys m.target away).trustAgain lid).endPause lid m).setMig lid none
    else ((s.setLpt lid (lptWord p 2)).modPhys p away).setMig lid none
  | none => (s.setLpt lid (lptWord p 2)).modPhys p away
/-- MSG_FENCED (R392, R394). -/
def execMsgFenced (k : Nat) (s : State) : Out :=
  match s.arrived k 5 0x21 with
  | none => .next s
  | some (m, s) =>
    let lid := m.suspect
    if !s.liveCell lid then .next s
    else
      let few := (s.liveCrew lid).length < 3
      let s := s.fenceCell lid
      .next (if few && !s.liveCell lid then s.fenceAlone lid else s)

/-- Physical positions of a column, with the spare row first, then the nearest to a position, lower rows first (R392). -/
def columnOrder (py : Nat) : List Nat :=
  16 :: ((List.range 16).flatMap fun k => (List.range 16).filter fun y => max y py - min y py = k)
/-- Physical cells to which migrations under way are moving a cell (R320). -/
def State.reserved (s : State) : List Nat := s.cells.filterMap fun q => q.2.power.mig.map Migration.target
/-- The free spare that stands in for a coordinate (R13, R392, R396). -/
def State.spareFor (s : State) (lid : Nat) : Option Nat :=
  let p := s.physOf lid
  let deck := p / 272
  let px := p % 16
  let held := ((List.range 16).map fun y => s.physOf (cellId (xOf lid) y (zOf lid)))
  let free := fun q : Nat => !held.contains q && !s.reserved.contains q && !(s.physEnt q).fenced && decide ((s.physEnt q).oldLid ≠ some lid)
  ((columnOrder (p % 272 / 16)).map fun y => physIndex px y deck).find? free
/-- The spare's registers: software's last values replayed, the slots that the cell held IN (R392). -/
def State.replayRegs (s : State) (lid : Nat) (old : Cell) : State :=
  let s := s.modSched lid fun c => { c with slotCtx := old.sched.slotCtx }
  old.err.shadow.foldl (fun s r => if r.1 = 0x222 then s else s.setCellCsr lid r.1 r.2) s
/-- The launch whose image a slot's window takes: the context's latest that covers the cell. -/
def State.latestOver (s : State) (lid ctx : Nat) : Option Launch :=
  (s.cox.launches.filter fun l => decide (l.ctx = ctx) && l.region.has lid).getLast?
/-- The windows of a spare. -/
def State.replayWindows (s : State) (lid : Nat) (old : Cell) : State :=
  [0, 1, 2, 3].foldl (fun s k =>
    match (vget old.sched.slotCtx k).bind fun ctx => s.latestOver lid ctx with
    | some l => s.writeWindow l k lid
    | none => s) s
/-- The 0x52 report of one context (R392): to its supervisor, or to the host where the supervisor sat in the fenced cell. -/
def State.reportRemap (s : State) (lid ctx : Nat) : State :=
  let l := s.latestOver lid ctx
  let p := packetHead 0x52 0 0 0 lid ctx 0 0 0 (BitVec.ofNat 32 lid) (s.cell lid).err.seq ++ [0, 0, 0, 0]
  let s := s.nextSeq lid
  if (l.bind Launch.sup) = some lid then s.toHost p else s.report lid ctx (l.map Launch.seq) false p
/-- Adds 1 to a saturating count of 8 bits (R405). -/
def sat8 (v : BitVec 8) : BitVec 8 := if v = 255 then v else v + 1
/-- A spare takes a coordinate with every SRAM zero (R392, R13): the LPT, the neighbours' votes, the ports held against the cell that had it,
the counts. Its strokes go on with the coordinate's number (log 87). -/
def State.takeOver (s : State) (lid q : Nat) : State :=
  let p := s.physOf lid
  let old := s.cell lid
  let fresh := Cell.init lid
  let ports := (List.range 6).map fun d =>
    (neighbour lid d, ({ vote := { s.vote (neighbour lid d) (backDir d) with st := 2, closed := true } } : Appeal))
  let s := s.zeroRange lid 0 Config.lmBytes
  let s := s.setCell lid { fresh with sched := { fresh.sched with gen := BitVec.ofNat 32 (1 + q) }
                                      net := { fresh.net with stroke := old.net.stroke, links := old.net.links } }
  let s := s.modPhys p fun e => { e with ports := ports, stroke := old.net.stroke }
  let s := { s with misc := { s.misc with spares := s.misc.spares - 1, remapped := sat8 s.misc.remapped } }
  (s.setLpt lid (lptWord q 0)).trustAgain lid
/-- Brings up a spare for a fenced coordinate: steps 2 to 4 of R392, then TEST (R395). -/
def State.bringUp (s : State) (lid q : Nat) : State :=
  let p := s.physOf lid
  let old := s.cell lid
  let s := ((s.takeOver lid q).replayRegs lid old).replayWindows lid old
  let s : State := ((List.range 4).filterMap fun k => vget old.sched.slotCtx k).foldl (fun (s : State) c => s.reportRemap lid c) s
  if (s.physEnt p).appeals < s.misc.appealLimit then s.tell 5 0x22 coxNode (physNode p) 0 0 else s
/-- REMAP_TO_SPARE: the cox cores' work on a coordinate that they have fenced (R392, R394): UNMAPPED counts one that finds no spare
(R405). -/
def State.remap (s : State) (lid : Nat) : State :=
  let p := s.physOf lid
  if s.liveCell lid ∨ (s.physEnt p).unmapped then s
  else
    let s' := s.modPhys p fun e => { e with unmapped := true }
    if (s.liveCrew lid).length < 3 then s'.fenceAlone lid
    else
      match s.spareFor lid with
      | some q => s.bringUp lid q
      | none => { s' with misc := { s'.misc with unmapped := sat8 s'.misc.unmapped } }.fenceAlone lid
def execRemapToSpare (lid : Nat) (s : State) : Out := .next (if lid < Config.cells then s.remap lid else s)

/-! ### Test and appeal (R395, R396) -/

/-- MSG_TEST: the cell, which holds no coordinate, has discarded its state and tests itself. -/
def execMsgTest (k : Nat) (s : State) : Out :=
  match s.arrived k 5 0x22 with
  | none => .next s
  | some (m, s) => .next (s.modPhys (physOfNode m.dst) fun e => { e with testing := true })
/-- SELF_TEST_COMPLETE: a cell that passes appeals to each live neighbour of its old position, and strokes on MNT for 16 periods; one that
fails sends nothing more. -/
def State.selfTested (s : State) (p : Nat) (pass : Bool) (sig : BitVec 32) : State :=
  let e := s.physEnt p
  if !e.testing then s
  else if !pass then s.modPhys p fun e => { e with testing := false, dead := true }
  else
    let ns := e.oldLid.elim [] fun l => s.liveCrew l
    let s := s.modPhys p fun e => { e with testing := false, appealing := true, asked := ns, left := 16, admits := [], refused := false }
    ns.foldl (fun s n => s.tell 5 0x23 (physNode p) n (sig.setWidth 64) 0) s
def execSelfTestComplete (phys : Nat) (pass : Bool) (sig : BitVec 32) (s : State) : Out := .next (s.selfTested phys pass sig)
/-- MSG_APPEAL: the neighbour's port to the appellant goes from FENCED to APPEAL (R386). -/
def State.appealAt (s : State) (n p : Nat) : State :=
  match (s.physEnt p).port n with
  | none => s
  | some a =>
    if a.vote.st ≠ 2 then s
    else s.setAppeal n p { vote := { a.vote with st := 3, judge := 0, missed := 0, seen := false, strokes := 0, msgs := 0, malf := 0 } }
def execMsgAppeal (k : Nat) (s : State) : Out :=
  match s.arrived k 5 0x23 with
  | none => .next s
  | some (m, s) => .next (s.appealAt m.dst (physOfNode m.src))
/-- MSG_ADMIT: with the last ADMIT the cell is readmitted as a free spare. -/
def State.admitBy (s : State) (n p : Nat) : State :=
  let e := s.physEnt p
  if !e.appealing then s
  else
    let got := n :: e.admits
    let s := s.modPhys p fun e => { e with admits := got }
    if e.asked.isEmpty || e.asked.any (fun x => s.liveCell x && !got.contains x) then s
    else
      let s := s.modPhys p fun e => { e with fenced := false, appealing := false, appeals := e.appeals + 1 }
      let s := { s with misc := { s.misc with spares := sat8 s.misc.spares } }
      e.asked.foldl (fun s n => s.tell 5 0x26 coxNode n (BitVec.ofNat 64 p) 0) s
def execMsgAdmit (k : Nat) (s : State) : Out :=
  match s.arrived k 5 0x24 with
  | none => .next s
  | some (m, s) => .next (s.admitBy m.src m.opa.toNat)
/-- The appeal has failed: the cell stays fenced until power-up. -/
def State.refuse (s : State) (p : Nat) : State :=
  if (s.physEnt p).appealing then s.modPhys p fun e => { e with appealing := false, refused := true, dead := true } else s
def execMsgRefuse (k : Nat) (s : State) : Out :=
  match s.arrived k 5 0x25 with
  | none => .next s
  | some (m, s) => .next (s.refuse m.opa.toNat)
/-- APPEAL_ANSWER_TIMEOUT. -/
def execAppealAnswerTimeout (phys : Nat) (s : State) : Out := .next (s.refuse phys)
/-- MSG_REOPEN (R386): the neighbour trusts the readmitted cell again, and its port is open. -/
def State.reopen (s : State) (n p : Nat) : State :=
  match (s.physEnt p).port n with
  | none => s
  | some a => if a.vote.st ≠ 3 then s else s.setAppeal n p { a with vote := { a.vote with st := 0, acc := 0, missed := 0, closed := false } }
def execMsgReopen (k : Nat) (s : State) : Out :=
  match s.arrived k 5 0x26 with
  | none => .next s
  | some (m, s) => .next (s.reopen m.dst m.opa.toNat)

/-! ### Fault packets (R376) -/

/-- The slot of the packet's context in the supervisor's cell, and its fault ring register. -/
def State.faultRing (s : State) (m : Msg) : Word := (s.slotOf m.dst m.ctx).elim 0 fun k => vget (s.cell m.dst).err.faultQ k.toNat
/-- MSG_FAULT: the packet enters the ring, or the host's; a full ring answers NACK BUSY. Its writes wait, as every write does, for the
sharers of their lines (R213). -/
def State.takePacket (s : State) (m : Msg) : State :=
  let n := m.dst
  let w := s.faultRing m
  if fqLog w = 0 then (s.toHost m.payload).ack m
  else
    let size := 2 ^ fqLog w
    let tail := s.fqTail n w
    if size ≤ (tail + 2 ^ 32 - s.fqHead n w) % 2 ^ 32 then s.nack m nkBusy
    else
      let base := nodeBase n + fqBase w
      let at_ := base + 64 + 64 * (tail % size)
      s.whenClaimed m (linesOf base 4 ++ linesOf at_ 64) fun s =>
        let s := s.bankWrites none at_ (wordBytes m.payload) 2
        let s := s.bankWrite none base (natBytes 4 (tail + 1))
        ((s.wake n).ownDecn n (fqCtr w) m.ctx m.launch).ack m
def execMsgFault (k : Nat) (s : State) : Out := .next (s.taken k 5 0x20 State.takePacket)

end Sys2Proof.Machine
end

