-- ==== Sys2Proof/Machine/Collective.lean ====
section
/-! DEFINITION. The collective engine (R247): participants, combination, the root's steps, results, and the start and completion of
commands (R224, R345, R348). -/

namespace Sys2Proof.Machine

/-! ### Collectives (R247) -/

/-- The nodes of a collective's line, by position from the region's origin. -/
def State.collLine (s : State) (launch n dim : Nat) : List Nat :=
  let r := s.regionOf launch
  (List.range (r.extent dim)).map fun i =>
    match dim with
    | 0 => cellId ((r.ox + i) % 16) (yOf n) (zOf n)
    | 1 => cellId (xOf n) ((r.oy + i) % 16) (zOf n)
    | _ => cellId (xOf n) (yOf n) ((r.oz + i) % 8)
def State.cmdLine (s : State) (n : Nat) (c : EngCmd) : List Nat := s.collLine c.launch n (collDim c.w2)
/-- The root's node. -/
def State.cmdRoot (s : State) (n : Nat) (c : EngCmd) : Nat := (s.cmdLine n c).getD (collRoot c.w2) n
def EngCmd.bytes (c : EngCmd) : Nat := c.len * collSize (collType c.w2)
/-- Pieces of at most 64 bytes, in which contributions and results travel. -/
def EngCmd.pieces (c : EngCmd) : Nat := (c.bytes + 63) / 64
def EngCmd.pieceLen (c : EngCmd) (j : Nat) : Nat := min 64 (c.bytes - 64 * j)
/-- What participants should agree on (R247): every field of the second word but SCOPE and RES, and the count. -/
def EngCmd.terms (c : EngCmd) : Word := ((c.w2 &&& 0x1fffff8) ++ BitVec.ofNat 32 c.len)

/-- One element combined with another (R247). -/
def collComb (op ty a b : Nat) : Nat :=
  let n := 8 * collSize ty
  let sg := fun v : Nat => (BitVec.ofNat n v).toInt
  if 2 ≤ ty then
    match op with
    | 0 => (a + b) % 2 ^ n
    | 1 => if sg a < sg b then b else a
    | _ => if sg b < sg a then b else a
  else
    let F := if ty = 0 then binary32 else bfloat16
    match op with
    | 0 => (F.deliver true 0 0 (opAdd 0 (F.value true true a) (F.value true true b)).v).bits
    | _ => (F.deliver false 0 0 (opPick (op == 1) (F.value true false a) (F.value true false b)).v).bits
/-- An exact partial sum as data: the number's units and exponent; with no units, which of the values +0, +∞, -∞, NaN, -0 it is. -/
def packSum : Val → Int × Int
  | .num x => if x.m = 0 then (0, if x.neg then 4 else 0) else ((if x.neg then -(x.m : Int) else x.m), x.e)
  | .inf s => (0, if s then 2 else 1)
  | .nan _ => (0, 3)
def openSum (p : Int × Int) : Val :=
  if p.1 ≠ 0 then .num (Ex.ofUnits p.1 p.2)
  else
    match p.2 with
    | 1 => .inf false
    | 2 => .inf true
    | 3 => .nan false
    | 4 => .num { neg := true }
    | _ => .num {}
/-- A SUM of bfloat16 is held exactly. -/
def EngCmd.exact (c : EngCmd) : Bool := decide (collMode c.w2 < 2) && decide (collOp c.w2 = 0) && decide (collType c.w2 = 1)
/-- Elements of bytes. -/
def elemsOf (sz : Nat) (bs : List Byte) : List Nat := (chunks sz bs).map leNat
def bytesOfElems (sz : Nat) (es : List Nat) : List Byte := es.flatMap (natBytes sz)
/-- Bytes that the spec leaves unspecified, drawn afresh. -/
def State.drawBytes (s : State) (len : Nat) : State × List Byte :=
  let ws := (List.range 8).map fun i => Config.freeWord (s.draws + i)
  ({ s with draws := s.draws + 8 }, (wordBytes ws).take len)

/-- The parts of piece `j` of a command's xdst, one a line: physical address, virtual address, place in the piece, length. -/
def State.pieceAt (s : State) (n : Nat) (c : EngCmd) (j : Nat) : Except Fail (List (Nat × Word × Nat × Nat)) :=
  s.partAddrs n c.ctx spaceBank (lineParts (c.dst + BitVec.ofNat 64 (64 * j)) 0 (c.pieceLen j) 2)
/-- The lines of some pieces of a command's xdst, in increasing order, as far as they translate. -/
def State.pieceLines (s : State) (n : Nat) (c : EngCmd) (js : List Nat) : List Nat :=
  ((js.flatMap fun j =>
    match s.pieceAt n c j with
    | .ok ps => ps.map fun p => lineOf p.1
    | .error _ => []).mergeSort fun a b => decide (a ≤ b)).eraseDups
/-- The keys under which a command, or a message that reached its engine, claims lines of xdst (R213). -/
def cmdOwner (id : Nat) : Nat := 32 + 2 * id
def msgOwner (id : Nat) : Nat := 33 + 2 * id
/-- Writes pieces of xdst once their turn at every line has come (R213); until then nothing but the claims has changed. -/
def State.withPieces (s : State) (n : Nat) (c : EngCmd) (owner : Nat) (js : List Nat) (act : State → State) : State × Bool :=
  match s.claimLines n owner (s.pieceLines n c js) with
  | (s, true) => (act (s.unclaim n owner), true)
  | (s, false) => (s, false)
/-- Writes piece `j` of a command's xdst; a fault stops the command. -/
def State.putPiece (s : State) (n : Nat) (c : EngCmd) (j : Nat) (bs : List Byte) : State :=
  match s.pieceAt n c j with
  | .error f => s.faultCmd n c.id f
  | .ok ps => ps.foldl (fun s p => s.bankWrite none p.1 ((bs.drop p.2.2.1).take p.2.2.2)) s
/-- Reads piece `j` at an address of a command. -/
def State.getPiece (s : State) (n : Nat) (c : EngCmd) (base : Word) (j : Nat) : Except Fail (List Byte) :=
  match s.readLines n c.ctx spaceBank (base + BitVec.ofNat 64 (64 * j)) (c.pieceLen j) 2 with
  | .error f => .error f
  | .ok (_, bs) => .ok bs
/-- Sends a piece as a RED message of a kind; the engine counts it until it is performed. -/
def State.sendPiece (s : State) (n dst : Nat) (c : EngCmd) (kind : BitVec 8) (j : Nat) (bs : List Byte) : State :=
  let id := s.nextId
  (s.modCmd n c.id fun c => { c with lines := c.lines ++ [(id, dst, 0)] }).sendKept n
    { cls := 3, kind := kind, src := n, dst := dst, thr := c.thr, ctx := c.ctx, launch := c.launch, opa := BitVec.ofNat 64 j
      opb := c.terms, payload := flitWords bs } false

/-! ### The root (R247) -/

/-- Results go out to the other participants (MODEs 1 and 2). -/
def State.sendResults (s : State) (n : Nat) (c : EngCmd) : State :=
  ((s.cmdLine n c).filter (· ≠ n)).foldl (fun s k => (List.range c.pieces).foldl (fun s j =>
    match s.getPiece n c c.dst j with
    | .error f => s.faultCmd n c.id f
    | .ok bs => s.sendPiece n k c 1 j bs) s) s
/-- The sum of every contribution, rounded once (R247). -/
def EngCmd.rounded (c : EngCmd) (j : Nat) : List Byte :=
  bytesOfElems 2 (((c.acc.drop (32 * j)).take 32).map fun p => (bfloat16.deliver true 0 0 (openSum p)).bits)
/-- The root has combined every piece: an exact sum is rounded and written, results go out. -/
def State.rootStep (s : State) (n : Nat) (c : EngCmd) : State :=
  if !c.begun || c.sent || c.stopped || decide (s.cmdRoot n c ≠ n) || decide (c.pos < c.target) then s
  else
    let js := List.range c.pieces
    let done := fun s : State =>
      let s := s.modCmd n c.id fun c => { c with sent := true }
      if collMode c.w2 = 0 then s else s.sendResults n c
    if c.exact then (s.withPieces n c (cmdOwner c.id) js fun s => done (js.foldl (fun s j => s.putPiece n c j (c.rounded j)) s)).1
    else done s

/-- A piece combined into xdst, as bytes: where the participants do not agree they are unspecified. -/
def State.combined (s : State) (n : Nat) (c : EngCmd) (m : Msg) : Except Fail (State × List Byte) :=
  let j := m.opa.toNat
  let sz := collSize (collType c.w2)
  if m.opb ≠ c.terms then .ok (s.drawBytes (c.pieceLen j))
  else
    match s.getPiece n c c.dst j with
    | .error f => .error f
    | .ok old =>
      let es := ((elemsOf sz old).zip (elemsOf sz ((wordBytes m.payload).take (c.pieceLen j)))).map fun p =>
        collComb (collOp c.w2) (collType c.w2) p.1 p.2
      .ok (s, bytesOfElems sz es)
/-- The exact sums after a contribution. -/
def EngCmd.addExact (c : EngCmd) (m : Msg) : List (Int × Int) :=
  let k := 32 * m.opa.toNat
  let add := fun p : (Int × Int) × Nat => packSum (opAdd 0 (openSum p.1) (bfloat16.value true true p.2)).v
  let mid := (((c.acc.drop k).take 32).zip (elemsOf 2 ((wordBytes m.payload).take (c.pieceLen m.opa.toNat)))).map add
  c.acc.take k ++ mid ++ c.acc.drop (k + mid.length)
/-- A contribution counts, and its sender hears that it is performed. -/
def State.counted (s : State) (n : Nat) (c : EngCmd) (m : Msg) (f : EngCmd → EngCmd) : State :=
  (s.modCmd n c.id fun x => { f x with pos := x.pos + 1, got := m.src :: x.got }).ack m
/-- Combines a contribution's piece at the root's bank, once its turn has come. -/
def State.combine (s : State) (n : Nat) (c : EngCmd) (m : Msg) : State × Bool :=
  let j := m.opa.toNat
  if c.pieces ≤ j then (s.counted n c m id, true)
  else if c.exact ∧ m.opb = c.terms then (s.counted n c m fun x => { x with acc := x.addExact m }, true)
  else
    s.withPieces n c (msgOwner m.id) [j] fun s =>
      match s.combined n c m with
      | .error f => (s.faultCmd n c.id f).counted n c m id
      | .ok (s, bs) => (s.putPiece n c j bs).counted n c m id

/-- The root's command that a contribution belongs to (R247): context, line and TAG, and not more pieces than the participant has. -/
def State.rootFor (s : State) (m : Msg) : Option EngCmd :=
  (s.cell m.dst).mem.engines.find? fun c =>
    c.isColl && c.begun && !c.stopped && !c.sent && decide (c.ctx = m.ctx) && decide (c.tag = bitsOf m.opb.toNat 49 8)
      && decide (s.cmdRoot m.dst c = m.dst) && (s.cmdLine m.dst c).contains m.src && decide (c.got.count m.src < c.pieces)
/-- The participant's command that a result belongs to. -/
def State.partFor (s : State) (m : Msg) : Option EngCmd :=
  (s.cell m.dst).mem.engines.find? fun c =>
    c.isColl && c.begun && !c.stopped && decide (c.ctx = m.ctx) && decide (c.tag = bitsOf m.opb.toNat 49 8)
      && decide (s.cmdRoot m.dst c = m.src) && decide (c.pos < c.pieces)
/-- A result performed in a participant's xdst, once its turn has come. -/
def State.takeResult (s : State) (n : Nat) (c : EngCmd) (m : Msg) : State × Bool :=
  let j := m.opa.toNat
  if c.pieces ≤ j then (s.counted n c m id, true)
  else
    s.withPieces n c (msgOwner m.id) [j] fun s =>
      let r := if m.opb = c.terms then (s, (wordBytes m.payload).take (c.pieceLen j)) else s.drawBytes (c.pieceLen j)
      (r.1.putPiece n c j r.2).counted n c m id
/-- What a RED message does with the command that it belongs to, if that has begun. -/
def State.redFor (s : State) (m : Msg) : Option (State × Bool) :=
  if m.kind = 0 then (s.rootFor m).map fun c => s.combine m.dst c m else (s.partFor m).map fun c => s.takeResult m.dst c m
/-- Takes up what is held and has found its command, in arrival order. -/
def State.takeHeld (s : State) (n : Nat) : List Contrib → State
  | [] => s
  | h :: hs =>
    match s.redFor h.msg with
    | none => State.takeHeld (s.unclaim n (msgOwner h.msg.id)) n hs
    | some (s, done) => State.takeHeld (if done then s.modMem n fun k => { k with held := dropFirst (· == h) k.held } else s) n hs
/-- Contributions that a root's engine holds (R247). -/
def MemSide.heldPlaces (m : MemSide) : Nat := (m.held.filter fun h => h.msg.kind = 0).length
def State.hold (s : State) (m : Msg) : State := s.modMem m.dst fun x => { x with held := x.held ++ [{ msg := m }] }
/-- A RED message at its engine: performed; held where its command has not begun, or waits its turn at a line; a contribution that finds
the 16 holding places full is NACKed as BUSY (R247). -/
def State.takeRed (s : State) (m : Msg) : State :=
  match s.redFor m with
  | some (s, true) => s
  | some (s, false) => s.hold m
  | none => if m.kind = 0 ∧ 16 ≤ (s.cell m.dst).mem.heldPlaces then s.nack m nkBusy else s.hold m
def execMsgContrib (k : Nat) (s : State) : Out := .next (s.taken k 3 0 State.takeRed)
def execMsgResult (k : Nat) (s : State) : Out := .next (s.taken k 3 1 State.takeRed)

/-! ### Start and completion (R247) -/

/-- One piece of a participant's source: written to the root's own xdst, or sent to the root. -/
def State.beginPiece (s : State) (n root : Nat) (c : EngCmd) (j : Nat) : State :=
  match s.engCmd n c.id with
  | none => s
  | some x =>
    if x.stopped then s
    else
      match s.getPiece n c c.src j with
      | .error f => s.faultCmd n c.id f
      | .ok bs =>
        if n = root then
          let s := if c.exact then
              s.modCmd n c.id fun x => { x with acc := x.acc ++ (elemsOf 2 bs).map fun b => packSum (bfloat16.value true true b) }
            else s
          s.putPiece n c j bs
        else s.sendPiece n root c 0 j bs
/-- The start of a collective at its participant: the root waits for its turn at the lines of xdst. -/
def State.beginColl (s : State) (n : Nat) (c : EngCmd) : State :=
  let root := s.cmdRoot n c
  let mode := collMode c.w2
  let target := if n = root ∧ mode < 2 then c.pieces * ((s.cmdLine n c).length - 1) else 0
  let js := List.range c.pieces
  let go := fun s : State =>
    let s := s.modCmd n c.id fun x => { x with begun := true, done := c.len, pos := 0, target := target }
    if n = root ∨ mode < 2 then js.foldl (fun s j => s.beginPiece n root c j) s else s
  if n = root then (s.withPieces n c (cmdOwner c.id) js go).1 else go s

/-- A participant's collective is complete (R247). -/
def State.collDone (s : State) (n : Nat) (c : EngCmd) : Bool :=
  c.isColl && c.begun && !c.stopped && c.lines.isEmpty
    && (if s.cmdRoot n c = n then c.sent else decide (collMode c.w2 = 0) || decide (c.pieces ≤ c.pos))
/-- ENGINE_FAULT (R248): the end of a command that met a fault, whose claims on lines are over. -/
def State.endStopped (s : State) (n id : Nat) : State :=
  match s.engCmd n id with
  | none => s
  | some c =>
    if c.stopped then
      let s := (s.unclaim n (cmdOwner id)).stopCmd n c
      s.takeHeld n (s.cell n).mem.held
    else s
def execEngineFault (node k : Nat) (s : State) : Out := .next (s.endStopped node k)
/-- COLL_COMPLETE (R247): what is held for the engine is taken up, the root's result goes out, and a collective that is complete ends. -/
def State.collStep (s : State) (n id : Nat) : State :=
  let s := s.takeHeld n (s.cell n).mem.held
  let s := (s.engCmd n id).elim s fun c => if c.isColl then s.rootStep n c else s
  match s.engCmd n id with
  | none => s
  | some c => if s.collDone n c then s.finishCmd n c else s
def execCollComplete (node k : Nat) (s : State) : Out := .next (s.collStep node k)

/-! ### The start of a command (R224, R345, R348) -/

/-- A port takes commands: 0 it does, 1 its command stops with STATUS 4, 2 it is held. -/
def State.portGate (s : State) (c : EngCmd) : Nat :=
  match c.port with
  | none => 0
  | some p =>
    let st := (vget s.ports p).st.toNat
    if st = 1 ∨ st = 3 ∨ st = 4 then 2 else if st = 2 ∧ (vget s.ports p).gen = c.gen then 0 else 1
/-- An engine's command begins, and a copy that has begun takes its next step. -/
def State.beginCmd (s : State) (n id : Nat) : State :=
  match s.engCmd n id with
  | none => s
  | some c =>
    if c.stopped || c.held || !s.engineRuns n then s
    else if c.begun then (if c.isColl then s else s.copyStep n c)
    else
      match s.portGate c with
      | 0 => if c.isColl then s.beginColl n c else s.modCmd n id fun c => { c with begun := true }
      | 1 => s.modCmd n id fun c => c.stop 4 c.dst
      | _ => s
/-- ENGINE_COMMAND_BEGIN (R224): the release condition held when the command's slot was injected. For a copy that has begun it is the next
line read or line write (R225; log 112). -/
def execEngineCommandBegin (node k : Nat) (s : State) : Out := .next (s.beginCmd node k)

end Sys2Proof.Machine
end

