-- ==== Sys2Proof/Machine/Optical.lean ====
section
/-! DEFINITION. The optical ports: LINKMAP's phases (R347, R348), parking and waking wavelengths (R349, R351, R361), and what a peer's
frames bring (R345, R350). -/

namespace Sys2Proof.Machine

/-! ### LINKMAP (R347, R348) -/

/-- A port's record in the packed records of bytes 16 to 47. -/
def linkRec (recs n : Nat) : Nat := bitsOf recs (32 * n) 32
def recMask (r : Nat) : BitVec 8 := BitVec.ofNat 8 (bitsOf r 16 8)
def recMinw (r : Nat) : BitVec 3 := BitVec.ofNat 3 (bitsOf r 24 3)
def recPeer (r : Nat) : BitVec 12 := BitVec.ofNat 12 r
def recPort (r : Nat) : BitVec 3 := BitVec.ofNat 3 (bitsOf r 12 3)
/-- A record that breaks R347; MINW is held against the wavelengths that are to be lit, if any. -/
def recBad (r : Nat) : Bool :=
  decide (bitsOf r 27 5 ≠ 0) || r.testBit 15 || (decide (recMask r ≠ 0) && decide (ones8 (recMask r) < minWaves (recMinw r)))
def State.setPending (s : State) (p : Pending) : State := { s with cox := { s.cox with pending := p } }

/-- Phase 1 (R348). -/
def State.linkHold (s : State) (tag mask recs : Nat) : State := (s.portHold mask).setPending (.linkmap tag mask recs 1)
/-- The command on its own fields (R347). -/
def State.linkmap (s : State) (c : Cmd) : State :=
  let mask := fieldAt c.bytes 48 1
  let recs := fieldAt c.bytes 16 32
  let e := vget (s.ctxEnt c.ctx).words 0
  let owned := decide (mask &&& ctxPorts e = mask)
  if mask = 0 ∨ !zeroAt c.bytes 49 15 ∨ (maskPorts mask).any (fun n => recBad (linkRec recs n)) then s.complete c.tag stBad
  else if !owned && !s.priv c.ctx then s.complete c.tag stProt
  else s.linkHold c.tag mask recs
/-- CMD_LINKMAP. -/
def execCmdLinkmap (s : State) : Out := .next (s.takeCmd .linkmap State.linkmap)

/-- Phase 3 at a port (R348): nothing is parked, and what the old peer is still owed is over. -/
def Port.retune (p : Port) (r : Nat) : Port :=
  { p.down with st := 4, gen := p.gen + 1, wlit := recMask r, parked := 0, park := 0, minw := recMinw r }
/-- LINKMAP_DRAIN_END: the ports have drained, or the 10 ms are over and running commands stop with STATUS 4; phase 3 begins. -/
def execLinkmapDrainEnd (timeout : Bool) (s : State) : Out :=
  match s.cox.pending with
  | .linkmap tag mask recs 1 =>
    if !timeout && s.portBusy mask then .next s
    else .next (((s.portStop mask).modPorts (maskPorts mask) fun n p => p.retune (linkRec recs n)).setPending (.linkmap tag mask recs 3))
  | _ => .next s

/-- Phase 5: held commands never begin and stop with STATUS 4; the command completes. -/
def State.linkResume (s : State) (tag mask : Nat) : State := (s.portRelease mask).complete tag stOk
/-- Phase 5 begins once no port of the command trains. -/
def State.linkSettled (s : State) (tag mask : Nat) : State :=
  if (maskPorts mask).any fun n => decide ((vget s.ports n).st = 1) then s else s.linkResume tag mask
/-- LINKMAP_RETUNE_END: phase 4 begins; a port with no wavelength is DOWN at once, and so is one that no context owns (R344; log 113). -/
def execLinkmapRetuneEnd (s : State) : Out :=
  match s.cox.pending with
  | .linkmap tag mask recs 3 =>
    let s := s.modPorts (maskPorts mask) fun n p => { p with st := if p.wlit = 0 ∨ (s.portOwner n).isNone then 0 else 1 }
    .next ((s.setPending (.linkmap tag mask recs 4)).linkSettled tag mask)
  | _ => .next s
/-- LINKMAP_TRAIN_END: UP where module id and port match, MISMATCH where they differ, FAILED where training does not end. -/
def execLinkmapTrainEnd (port : Nat) (trained : Bool) (peer : BitVec 12) (peerPort : BitVec 3) (s : State) : Out :=
  match s.cox.pending with
  | .linkmap tag mask recs 4 =>
    if !mask.testBit port ∨ (vget s.ports port).st ≠ 1 then .next s
    else
      let r := linkRec recs port
      let up := trained && decide (peer = recPeer r) && decide (peerPort = recPort r)
      let done := fun p : Port =>
        let p := { p with st := if up then 2 else if trained then 5 else 6, lanes := if up then p.wlit else 0
                          txSeq := 0, flitNo := 0, flit0 := 0, rxSeq := 0 }
        if trained then { p with peer := peer, peerPort := peerPort } else p
      .next ((s.modPort port done).linkSettled tag mask)
  | _ => .next s

/-! ### Parking and waking (R349, R351, R361) -/

/-- WAVELENGTH_PARK: a request for PARK at a port, under the field's rules. -/
def execWavelengthPark (port : Nat) (park : BitVec 8) (s : State) : Out :=
  .next (s.modPort port fun p => p.writePark park s.parkDue).drawn
/-- AUTOMATIC_WAKE: where a rise of the queue has called for it (R361), and no park waits for its flit boundary (R351), PARK becomes 0 and
the parked wavelengths wake. -/
def Port.autoWake (p : Port) : Port :=
  if !p.call ∨ p.narrow.isSome then p
  else if p.wake ∨ p.parked = 0 then { p with call := false }
  else { p.applyPark 0 0 with park := 0, call := false }
def execAutomaticWake (port : Nat) (s : State) : Out := .next (s.modPort port Port.autoWake)
/-- WAKE_COMPLETE: the stripe widens at the next flit; a park that waited for the wake is applied. -/
def Port.wakeDone (p : Port) (due : Nat) : Port :=
  if !p.wake then p
  else
    let p := { p with wake := false, flit0 := p.flitNo, lanes := (p.wlit &&& ~~~p.parked) ||| if p.narrow.isSome then p.lanes else 0 }
    match p.parkReq with
    | some v => { p.applyPark v due with parkReq := none }
    | none => p
def execWakeComplete (port : Nat) (s : State) : Out := .next (s.modPort port fun p => p.wakeDone s.parkDue).drawn

/-! ### Frames from the peer (R345, R350) -/

/-- The message of a header flit (R254). -/
def Msg.ofHeader (ws : List Word) : Msg :=
  let v := leNat (wordBytes ws)
  let node := fun lo ch : Nat => bitsOf v lo 11 + if v.testBit ch then Config.cells else 0
  { cls := BitVec.ofNat 3 v, rsv := BitVec.ofNat 4 (bitsOf v 3 4), kind := BitVec.ofNat 8 (bitsOf v 8 8), aux := BitVec.ofNat 6 (bitsOf v 16 6)
    thr := bitsOf v 30 4, ctx := bitsOf v 34 6, src := node 40 22, dst := node 51 7, opa := BitVec.ofNat 64 (bitsOf v 112 64)
    opb := BitVec.ofNat 64 (bitsOf v 176 64), seq := BitVec.ofNat 16 (bitsOf v 240 16) }
/-- Payload flits that a header flit announces (R254). -/
def headerFlits (ws : List Word) : Nat := bitsOf (leNat (wordBytes ws)) 23 7
/-- The header flit that answers a message of the peer: ACK, or NACK with the STATUS of its fault in OPB (R345; log 114). -/
def Msg.reply (m : Msg) (status : Nat) : List Word :=
  ({ cls := 1, kind := if status = 0 then 1 else 3, src := m.dst, dst := m.src, thr := m.thr, ctx := m.ctx, opa := m.opa
     opb := BitVec.ofNat 64 status, seq := m.seq } : Msg).header 0

/-- A line of a peer's message performed at its home (R208, R226): a bank's answer is waited for. -/
def State.peerWrite (s : State) (p ctx pa : Nat) (va : Word) (bs : List Byte) : State × List Nat :=
  match homeOf pa with
  | some (h, o) =>
    (s.sendKept (portNode p) { cls := 2, src := portNode p, dst := h, ctx := ctx, launch := (s.ctxLaunch ctx).getD 0, opa := BitVec.ofNat 64 o
                               opb := BitVec.ofNat 64 bs.length, bytes := bs.length, payload := flitWords bs, va := some va } false, [s.nextId])
  | none => ((s.loftAccess pa true).bankWrite none pa bs, [])
/-- A LINE of the peer (R345): the sill's walkers translate its offset in the context that owns the port, and it is performed, or its fault
is answered. -/
def State.peerLine (s : State) (p : Nat) (m : Msg) (bs : List Byte) : State :=
  let answer := fun (s : State) (status : Nat) => s.modPort p fun q => q.push [m.reply status]
  match s.portOwner p with
  | none => answer s 3
  | some ctx =>
    let len := min m.opb.toNat bs.length
    match s.partAddrs (portNode p) ctx (spaceCopySrc true) (lineParts m.opa 0 len (len / 64 + 2)) with
    | .error f => answer s (if statusOf f.cause = 2 then 2 else 3)
    | .ok parts =>
      let r := parts.foldl (fun (acc : State × List Nat) x =>
        let r := acc.1.peerWrite p ctx x.1 x.2.1 ((bs.drop x.2.2.1).take x.2.2.2)
        (r.1, acc.2 ++ r.2)) (s, [])
      if r.2.isEmpty then answer r.1 0 else r.1.modPort p fun q => { q with owed := q.owed ++ [{ ids := r.2, reply := m.reply 0 }] }
/-- The peer's answer to a message of this device (R345). -/
def State.peerAnswer (s : State) (p : Nat) (m : Msg) : State :=
  match (vget s.ports p).away.find? fun x => decide (x.src = m.dst) && decide (x.seq = m.seq) with
  | none => s
  | some x =>
    let s := s.modPort p fun q => { q with away := dropFirst (· == x) q.away }
    if m.kind = 1 then s.ack x else s.answer x 3 (peerFault (if m.opb = 2 then 2 else 3)) 0 []
/-- A message of the peer whose flits are complete. -/
def State.fromPeer (s : State) (p : Nat) (flits : List (List Word)) : State :=
  let m := Msg.ofHeader (flits.headD [])
  if m.malformed then s
  else if m.cls = 2 then s.peerLine p m (wordBytes (flits.drop 1).flatten)
  else if m.cls = 1 ∧ (m.kind = 1 ∨ m.kind = 3) then s.peerAnswer p m
  else s

/-- The peer has everything before a frame number; where it asks for a replay, what it has not is sent again, on the stripe in force. -/
def Port.heardTo (p : Port) (ack : BitVec 24) (resend : Bool) : Port :=
  let k := p.unacked.headD { seq := ack, lane := 0, flit := [] }
  let n := (ack - k.seq).toNat
  let left := if n ≤ p.unacked.length then p.unacked.drop n else p.unacked
  { p with unacked := if resend then left.zipIdx.map fun f => { f.1 with lane := p.laneFor (p.flitNo - left.length + f.2) } else left }
/-- The frame that comes next is delivered; any other is replayed by its sender, as is every frame while the port retunes (R348, R350). A
frame without a flit carries control alone. -/
def Port.receive (p : Port) (seq : BitVec 24) (flit : List Word) : Port :=
  if (p.st = 2 ∨ p.st = 3) ∧ seq = p.rxSeq ∧ flit ≠ [] then { p with rxSeq := p.rxSeq + 1, rxFlits := p.rxFlits ++ [flit] } else p
/-- The message that the received flits make up. -/
def Port.complete (p : Port) : Bool :=
  match p.rxFlits with
  | [] => false
  | h :: fs => decide (headerFlits h ≤ fs.length)
/-- OPTICAL_FRAME (R350): a frame whose CRC fails is discarded. -/
def execOpticalFrame (port : Nat) (frame : OptFrame) (crcOk : Bool) (s : State) : Out :=
  if !crcOk ∨ 8 ≤ port then .next s
  else
    let s := s.modPort port fun p => (p.heardTo frame.ack frame.resend).receive frame.seq frame.flit
    let p := vget s.ports port
    .next (if p.complete then (s.modPort port fun q => { q with rxFlits := [] }).fromPeer port p.rxFlits else s)

end Sys2Proof.Machine
end

