-- ==== Sys2Proof/Machine/Power.lean ====
section
/-! DEFINITION. Operating points, the ceiling and the boost window (R311 to R314), retention (R315), thermal migration (R319 to R321),
ballast (R322 to R324), and the supply events of OC_CAUSE (R325, R326). -/

namespace Sys2Proof.Machine

/-! ### The bits of OC_CAUSE (R325) -/

def ocOc : Nat := 0
def ocUv : Nat := 1
def ocOv : Nat := 2
def ocBoost : Nat := 3
def ocSlope : Nat := 4
def ocCool : Nat := 5
def ocTherm : Nat := 6
def ocLost : Nat := 7
/-- An event sets its bit. -/
def State.raise (s : State) (k : Nat) : State := s.setCause (s.power.ocCause ||| (1#8 <<< k))
def State.modPower (s : State) (f : DevPower → DevPower) : State := { s with power := f s.power }
/-- A condition of the supply that stands until it has been absent for 1 ms (R326). -/
def State.appear (s : State) (k : Nat) : State := (s.modPower fun p => { p with present := p.present ||| (1#8 <<< k) }).raise k

/-! ### Migration targets (R319) -/

/-- Every sample of the last millisecond was above 100 °C. -/
def State.hotLong (s : State) (n : Nat) : Bool := (s.cell n).power.hotSince.any fun t => decide (t + 2000000 ≤ s.fab)
/-- The cell that would take the coordinate: of its column, without a coordinate, not fenced, cool, the nearest. -/
def State.targetFor (s : State) (lid : Nat) : Option Nat :=
  let p := s.physOf lid
  let held := (List.range 16).map fun y => s.physOf (cellId (xOf lid) y (zOf lid))
  let py := p % 272 / 16
  let order := (List.range 17).flatMap fun k => (List.range 17).filter fun y => max y py - min y py = k
  (order.map fun y => physIndex (p % 16) y (p / 272)).find? fun q =>
    !held.contains q && !s.reserved.contains q && !(s.physEnt q).fenced && decide ((s.physEnt q).temp < 80) && decide ((s.physEnt q).oldLid ≠ some lid)
/-- Migration applies to the cell: it is hot, it may move, and nobody accuses it. -/
def State.wantsMove (s : State) (n : Nat) : Bool :=
  s.power.pmCtl.getLsbD 1 && s.hotLong n && (s.cell n).power.mig.isNone && decide (lptState (s.lptEntry 0 n) = 0)
    && (List.range 6).all fun d => decide ((s.vote (neighbour n d) (backDir d)).acc = 0)
/-- The cell waits for a migration target. -/
def State.awaitsTarget (s : State) (n : Nat) : Bool := s.wantsMove n && (s.targetFor n).isNone

/-! ### Ceiling and operating point (R311, R312, R314) -/

/-- The ceiling of a cell (R311). -/
def State.ceiling (s : State) (n : Nat) : BitVec 3 :=
  let p := (s.cell n).power
  let c : Nat := if !s.power.pmCtl.getLsbD 0 ∨ s.power.ocCause ≠ 0 ∨ s.power.recovery then 4 else 7
  let c := min c s.power.limit.toNat
  let c := if s.power.present &&& 7 ≠ 0 then 0 else c
  let c := if p.hot then 0 else c
  BitVec.ofNat 3 (if 100 < p.temp ∧ s.awaitsTarget n then min c 4 else c)
/-- The power manager's round of one cell. -/
def State.setCeiling (s : State) (n : Nat) : State :=
  let v := s.ceiling n
  if (s.cell n).power.ceil = v then s else s.modCell n fun c => c.modPower fun p => { p with ceil := v }
/-- CEILING_UPDATE: once per microsecond, with the average of device power over it (R318), a measurement and here a free value (log 95);
inside a window one above 4,600 W sets BOOSTW (R312). -/
def execCeilingUpdate (s : State) : Out :=
  let s := (s.modPower fun p => { p with watts := s.free.setWidth 13 }).drawn
  let s := if s.power.bwin ∧ 4600 < s.power.watts.toNat then s.raise ocBoost else s
  .next ((List.range Config.cells).foldl State.setCeiling s)
/-- LIMIT_STEP: the 10 ms average is measured; outside a window LIMIT moves one step. -/
def DevPower.limitStep (p : DevPower) (w : BitVec 13) : DevPower :=
  let p := { p with watts10 := w }
  if p.bwin then p
  else if 4000 < w.toNat then { p with limit := if p.limit = 0 then 0 else p.limit - 1 }
  else if w.toNat < 3900 then { p with limit := if p.limit = 7 then 7 else p.limit + 1 }
  else p
def execLimitStep (watts10 : BitVec 13) (s : State) : Out := .next (s.modPower fun p => p.limitStep watts10)
/-- BOOST_WINDOW_EXPIRY: a window that has been open for 10 ms closes by force, and the boost recovery begins. -/
def execBoostWindowExpiry (s : State) : Out :=
  .next (if s.power.bwin ∧ s.power.bwinAt + tenMs ≤ s.fab then
      s.modPower fun p => { p with bwin := false, recovery := true, recAt := s.fab }
    else s)
/-- BOOST_RECOVERY_END: after 10 ms. -/
def execBoostRecoveryEnd (s : State) : Out :=
  .next (if s.power.recovery ∧ s.power.recAt + tenMs ≤ s.fab then s.modPower fun p => { p with recovery := false } else s)

/-- The maximum of the four cores' requests. -/
def Cell.request (c : Cell) : BitVec 3 := c.cores.toList.foldl (fun a k => if a < k.req then k.req else a) 0
/-- One change of the operating point: one step up, or down at once (R314). -/
def Cell.nextOp (c : Cell) : BitVec 3 :=
  let t := if c.request < c.power.ceil then c.request else c.power.ceil
  if c.power.op < t then c.power.op + 1 else t
/-- OP_STEP; a window is open while some cell runs above OP_4 and no recovery runs (R312). -/
def State.opStep (s : State) (n : Nat) : State :=
  let s := s.modCell n fun c => c.modPower fun p => { p with op := c.nextOp }
  let above := s.cells.any fun q => !isChan q.1 && decide (4 < q.2.power.op)
  s.modPower fun p => { p with bwin := !p.recovery && above, bwinAt := if p.bwin then p.bwinAt else s.fab }
def execOpStep (node : Nat) (s : State) : Out := .next (if node < Config.cells then s.opStep node else s)

/-! ### Temperature (R313, R319) -/

/-- A sample at a cell. -/
def CellPower.sample (p : CellPower) (t : BitVec 8) (fab : Nat) : CellPower :=
  { p with temp := t
           hot := if 103 ≤ t then true else if t < 98 then false else p.hot
           hotSince := if 100 < t then some (p.hotSince.getD fab) else none }
/-- TEMPERATURE_SAMPLE: at a logical cell, or at a physical cell without a coordinate (log 18). -/
def State.sampleAt (s : State) (n : Nat) (t : BitVec 8) : State :=
  if n < Config.cells then
    let s := (s.modCell n fun c => c.modPower fun p => p.sample t s.fab).modPhys (s.physOf n) fun e => { e with temp := t }
    if 105 ≤ t then s.raise ocTherm else s
  else if 8192 ≤ n then
    let s := s.modPhys (physOfNode n) fun e => { e with temp := t }
    if 105 ≤ t then s.raise ocTherm else s
  else s
def execTemperatureSample (node : Nat) (temp : BitVec 8) (s : State) : Out := .next (s.sampleAt node temp)

/-! ### Retention (R315) -/

/-- The cell is in the state that leads to retention. -/
def Cell.idle (c : Cell) : Bool :=
  c.threads.all (fun p => decide (p.2.run.st = .free) || decide (p.2.run.st = .parked)) && c.sched.fired.isEmpty
    && c.sched.ready.all (fun b => b.isEmpty) && c.cores.all fun k => k.wuq.isEmpty
/-- The fabric cycle since which the cell is in that state. -/
def Cell.idleFrom (c : Cell) : Nat := c.threads.foldl (fun a p => max a p.2.run.freeAt) c.power.busyAt
/-- RETENTION_ENTRY: after RET_IDLE × 256 fabric cycles in that state. -/
def State.retain (s : State) (n : Nat) : State :=
  let c := s.cell n
  let k := bitsOf s.power.pmCtl.toNat 8 16
  if k ≠ 0 ∧ c.idle ∧ !c.net.frozen ∧ c.power.mig.isNone ∧ c.idleFrom + 256 * k ≤ s.fab then
    s.modCell n fun c => c.modPower fun p => { p with ret := true }
  else s
def execRetentionEntry (node : Nat) (s : State) : Out := .next (if node < Config.cells then s.retain node else s)
/-- A message that a bank must perform (R315): a request, an engine's line, a result, a fault packet for the ring. Strokes, answers and votes
are the fabric die's. -/
def Msg.needsBank (m : Msg) : Bool :=
  decide (m.cls = 0) || decide (m.cls = 2) || (decide (m.cls = 3) && decide (m.kind = 1)) || (decide (m.cls = 5) && decide (m.kind = 0x20))
/-- RETENTION_WAKE: something fired, or a message is there that a bank must perform; a debug read raises the cell in its own step. -/
def execRetentionWake (node : Nat) (s : State) : Out :=
  let c := s.cell node
  .next (if !c.sched.fired.isEmpty || !c.mem.pending.isEmpty || s.net.any (fun m => decide (m.dst = node) && m.needsBank) then s.wake node
    else s)

/-! ### Thermal migration (R319 to R321) -/

/-- MIGRATION_START: select and begin phase 2; the budgets stop. -/
def State.migStart (s : State) (n : Nat) : State :=
  match s.targetFor n with
  | none => s
  | some q =>
    if !s.wantsMove n then s
    else
      let src := s.physOf n
      let s := s.setLpt n (lptWord src 1)
      let s := s.modCell n fun c => { c with threads := c.threads.map fun p => (p.1, p.2.charge (vget c.cores (coreIx n p.1)).now) }
      s.setMig n (some { began := s.fab, source := src, target := q, phase := 2, drain := (s.cell n).mem.writeIds })
def execMigrationStart (node : Nat) (s : State) : Out := .next (if node < Config.cells then s.migStart node else s)
/-- MIGRATION_COPY: the wide unit holds no started instruction and the banks no pending request; the L1Ds are emptied. -/
def State.migCopy (s : State) (n : Nat) : State :=
  let c := s.cell n
  match c.power.mig with
  | some m =>
    let busy := (c.cores.any fun k => k.wuq.any fun e => decide (e.st = .started)) || !c.mem.pending.isEmpty
    if m.phase ≠ 2 ∨ busy then s
    else
      let s := s.modCell n fun c => { c with cores := c.cores.map fun k => { k with l1d := [] } }
      s.setMig n (some { m with phase := 3 })
  | none => s
def execMigrationCopy (node : Nat) (s : State) : Out := .next (s.migCopy node)
/-- MIGRATION_SWITCH: the target stands at the coordinate, still MOVING; then the pause ends, and budgets and barrier timers go on where they
stood. A target that has been fenced meanwhile is given up, and the cell goes on at its old position (R321). -/
def State.migSwitch (s : State) (n : Nat) : State :=
  match (s.cell n).power.mig with
  | some m =>
    if m.phase = 3 then
      (if (s.physEnt m.target).fenced then ((s.setLpt n (lptWord m.source 0)).endPause n m).setMig n none
       else (s.setLpt n (lptWord m.target 1)).setMig n (some { m with phase := 4 }))
    else if m.phase = 4 then
      let t := (s.physEnt m.target).temp
      let s := (s.endPause n m).modCell n fun c => c.modPower fun p => { p with temp := t, hot := false, hotSince := none }
      s.setMig n (some { m with phase := 5 })
    else s
  | none => s
def execMigrationSwitch (node : Nat) (s : State) : Out := .next (s.migSwitch node)
/-- MIGRATION_DRAIN: the writes that the forward buffer held are performed and acknowledged; STATE becomes NORMAL. -/
def State.migDrain (s : State) (n : Nat) : State :=
  match (s.cell n).power.mig with
  | some m =>
    if m.phase ≠ 5 ∨ (s.cell n).mem.fwd.any (fun e => m.drain.contains e.msg.id) then s
    else (s.setLpt n (lptWord m.target 0)).setMig n none
  | none => s
def execMigrationDrain (node : Nat) (s : State) : Out := .next (s.migDrain node)

/-! ### Ballast (R322 to R324) -/

/-- Full rate of starts per window at an operating point (R18's clocks, R323). -/
def fullRate (op : BitVec 3) : Nat := [40, 50, 60, 70, 80, 85, 92, 100].getD op.toNat 80
/-- What the matrix array's start limit is for the next window (R323). -/
def Wide.nextLimit (w : Wide) (op : BitVec 3) : Option Nat :=
  let more := (fullRate op + 19) / 20
  match w.limit with
  | some l => if w.starts < l then none else some (w.starts + more)
  | none => if 2 * w.lastWin + 16 < w.starts then some (w.lastWin + more) else none
/-- What the sequencer's target is for the next window (R322): the fade is restarted, goes on, or is over. -/
def Wide.closeWindow (w : Wide) (op : BitVec 3) (on : Bool) : Wide :=
  let fell := decide (16 ≤ w.lastWin) && decide (2 * w.starts < w.lastWin)
  let peak := if fell then (if w.fade = 0 then w.lastWin else w.starts + w.ballasts) else w.peak
  let fade := if fell then 20 else w.fade - 1
  { w with limit := w.nextLimit op, lastWin := w.starts, starts := 0, ballasts := 0
           peak := if on then peak else 0, fade := if on then fade else 0, target := if on then peak * fade / 20 else 0 }
/-- BALLAST_WINDOW: a window of 200 fabric cycles closes. -/
def execBallastWindow (node : Nat) (s : State) : Out :=
  let on := s.power.pmCtl.getLsbD 2
  .next (if node < Config.cells then s.modCell node fun c => c.modWide fun w => w.closeWindow c.power.op on else s)
/-- BALLAST_START: an issue cycle in which no queue head is ready, while starts are missing to the target. -/
def execBallastStart (node : Nat) (s : State) : Out :=
  let c := s.cell node
  .next (if s.power.pmCtl.getLsbD 2 && c.winner.isNone && decide (c.wide.starts + c.wide.ballasts < c.wide.target) then
      s.modWide node fun w => { w with ballasts := w.ballasts + 1 }
    else s)

/-! ### Supply, coolant and slope (R325, R326) -/

def execOverCurrent (s : State) : Out := .next (s.appear ocOc)
def execOverVoltage (s : State) : Out := .next (s.appear ocOv)
def execUnderVoltage (s : State) : Out := .next (s.appear ocUv)
/-- SUPPLY_RECOVERY: a condition has been absent for 1 ms; its bit in OC_CAUSE stands until it is cleared. -/
def execSupplyRecovery (cond : Nat) (s : State) : Out :=
  .next (if cond < 3 then s.modPower fun p => { p with present := p.present &&& ~~~(1#8 <<< cond) } else s)
/-- COOLANT_FAULT: inlet in °C and flow in 0.1 L/min, as they have been for 100 ms. -/
def execCoolantFault (inlet : BitVec 8) (flow : BitVec 8) (s : State) : Out :=
  let out := decide (32 < inlet.toNat) || decide (flow.toNat < 65)
  let s := s.modPower fun p => { p with inlet := inlet, flow := flow, warm := out }
  .next (if out then s.raise ocCool else s)
def execSlopeBreach (s : State) : Out := .next (s.raise ocSlope)
/-- STANDBY_DOMAIN_POWER_LOSS: OC_CAUSE is unknown until the next power-up sets LOST. -/
def execStandbyDomainPowerLoss (s : State) : Out :=
  .next ((s.drawn.setCause (s.free.setWidth 8)).modPower fun p => { p with standbyLost := true })

end Sys2Proof.Machine
end

