-- ==== Sys2Proof/Machine/Crypto.lean ====
section
/-! DEFINITION. The algorithms that R353 and R354 name and do not print: SHAKE256 as FIPS 202 gives it, and pure Ed448 as RFC 8032 does
(log 118). -/

namespace Sys2Proof.Machine

/-! ### SHAKE256 -/

/-- The number that bytes hold, lowest first. -/
def bytesNat : List Byte → Nat
  | [] => 0
  | b :: bs => b.toNat + 256 * bytesNat bs
/-- The `n` low bytes of a number, lowest first. -/
def natToBytes : Nat → Nat → List Byte
  | 0, _ => []
  | n + 1, v => BitVec.ofNat 8 v :: natToBytes n (v / 256)

/-- The lane at (x, y) of the permutation's state, coordinates modulo 5. -/
def lane (a : Vector Word 25) (x y : Nat) : Word := a[x % 5 + 5 * (y % 5)]?.getD 0
/-- The rotation of each lane, by x + 5 y. -/
def laneShift : List Nat := [0, 1, 62, 28, 27, 36, 44, 6, 55, 20, 3, 10, 43, 25, 39, 41, 45, 15, 21, 8, 18, 2, 61, 56, 14]
/-- The constants of the 24 rounds. -/
def roundConst : List Word :=
  [0x0000000000000001, 0x0000000000008082, 0x800000000000808A, 0x8000000080008000, 0x000000000000808B, 0x0000000080000001,
   0x8000000080008081, 0x8000000000008009, 0x000000000000008A, 0x0000000000000088, 0x0000000080008009, 0x000000008000000A,
   0x000000008000808B, 0x800000000000008B, 0x8000000000008089, 0x8000000000008003, 0x8000000000008002, 0x8000000000000080,
   0x000000000000800A, 0x800000008000000A, 0x8000000080008081, 0x8000000000008080, 0x0000000080000001, 0x8000000080008008]
/-- One round: theta, rho and pi, chi, iota. -/
def keccakRound (a : Vector Word 25) (rc : Word) : Vector Word 25 :=
  let col : Vector Word 5 := Vector.ofFn fun x => lane a x 0 ^^^ lane a x 1 ^^^ lane a x 2 ^^^ lane a x 3 ^^^ lane a x 4
  let c := fun x : Nat => col[x % 5]?.getD 0
  let a : Vector Word 25 := Vector.ofFn fun i => lane a i (i / 5) ^^^ c (i + 4) ^^^ (c (i + 1)).rotateLeft 1
  let b : Vector Word 25 := Vector.ofFn fun i =>
    let x := (i.val % 5 + 3 * (i.val / 5)) % 5
    let y := i.val % 5
    (lane a x y).rotateLeft (laneShift.getD (x + 5 * y) 0)
  let a : Vector Word 25 := Vector.ofFn fun i =>
    let x := i.val % 5
    let y := i.val / 5
    lane b x y ^^^ (~~~(lane b (x + 1) y) &&& lane b (x + 2) y)
  a.setIfInBounds 0 (lane a 0 0 ^^^ rc)
def keccakF (a : Vector Word 25) : Vector Word 25 := roundConst.foldl keccakRound a
/-- Bytes in one block. -/
def shakeRate : Nat := 136
/-- The message with its padding, a whole number of blocks. -/
def shakePad (m : List Byte) : List Byte :=
  let k := shakeRate - m.length % shakeRate
  if k = 1 then m ++ [0x9F] else m ++ [0x1F] ++ List.replicate (k - 2) 0 ++ [0x80]
/-- Absorbs blocks; the number bounds them. -/
def shakeAbsorb (a : Vector Word 25) (m : List Byte) : Nat → Vector Word 25
  | 0 => a
  | k + 1 =>
    let block := m.take shakeRate
    let a : Vector Word 25 := Vector.ofFn fun i => lane a i (i / 5) ^^^ BitVec.ofNat 64 (bytesNat ((block.drop (8 * i)).take 8))
    shakeAbsorb (keccakF a) (m.drop shakeRate) k
/-- SHAKE256 with an output of `n` bytes, at most one block of them. -/
def shake256 (n : Nat) (m : List Byte) : List Byte :=
  let p := shakePad m
  let a := shakeAbsorb (Vector.replicate 25 0) p (p.length / shakeRate)
  (((List.range 17).flatMap fun i => natToBytes 8 (lane a i (i / 5)).toNat)).take n

/-! ### Ed448 -/

/-- The prime of the field, the order of the base point, and the curve's constant, -39081. -/
def edP : Nat := 2 ^ 448 - 2 ^ 224 - 1
def edL : Nat := 2 ^ 446 - 13818066809895115352007386748515426880336692474882178609894547503885
def edD : Nat := edP - 39081
def edSub (a b : Nat) : Nat := (a + edP - b % edP) % edP
/-- A power modulo the prime, by the bits of the exponent; the number bounds them. -/
def edPow (b e : Nat) : Nat → Nat
  | 0 => 1
  | k + 1 => if e = 0 then 1 else (edPow (b * b % edP) (e / 2) k) * (if e % 2 = 1 then b else 1) % edP
/-- A point in projective coordinates. -/
structure EdPoint where
  x : Nat
  y : Nat
  z : Nat
deriving DecidableEq, Repr
def EdPoint.zero : EdPoint := { x := 0, y := 1, z := 1 }
def EdPoint.base : EdPoint :=
  { x := 224580040295924300187604334099896036246789641632564134246125461686950415467406032909029192869357953282578032075146446173674602635247710
    y := 298819210078481492676017930443930673437544040154080242095928241372331506189835876003536878655418784733982303233503462500531545062832660
    z := 1 }
def EdPoint.add (p q : EdPoint) : EdPoint :=
  let a := p.z * q.z % edP
  let b := a * a % edP
  let c := p.x * q.x % edP
  let d := p.y * q.y % edP
  let e := edD * c % edP * d % edP
  let f := edSub b e
  let g := (b + e) % edP
  let h := (p.x + p.y) * (q.x + q.y) % edP
  { x := a * f % edP * edSub (edSub h c) d % edP, y := a * g % edP * edSub d c % edP, z := f * g % edP }
/-- A multiple of a point, by the bits of the number; the bound is theirs. -/
def EdPoint.mul (p : EdPoint) (e : Nat) : Nat → EdPoint
  | 0 => .zero
  | k + 1 =>
    if e = 0 then .zero
    else
      let r := EdPoint.mul (p.add p) (e / 2) k
      if e % 2 = 1 then r.add p else r
def EdPoint.same (p q : EdPoint) : Bool := p.x * q.z % edP == q.x * p.z % edP && p.y * q.z % edP == q.y * p.z % edP
/-- A point as 57 bytes: y, and the lowest bit of x above it. -/
def EdPoint.encode (p : EdPoint) : List Byte :=
  let i := edPow p.z (edP - 2) 448
  natToBytes 57 (p.y * i % edP + p.x * i % edP % 2 * 2 ^ 455)
/-- The point that 57 bytes encode. -/
def edDecode (b : List Byte) : Option EdPoint :=
  let v := bytesNat b
  let y := v % 2 ^ 455
  if b.length ≠ 57 ∨ edP ≤ y then none
  else
    let u := edSub (y * y) 1
    let w := edSub (edD * (y * y % edP)) 1
    let x := u * u % edP * u % edP * w % edP * edPow (u * u % edP * u % edP * u % edP * u % edP * w % edP * w % edP * w % edP) ((edP - 3) / 4) 448 % edP
    if w * (x * x % edP) % edP ≠ u % edP then none
    else if x = 0 ∧ v / 2 ^ 455 = 1 then none
    else some { x := if x % 2 = v / 2 ^ 455 then x else (edP - x) % edP, y := y, z := 1 }
/-- dom4 with no context, without prehash: "SigEd448", 0, 0. -/
def edDom : List Byte := [0x53, 0x69, 0x67, 0x45, 0x64, 0x34, 0x34, 0x38, 0, 0]
def edHash (m : List Byte) : Nat := bytesNat (shake256 114 (edDom ++ m)) % edL
/-- The secret scalar of a private key of 57 bytes. -/
def edScalar (k : List Byte) : Nat :=
  let a := bytesNat ((shake256 114 k).take 56)
  (a - a % 4) % 2 ^ 447 + 2 ^ 447
def ed448Public (k : List Byte) : List Byte := (EdPoint.base.mul (edScalar k) 448).encode
/-- The signature of a message, 114 bytes. -/
def ed448Sign (k m : List Byte) : List Byte :=
  let a := edScalar k
  let pub := ed448Public k
  let r := edHash ((shake256 114 k).drop 57 ++ m)
  let big := (EdPoint.base.mul r 448).encode
  big ++ natToBytes 57 ((r + edHash (big ++ pub ++ m) * a) % edL)
/-- The signature of a message by a public key is right. -/
def ed448Verify (pub m sig : List Byte) : Bool :=
  let big := sig.take 57
  let v := bytesNat (sig.drop 57)
  match edDecode pub, edDecode big with
  | some a, some r =>
    decide (sig.length = 114) && decide (v < edL)
      && ((EdPoint.base.mul v 448).mul 4 3).same ((r.add (a.mul (edHash (big ++ pub ++ m)) 448)).mul 4 3)
  | _, _ => false

end Sys2Proof.Machine
end

