-- ==== Sys2Proof/Machine/Startup.lean ====
section
/-! DEFINITION. Starting up and stopping (R326, R353, R403, R404), attestation and the alarms (R354 to R356), host accesses (R226), links
(R397 to R400), the loft (R401, R402), and errors that the ECC finds outside an access (R364). -/

namespace Sys2Proof.Machine

/-! ### Links (R397 to R400) -/

def State.modLink (s : State) (n d : Nat) (f : Link → Link) : State :=
  s.modCell n fun c => c.modNet fun x => { x with links := vset x.links d (f (vget x.links d)) }
/-- Spare lanes of a group: four of a vertical link's, eight of a lateral link's one (R397). -/
def groupSpares (d : Nat) : Nat := if d < 4 then 8 else 4
/-- Working pairs of a vertical link's groups, or a lateral link (R398). -/
def Link.working (l : Link) (d : Nat) : Nat :=
  let ok := fun g : Nat => decide (vget l.lost g ≤ groupSpares d)
  if d < 4 then bit (ok 0) else ([0, 1, 2, 3].filter fun k => ok (2 * k) && ok (2 * k + 1)).length
/-- Both ends of a link that carries nothing any more. -/
def State.loseLink (s : State) (n d : Nat) : State :=
  (s.modLink n d fun l => { l with width := 0 }).modLink (neighbour n d) (backDir d) fun l => { l with width := 0 }
/-- A group of a link has lost lanes (R397, R398): those that find a spare lane are repaired, and counted (R400). -/
def State.repairLanes (s : State) (n d g k : Nat) : State :=
  let was := vget (vget (s.cell n).net.links d).lost g
  let s := s.modLink n d fun l =>
    let l := { l with lost := vset l.lost g (was + k) }
    { l with width := if l.width = 0 then 0 else BitVec.ofNat 4 (l.working d) }
  let fixed := min (groupSpares d) (was + k) - min (groupSpares d) was
  let s := s.modCell n fun c => c.modNet fun x => { x with lanerep := sat16 x.lanerep fixed }
  if (vget (s.cell n).net.links d).width = 0 then s.loseLink n d else s
/-- LINK_CRC_FAILURE: `lanes` is the group plus 8 times the lanes that the test found failed in it; the flits arrive on replay. -/
def State.repair (s : State) (n d lanes : Nat) : State := s.repairLanes n d (if d < 4 then 0 else lanes % 8) (lanes / 8)
def execLinkCrcFailure (node : Nat) (dir : Nat) (lanes : Nat) (s : State) : Out :=
  .next (if node < Config.cells ∧ dir < 6 then s.repair node dir lanes else s)
/-- LINK_LOST. -/
def execLinkLost (node : Nat) (dir : Nat) (s : State) : Out :=
  .next (if node < Config.cells ∧ dir < 6 then s.loseLink node dir else s)
/-- The cells of the ring that a direction runs along, by position. -/
def ringOf (n d : Nat) : List Nat :=
  if d < 2 then (List.range 16).map fun x => cellId x (yOf n) (zOf n)
  else if d < 4 then (List.range 16).map fun y => cellId (xOf n) y (zOf n)
  else (List.range 8).map fun z => cellId (xOf n) (yOf n) z
/-- The segment of a ring, in which two links are lost, that holds position 0, and the other one. -/
def State.segments (s : State) (n d : Nat) : List Nat × List Nat :=
  let ring := ringOf n d
  let up := d / 2 * 2
  let cuts := (ring.zipIdx.filter fun p => s.linkDown p.1 up).map Prod.snd
  let a := cuts.headD 0
  let b := cuts.getLastD 0
  (ring.take (a + 1) ++ ring.drop (b + 1), (ring.take (b + 1)).drop (a + 1))
/-- FAULT_REGION_ROUTING (R399): the ring is routed around its lost link; with a second one the shorter segment is fenced. -/
def State.routeAround (s : State) (n d : Nat) : State :=
  if !s.linkDown n d then s
  else
    let s := (s.modLink n d fun l => { l with around := true }).modLink (neighbour n d) (backDir d) fun l => { l with around := true }
    let cuts := (ringOf n d).filter fun k => s.linkDown k (d / 2 * 2)
    if cuts.length < 2 then s
    else
      let (low, high) := s.segments n d
      let gone := if low.length ≤ high.length then low else high
      gone.foldl (fun s k => if s.liveCell k then (s.fenceCell k).fenceAlone k else s) s
def execFaultRegionRouting (node : Nat) (dir : Nat) (s : State) : Out :=
  .next (if node < Config.cells ∧ dir < 6 then s.routeAround node dir else s)
/-- LANE_RECALIBRATION (R287): the link is occupied for at most 256 fabric cycles, and nothing else changes. -/
def execLaneRecalibration (_node : Nat) (_dir : Nat) (s : State) : Out := .next s

/-! ### Starting up and stopping -/

/-- What outlives a loss of power: the host's memory, the standby domain and the fuses (R325, R355), and what power-up will find. -/
def State.cold (s : State) : State :=
  { State.reset with
    mem := s.mem.clear 0 0x800000000000
    power := { State.reset.power with ocCause := s.power.ocCause, present := s.power.present, standbyLost := s.power.standbyLost }
    sec := { State.reset.sec with killed := s.sec.killed }
    misc := { State.reset.misc with found := s.misc.found }
    draws := s.draws, nextId := s.nextId, schedule := s.schedule, ticks := s.ticks }
/-- Step 3 of R403: lanes are repaired, rings are routed around lost links, failing loft layers are off. LANEREP counts from DEV_READY on
(R400). -/
def State.trainLinks (s : State) : State :=
  let s := s.misc.found.lanes.foldl (fun s (n, d, g, k) =>
    if n < Config.cells ∧ d < 6 then (s.repairLanes n d (if d < 4 then 0 else g % 8) k).modCell n fun c => c.modNet fun x => { x with lanerep := 0 }
    else s) s
  let s := s.misc.found.lanes.foldl (fun s (n, d, _, _) => if n < Config.cells ∧ d < 6 then s.routeAround n d else s) s
  { s with misc := { s.misc with loftSt := s.misc.found.layers.foldl (fun v k => vset v k 2) s.misc.loftSt } }
/-- The logical cell that stands on a physical one. -/
def State.logicalAt (s : State) (p : Nat) : Option Nat :=
  ((List.range Config.cells).find? fun n => decide (s.physOf n = p) && s.liveCell n)
/-- Step 4 of R403: the cells that fail their self-test are fenced, and remapped where they held a coordinate (R392, R394). Nothing of a
context is there yet to replay or to report, and no cell is tested again (log 94). -/
def State.testCells (s : State) : State :=
  let s := s.misc.found.cells.foldl (fun s p =>
    let s' := s.modPhys p fun e => { e with fenced := true, dead := true }
    match s.logicalAt p with
    | some n => s'.fenceCell n
    | none => { s' with misc := { s'.misc with spares := s'.misc.spares - (if (s.physEnt p).fenced then 0 else 1) } }) s
  let gone := (s.lpt.filter fun e => decide (e.1 < Config.cells) && decide (lptState e.2 = 2)).map Prod.fst
  gone.foldl (fun s n =>
    match if (s.liveCrew n).length < 3 then none else s.spareFor n with
    | some q => s.takeOver n q
    | none =>
      let few := decide ((s.liveCrew n).length < 3)
      let s := s.modPhys (s.physOf n) fun e => { e with unmapped := true }
      if few then s else { s with misc := { s.misc with unmapped := sat8 s.misc.unmapped } }) s
/-- A device with a verified firmware goes through steps 3 to 6 of R403 and stands as R404 leaves it; LOST is set after a loss of the standby
domain (R325). -/
def State.bringReady (s : State) : State :=
  let s := s.trainLinks.testCells
  let s := { s with net := [], misc := { s.misc with ready := true, stopped := false, step := 6 } }
  if s.power.standbyLost then ({ s with power := { s.power with standbyLost := false } }).setCause (s.power.ocCause ||| 0x80) else s
/-- An image verifies (R353): the Ed448 signature, a key whose digest is one of the four fused ones and not revoked, and a version that is
not below the fused count. -/
def imageVerifies (image : List Byte) : Bool :=
  let key := Config.imageKey image
  ed448Verify key (Config.imageBody image) (Config.imageSignature image)
    && (List.range 4).any (fun k => decide (Config.vendorDigest k = shake256 64 key) && !Config.vendorRevoked k)
    && decide (Config.fusedRollback.toNat ≤ Config.imageVersion image)
/-- A firmware comes up: it verifies, and so does the cox-core firmware that it verifies in the same way (R353). -/
def firmwareOk (image : List Byte) : Bool := imageVerifies image && imageVerifies (Config.coxImage image)
/-- POWER_UP (R353, R354, R403): the identity key is derived unless the KILL fuse is burnt; on a firmware that does not verify the device
stops at step 2. -/
def execPowerUp (s : State) : Out :=
  if s.misc.ready then .next s
  else
    let s := s.cold
    let s := { s with sec := { s.sec with key := !s.sec.killed } }
    if firmwareOk Config.flashImage then
      .next { s with sec := { s.sec with boot := 1, firmware := Config.flashImage } }.bringReady
    else .next { s with sec := { s.sec with boot := 2 }, misc := { s.misc with step := 2, stopped := true } }
/-- RECOVERY_IMAGE (R353): an image that arrives after the verification failed. What an alarm has done stands until the next power-up
(R355, R356). -/
def execRecoveryImage (image : List (BitVec 8)) (s : State) : Out :=
  if s.misc.ready ∨ s.sec.boot ≠ 2 ∨ s.sec.halted then .next s
  else if firmwareOk image then .next { s with sec := { s.sec with boot := 3, firmware := image } }.bringReady
  else .next s

/-- The device withdraws DEV_READY and stops every cell and port. -/
def State.halted (s : State) : State :=
  { s with misc := { s.misc with ready := false, stopped := true }, ports := s.ports.map Port.down }
/-- POWER_GOOD_LOSS (R326): below 38 V the device stops, and the next POWER_UP is a fresh one. -/
def execPowerGoodLoss (s : State) : Out := .next (s.appear ocUv).halted

/-- The fused action of an alarm (R355). -/
def State.alarm (s : State) (k : Nat) : State :=
  let a := Config.alarmPolicy k
  let s := if a = 0 then s else s.halted
  { s with sec := { s.sec with key := s.sec.key && decide (a.toNat < 2), killed := s.sec.killed || decide (a = 3)
                               halted := s.sec.halted || decide (a ≠ 0) } }
def State.modSec (s : State) (f : Security → Security) : State := { s with sec := f s.sec }
def execTamperAlarm (s : State) : Out := .next ((s.modSec fun c => { c with tamper := true }).alarm 0)
def execGlitchAlarm (s : State) : Out := .next ((s.modSec fun c => { c with glitch := true }).alarm 1)
def execOvertempAlarm (s : State) : Out := .next ((s.modSec fun c => { c with overtemp := true }).alarm 2)

/-! ### Attestation (R354) -/

/-- A byte string cut or filled with zeros to a length. -/
def fit (n : Nat) (l : List Byte) : List Byte := (l ++ List.replicate n 0).take n
/-- The committed words of the context table. -/
def State.ctxBytes (s : State) : List Byte := (List.range 64).flatMap fun c => wordBytes (s.ctxEnt c).words.toList
/-- The identity key, derived through SHAKE256 from the PUF response and the fused seed. -/
def identityKey : List Byte := shake256 57 Config.identitySeed
/-- Bytes 0 to 303 of a report. -/
def State.reportHead (s : State) (nonce : List Byte) : List Byte :=
  natBytes 4 0x54414A44 ++ natBytes 4 1 ++ fit 32 nonce ++ natBytes 8 Config.fusedRollback.toNat ++ shake256 64 s.sec.firmware
    ++ shake256 64 (Config.coxImage s.sec.firmware) ++ shake256 64 s.ctxBytes
    ++ (if s.sec.key then ed448Public identityKey else List.replicate 57 0) ++ List.replicate 7 0
/-- The 424 bytes. -/
def State.attest (s : State) (nonce : List Byte) : List Byte :=
  let h := s.reportHead nonce
  h ++ (if s.sec.key then ed448Sign identityKey h else List.replicate 114 0) ++ List.replicate 6 0
/-- ATTESTATION_REQUEST: a nonce of 32 bytes is answered in the mailbox. -/
def execAttestationRequest (nonce : List (BitVec 8)) (s : State) : Out :=
  .next (if nonce.length = 32 then s.modSec fun c => { c with mailbox := s.attest nonce } else s)

/-! ### The host (R226, R352) -/

/-- HOST_MEMORY_ACCESS: a doubleword of bulk space at its loft slice; a doubleword of the host's own memory, which is the host's to
write; a read of device system space through BAR0 (R352), which raises a cell in retention where it reads a debug window (R315). -/
def execHostMemoryAccess (wr : Bool) (pa : BitVec 48) (v : BitVec 64) (s : State) : Out :=
  let a := pa.toNat
  if a % 8 ≠ 0 then .next s
  else if spaceOf a = .bulk ∨ spaceOf a = .host then
    let s := s.loftAccess a wr
    .next (if wr then s.bankWrite none a (natBytes 8 v.toNat) else s)
  else if !wr ∧ spaceOf a = .dev ∧ a < 0x400020000000 then .next (s.devTouch a)
  else .next s

/-! ### The loft (R401, R402) -/

/-- The bits that an uncorrectable error leaves in a line are free. -/
def State.spoil (s : State) (pa : Nat) : State :=
  let bs := (List.range 8).flatMap fun k => natBytes 8 (Config.freeWord (s.draws + k)).toNat
  { s with mem := s.mem.fill (lineOf pa) bs, draws := s.draws + 8 }
/-- LOFT_LOSS: every readable dirty line of the layer is written back, each lost one among its dirty lines is poison in bulk space, and the
layer, which holds nothing any more, is disabled. -/
def State.loftLose (s : State) (layer : Nat) (lost : List Nat) : State :=
  let dirty := (s.misc.loft.filter fun e => decide (e.layer = layer) && e.dirty).map LoftLine.line
  let gone := dirty.filter fun a => (lost.map lineOf).contains a
  let s := gone.foldl (fun s a => (s.spoil a).setPoison a) s
  let m := (dirty.filter fun a => !gone.contains a).foldl (fun (m : DevMisc) _ => m.loftCount layer 2) s.misc
  { s with misc := { m with loft := m.loft.filter fun e => e.layer ≠ layer
                            loftSt := vset m.loftSt layer 2, loftLost := sat16 m.loftLost gone.length
                            loftBad := m.loftBad ++ gone.filter fun a => !m.loftBad.contains a } }
def execLoftLoss (layer : Nat) (lost : List Nat) (s : State) : Out := .next (if layer < 2 then s.loftLose layer lost else s)

/-! ### Errors in arrays (R364) -/

def State.countCe (s : State) (n : Nat) : State := s.modErr n fun e => { e with ce := sat16 e.ce 1 }
/-- ECC_SCRUB of the line with that number: 1 a correctable error, 2 an uncorrectable one; 3 is a correctable error in another SRAM of the
node, whatever found it (R364, R371; log 43). -/
def State.scrub (s : State) (n line err : Nat) : State :=
  let pa := nodeBase n + 64 * line
  if nodeLimit n ≤ 64 * line ∨ !nodeOk n then s
  else if err = 1 ∨ err = 3 then s.countCe n
  else if err = 2 then ((s.spoil pa).setPoison pa).countUe n
  else s
def execEccScrub (node : Nat) (line : Nat) (err : Nat) (s : State) : Out := .next (s.scrub node line err)

/-- The report of a lost entry: to the supervisor of its context's launch, or to the host when the context cannot be read. -/
def State.lostEntry (s : State) (n : Nat) (readable : Bool) (ctx launch : Nat) (extra : List Word) : State :=
  let s := s.countUe n
  if readable then s.reportEvent n ctx (some launch) 0x50 0 0 4 extra
  else (s.nextSeq n).toHost (packetHead 0x50 0 0 0 (cellField n) 0 0 0 0 4 (s.cell n).err.seq ++ [0, 0, 0, 0])
/-- What a report gives of a descriptor. -/
def Desc.extra (d : Desc) : List Word := [d.entry.setWidth 64, d.arg.setWidth 64, 0#21 ++ d.home ++ 0#10 ++ d.ctr]
/-- A piece of a thread's state is damaged: its next reader finds it (R364). -/
def State.damage (s : State) (n t : Nat) (p : Spot) : State :=
  s.modThread n t fun th => th.modRun fun r => { r with bad := p :: r.bad.filter fun q => q ≠ p }
/-- The line of bulk space with that number, whose HBM is damaged: the data travels on as poison, unless the loft holds the line (R364). -/
def State.damageBulk (s : State) (k : Nat) : State :=
  let pa := 0x10000000000 + 64 * k
  if spaceOf pa ≠ .bulk ∨ s.misc.loft.any (fun e => e.line = pa) then s else (s.spoil pa).setPoison pa
/-- UNCORRECTABLE_STRUCTURE_ERROR: entry `k` of the unit 0 forward buffer, 1 ready banks (in bank order), 2 fired places, 3 arm tables;
4 the slot k mod 128 of thread k div 128's outbox; 5 line `k` of the L1Ds; 6 an LPT copy, which the cox cores rewrite; 7 register k mod
32 of file x, f, w or q (k div 32 mod 4) of thread k div 128; 8 a tile, decode table or weight-buffer line (State.Wide.bad); 9 bulk line k;
10 granule k mod 256 of thread k div 256; 11 control register k mod 32 of thread k div 32 (R33; log 43). -/
def State.structError (s : State) (n unit k : Nat) (readable : Bool) : State :=
  let c := s.cell n
  match unit with
  | 0 =>
    match c.mem.fwd[k]? with
    | some e => (s.dropFwd n e.msg.id).lostEntry n readable e.msg.ctx e.msg.launch (e.msg.header e.msg.pdst)
    | none => s
  | 1 =>
    match (c.sched.ready.toList.flatMap id)[k]? with
    | some e =>
      ((s.modSched n fun x =>
        ({ x with ready := x.ready.map fun (b : List ReadyEnt) => b.filter fun y => y.age ≠ e.age }).after x).busy n).lostEntry n readable
        e.desc.ctx e.desc.launch e.desc.extra
    | none => s
  | 2 =>
    match (c.sched.fired.filter fun f => f.place = .place)[k]? with
    | some f =>
      ((s.modSched n fun x => { x with fired := dropFirst (· == f) x.fired }).busy n).lostEntry n readable f.desc.ctx f.desc.launch f.desc.extra
    | none => s
  | 3 =>
    match c.sched.arms[k]? with
    | some a =>
      let drop := fun f : FiredEnt => decide (f.place = .arm) && decide (f.desc.ctr = a.ctr)
      (s.modSched n fun x =>
        { x with arms := dropFirst (· == a) x.arms
                 fired := if a.st = .fired then dropFirst drop x.fired else x.fired }).lostEntry n readable a.desc.ctx a.desc.launch a.desc.extra
    | none => s
  | 4 =>
    match (c.thread (k / 128)).run.outbox[k % 128]? with
    | some m => (s.countUe n).modThread n (k / 128) fun th => th.markErr (m.va.getD 0) 3 m.ord
    | none => s
  | 5 => (s.modCell n fun c => c.dropLine (64 * k)).countUe n
  | 6 => s.countUe n
  | 7 =>
    let fl : File := match k / 32 % 4 with
      | 0 => .x
      | 1 => .f
      | 2 => .w
      | _ => .q
    s.damage n (k / 128) (.reg fl (k % 32))
  | 8 => s.modWide n fun w => { w with bad := k :: w.bad.filter fun b => b ≠ k }
  | 9 => s.damageBulk k
  | 10 => s.damage n (k / 256) (.granule (k % 256))
  | 11 => s.damage n (k / 32) (.csr (k % 32))
  | _ => s
def execUncorrectableStructureError (node : Nat) (unit : Nat) (k : Nat) (readable : Bool) (s : State) : Out :=
  .next (s.structError node unit k readable)

end Sys2Proof.Machine
end

