-- ==== Sys2Proof/Machine/System.lean ====
section
/-! DEFINITION. The system instructions: CSRR and CSRW (R340), TLBI (R341, R342), HALT (R343), BRK (R381), PWRQ (R302), and a channel
core's HLD, HST, HPF and HFL (R250). -/

namespace Sys2Proof.Machine

/-! ### CSRR and CSRW -/

/-- A register has that number at a node (R33, R251). -/
def csrKnown (n num : Nat) : Bool := threadCsrs (isChan n) num || cellCsrs (isChan n) num || supCsrs (isChan n) num || devCsrs num
/-- The owner of a port may name its LNK_CTL register (R349). -/
def State.ownsLnk (s : State) (ctx num : Nat) : Bool := decide (0x240 ≤ num) && decide (num < 0x248) && s.ownsPort ctx (num - 0x240)
/-- Checks 1 and 2 of R340. -/
def csrFail (A : Args) (s : State) (num : Nat) : Option Fail :=
  if !csrKnown A.n num then some { cause := 0x01 }
  else if 0x200 ≤ num ∧ !s.priv (A.ctx s) ∧ !s.ownsLnk (A.ctx s) num then some { cause := 0x40 }
  else none
/-- Checks 3 and 4, of a write. -/
def csrwFail (num : Nat) : Option Fail :=
  if 0x100 ≤ num ∧ num < 0x200 then some { cause := 0x40 }
  else if (0x40 ≤ num ∧ num < 0x100) ∨ num = 0x283 ∨ num = 0x2F0 then some { cause := 0x01 }
  else none
/-- A register's value at one instant. A thread that reads CELL_PWR finds its cell out of retention (R316). -/
def State.csrValue (s : State) (A : Args) (num : Nat) : Word :=
  if num < 0x40 then (A.th s).csr (s.now A.n A.t) num
  else if devCsrs num then s.devCsr num
  else s.cellCsr A.n num

def csrrBody (num : Nat) (A : Args) (s : State) : Res :=
  Res.unless (csrFail A s num) (.done (s.writeVarD A (s.csrValue A num)))
def csrwBody (num : Nat) (A : Args) (s : State) : Res :=
  let v := A.ra s
  Res.unless (firstFail (csrFail A s num) (csrwFail num))
    (if num < 0x40 then .done (s.modThread A.n A.t fun th => (th.setCsr (s.now A.n A.t) num v false).healed (.csr num))
     else
       let s := if devCsrs num then s.setDevCsr false num v else s.setCellCsr A.n num v
       .done (s.noRestart A.n A.t))

/-! ### TLBI -/

/-- The breaches of R341: limits of both kinds give 0x01. -/
def tlbiFail (A : Args) (s : State) : Option Fail :=
  let v := A.rb s
  let scope := bitsOf v.toNat 0 3
  let what := bitsOf v.toNat 4 2
  let pr := s.priv (A.ctx s)
  if tlbiBad v || decide (scope < 2) || decide (4 < scope) then some { cause := 0x01 }
  else if !pr ∧ (bitsOf v.toNat 8 6 ≠ A.ctx s ∨ what = 2) then some { cause := 0x40 }
  else none
/-- The dies in scope: the issuing cell's, those of the cells where CTX holds slots, or all with the sill. -/
def State.tlbiDies (s : State) (n ctx scope : Nat) : List Nat :=
  match scope with
  | 2 => [s.dieOf n]
  | 3 => (s.hostsOf ctx).map fun p => s.dieOf p.1
  | _ => allDies
/-- TLBI: the removal, then the wait for what used a removed translation (R342). -/
def tlbiBody (A : Args) (s : State) : Res :=
  match (A.th s).run.fence with
  | some ids =>
    if s.anyInFlight ids then .wait s
    else .done (s.modThread A.n A.t fun th => th.modRun fun r => { r with fence := none })
  | none =>
    let v := A.rb s
    let ctx := bitsOf v.toNat 8 6
    let scope := bitsOf v.toNat 0 3
    let dies := s.tlbiDies A.n ctx scope
    let x : Tlbi := { what := bitsOf v.toNat 4 2, ctx := ctx, va := A.ra s, dies := dies }
    let inScope := fun n : Nat => if scope = 2 then decide (n = A.n) else dies.contains (s.dieOf n)
    Res.unless (tlbiFail A s)
      (let s := s.tlbi x inScope
       let ids := s.tlbiWaits x inScope
       if ids.isEmpty then .done s else .wait (s.modThread A.n A.t fun th => th.modRun fun r => { r with fence := some ids }))

/-! ### HALT, BRK, PWRQ -/

/-- HALT (R343): the run ends by END's steps, then the thread parks. -/
def haltBody (A : Args) (s : State) : Res :=
  if !s.priv (A.ctx s) then .trap { cause := 0x40 }
  else .stop (s.modThread A.n A.t fun th => th.modRun fun r => { r with halting := true })
/-- BRK (R381): the packet's PC is the BRK, the thread's the instruction after it; its STALL counts as any instruction's does (R49). -/
def brkBody (A : Args) (s : State) : Res :=
  .trapIn ((s.advance A).endIssue A A.gap true) { cause := 0x60, detail := (A.ra s).setWidth 32 }
/-- A channel core keeps no operating point (R251). -/
def cellOp (n : Nat) (c : Cell) : Nat := if isChan n then 4 else c.power.op.toNat
/-- PWRQ (R302). -/
def pwrqBody (A : Args) (s : State) : Res :=
  let v := A.ra s
  let op := bitsOf v.toNat 0 3
  let w := v.getLsbD 3
  if bitsAbove v 4 || (w && decide (op ≠ 0)) then .illegal
  else
    let req := if w then 4 else min op (s.cell A.n).power.ceil.toNat
    let s := s.modCore A.n A.t fun c => { c with req := BitVec.ofNat 3 req }
    .done (s.writeVarD A (BitVec.ofNat 64 (req + 8 * cellOp A.n (s.cell A.n))))

def execCsrr (c : Ctl) (d : BitVec 5) (i : BitVec 10) (s : State) : Out := run (.csrr c d i) false (csrrBody i.toNat) s
def execCsrw (c : Ctl) (a : BitVec 5) (i : BitVec 10) (s : State) : Out := run (.csrw c a i) false (csrwBody i.toNat) s
def execTlbi (c : Ctl) (a b : BitVec 5) (s : State) : Out := run (.tlbi c a b) false tlbiBody s
def execHalt (c : Ctl) (s : State) : Out := run (.halt c) false haltBody s
def execBrk (c : Ctl) (a : BitVec 5) (s : State) : Out := run (.brk c a) false brkBody s
def execPwrq (c : Ctl) (d a : BitVec 5) (s : State) : Out := run (.pwrq c d a) false pwrqBody s

/-! ### A channel core's bulk accesses (R226, R250) -/

/-- HLD: a poisoned line's data are consumed like a load's (R364, R366). -/
def hldBody (imm : Word) (A : Args) (s : State) : Res :=
  if A.fd = .x ∧ A.d = 0 then .done (s.touch A.n)
  else
    let va := A.ra s + imm
    match s.translateAligned A.n (A.ctx s) .load spaceBulk va 8 with
    | .error f => .trap f
    | .ok pa =>
      if s.poisoned pa ∧ s.precise A.n (A.slot s) then .trap { cause := 0x50, addr := va, detail := s.errSource A.n pa }
      else
        let s := if s.poisoned pa then s.modThread A.n A.t fun th => th.failed va (s.errSource A.n pa) else s
        .done ((s.loftAccess pa false).writeVarD A (s.readWord pa))
/-- HST: performed in program order; it is not logged (R368). -/
def hstBody (imm : Word) (A : Args) (s : State) : Res :=
  let va := A.ra s + imm
  match s.translateAligned A.n (A.ctx s) .store spaceBulk va 8 with
  | .error f => .trap f
  | .ok pa => .done (((s.loftAccess pa true).bankWrite none pa (natBytes 8 (A.rb s).toNat)).noRestart A.n A.t)
/-- HPF: a hint that fetches the line into the loft where its address translates to bulk space (log 19). -/
def hpfBody (imm : Word) (A : Args) (s : State) : Res :=
  match s.translate A.n (A.ctx s) .load spaceBulk (A.ra s + imm) with
  | .error _ => .done s
  | .ok pa => .done (s.loftAccess pa false)
/-- HFL: the checks of its range; the write-back of the loft's dirty lines changes no value. -/
def hflBody (A : Args) (s : State) : Res :=
  let len := bitsOf (A.rb s).toNat 0 32
  let at_ := fun va : Word => s.translate A.n (A.ctx s) .load spaceBulk va
  if !s.priv (A.ctx s) then .trap { cause := 0x40 }
  else if len = 0 then .done s
  else
    match at_ (A.ra s) with
    | .error f => .trap f
    | .ok _ =>
      match at_ (A.ra s + BitVec.ofNat 64 (len - 1)) with
      | .error f => .trap f
      | .ok _ =>
        .done ((pageParts (A.ra s) len).foldl (fun s p =>
          match at_ p.1 with
          | .error _ => s
          | .ok pa => { s with misc := s.misc.loftFlush (lineOf pa) (pa + p.2) }) s)

def execHld (c : Ctl) (d a : BitVec 5) (i : BitVec 10) (s : State) : Out := run (.hld c d a i) false (hldBody (c.imm i)) s
def execHst (c : Ctl) (a b : BitVec 5) (i : BitVec 10) (s : State) : Out := run (.hst c a b i) false (hstBody (c.imm i)) s
def execHpf (c : Ctl) (a : BitVec 5) (i : BitVec 10) (s : State) : Out := run (.hpf c a i) false (hpfBody (c.imm i)) s
def execHfl (c : Ctl) (a b : BitVec 5) (s : State) : Out := run (.hfl c a b) false hflBody s

end Sys2Proof.Machine
end

