-- ==== Sys2Proof/Machine/Turn.lean ====
section
/-! DEFINITION. What a step of the device does between instructions: the clock, the fetch, and the turn (log 2). -/

namespace Sys2Proof.Machine

/-- Time passes: as many fabric cycles as the environment gives this step, or one; the current thread's core counts those beyond
the first (log 3). -/
def State.tick (s : State) : State :=
  let k := s.ticks.headD 1
  let s := { s with fab := s.fab + k, ticks := s.ticks.tail, ports := s.ports.map fun p => p.drained s.fab (s.fab + k) }
  if k ≤ 1 then s else s.modCore s.cur.1 s.cur.2 fun c => { c with now := c.now + (k - 1) }

/-- A thread has an instruction to issue. -/
def State.live (s : State) (n t : Nat) : Bool :=
  let r := (s.thread n t).run
  decide (r.st = .running) && !r.ending && !r.halting && !r.rolling && !(s.cell n).paused && !s.misc.stopped
/-- It may issue in its core's present cycle (R49), and has not waited in it already. -/
def State.ready (s : State) (n t : Nat) : Bool :=
  s.live n t && decide ((s.thread n t).run.readyAt ≤ s.now n t) && !(s.core n t).tried.contains t
/-- The threads of core k in the order of their turns: round-robin after the one that issued last (R49). -/
def State.turns (s : State) (n k : Nat) : List Nat :=
  let last := (vget (s.cell n).cores k).last
  [1, 2, 3, 4].map fun j => 4 * k + (last + j) % 4
/-- The thread that issues in core k's present cycle. -/
def State.picked (s : State) (n k : Nat) : Option Nat := (s.turns n k).find? fun t => s.ready n t
/-- A cycle of a core in which no thread issues. -/
def State.idleCycle (s : State) (n k : Nat) : State :=
  s.modCell n fun c => c.modCore k fun x => { x with now := x.now + 1, tried := [] }

/-- The current thread has not had its turn and may issue. -/
def State.canIssue (s : State) : Bool := !s.blocked && s.ready s.cur.1 s.cur.2

/-- A thread's budget has run out (R269). -/
def State.budgetOut (s : State) (n t : Nat) : Bool := decide ((s.thread n t).remainAt (s.now n t) = 0)

/-- The words of a thread's next instruction (R51): those of a repeat under way stand as they were fetched for its first iteration (R47). -/
def State.fetch (s : State) (n t : Nat) : Except Fail (List W32) :=
  let th := s.thread n t
  match if th.ctrl.repIdx = 0 then none else th.run.chain with
  | some ws => .ok ws
  | none => s.fetchChain n th.ctx (vaOf th.pc) 5

/-- A thread's next instruction with its words, or the fault that its fetch or its decoding ends in (R51). -/
inductive Next where
  | instr (i : Instr) (ws : List W32)
  | fetchFault (f : Fail)
  | decodeFault (c : BitVec 8)
deriving DecidableEq, Repr, Inhabited

def State.nextInstr (s : State) (n t : Nat) : Next :=
  match s.fetch n t with
  | .error f => .fetchFault f
  | .ok ws =>
    match decodeWords ws with
    | .ok i => .instr i ws
    | .error (.cause c) => .decodeFault c
    | .error .short => .decodeFault 0x01

/-- A repeat keeps the words of its chain over its iterations (R47; log 35). -/
def State.latch (s : State) (n t : Nat) (i : Instr) (ws : List W32) : State :=
  if i.sig.any fun g => decide (2 ≤ g.ctl.count) then s.modThread n t fun th => th.modRun fun r => { r with chain := some ws } else s

/-- An earlier wide-unit instruction of the thread is found faulty, and its fault is the one that the boundary reports (R147, R373). -/
def State.wideFaulted (s : State) (n t : Nat) : Bool :=
  (s.core n t).wuq.any fun e => e.of t && match e.st with
    | .faulted .. => true
    | _ => false

/-- The cores with a RUNNING thread, in the order of the nodes that stand in State. -/
def State.liveCores (s : State) : List (Nat × Nat) :=
  s.cells.flatMap fun p =>
    (List.range 4).filterMap fun k =>
      if p.2.threads.any fun q => decide (coreIx p.1 q.1 = k) && decide (q.2.run.st = .running) && !p.2.paused then some (p.1, k) else none
/-- The turn passes to the next core, whose threads take its cycles in round-robin (R49); a cycle in which none can issue passes idle. -/
def State.rotate (s : State) : State :=
  let at_ := (s.cur.1, coreIx s.cur.1 s.cur.2)
  let all := s.liveCores
  let after := all.filter fun p => decide (at_.1 < p.1) || (decide (p.1 = at_.1) && decide (at_.2 < p.2))
  match after ++ all with
  | p :: _ =>
    match s.picked p.1 p.2 with
    | some t => { s with cur := (p.1, t), blocked := false }
    | none => { s.idleCycle p.1 p.2 with cur := (p.1, 4 * p.2), blocked := true }
  | [] => s

end Sys2Proof.Machine
end

