-- ==== Sys2Proof/Machine/Walks.lean ====
section
/-! DEFINITION. The dies' walkers: queued misses and the translations that they leave in the TLBs (R338, R339). Which pages a die has
cached when is the environment's choice, made with these events (log 20). -/

namespace Sys2Proof.Machine

/-- The offset that a load or store by virtual address adds to its base. -/
def memOffset : Instr → Word
  | .ldvB c _ _ i | .ldvH c _ _ i | .ldvW c _ _ i | .ldvD c _ _ i | .ldvBu c _ _ i | .ldvHu c _ _ i | .ldvWu c _ _ i
  | .stvB c _ _ i | .stvH c _ _ i | .stvW c _ _ i | .stvD c _ _ i => c.imm i
  | _ => 0
/-- Virtual addresses that a thread names: its next instruction, and those that its operands give. -/
def State.named (s : State) (n t : Nat) : List Word :=
  let th := s.thread n t
  let pc := vaOf th.pc
  match s.nextInstr n t with
  | .instr i _ =>
    match i.sig with
    | none => [pc]
    | some g =>
      let A := argsOf g n t th.ctrl.repIdx.toNat pc
      [pc, A.ra s + memOffset i, A.rb s, A.re s, A.rd s]
  | _ => [pc]
/-- Addresses that the commands of a node's engines name next. -/
def MemSide.named (m : MemSide) : List (Nat × Word) :=
  (m.engines.filter fun c => c.begun && !c.stopped).flatMap fun c =>
    [(c.ctx, c.src + BitVec.ofNat 64 c.rpos), (c.ctx, c.dst + BitVec.ofNat 64 c.pos)]
/-- Where a node stands in the order of misses of one cycle: by physical cell index, channel cores by their number (R338). -/
def State.missOrder (s : State) (n : Nat) : Nat := if isChan n then n else s.physOf n
/-- What the nodes of a die name, in that order, threads first. -/
def State.dieNames (s : State) (die : Nat) : List (Nat × Word) :=
  let nodes := ((s.cells.map Prod.fst).filter fun n => decide (s.dieOf n = die)).mergeSort fun a b => decide (s.missOrder a ≤ s.missOrder b)
  nodes.flatMap fun n =>
    (((s.cell n).threads.filter fun q => decide (q.2.run.st = .running)).mergeSort fun a b => decide (a.1 ≤ b.1)).flatMap
        (fun q => (s.named n q.1).map fun va => (q.2.ctx, va))
      ++ (s.cell n).mem.named
/-- The misses among them that are not yet queued. -/
def State.newMisses (s : State) (die : Nat) : List Miss :=
  let queued := fun m : Miss => s.walks.contains m || s.misses.contains m
  ((((s.dieNames die).filter fun p => canonical p.2 && (s.tlbHit die p.1 p.2).isNone).map
    fun p => ({ die := die, ctx := p.1, va := p.2 } : Miss)).filter fun m => !queued m).eraseDups
def ofDie (die : Nat) (l : List Miss) : Nat := (l.filter fun m => m.die = die).length
/-- Begins walks from the head of the queue, at most 192 for a die. -/
def State.beginWalks (s : State) (die : Nat) : Nat → State
  | 0 => s
  | k + 1 =>
    if 192 ≤ ofDie die s.walks then s
    else
      match s.misses.find? fun m => m.die = die with
      | none => s
      | some m => State.beginWalks { s with walks := s.walks ++ [m], misses := s.misses.erase m } die k
/-- Queues the die's misses; a full queue takes no more, and they are retried by the next event. -/
def State.queueMisses (s : State) (die : Nat) : State :=
  let new := (s.newMisses die).take (2048 - ofDie die s.misses)
  { s with misses := s.misses ++ new }.beginWalks die 192
/-- TLB_MISS_RETRY. -/
def execTlbMissRetry (die : Nat) (s : State) : Out := .next (if die < 9 then s.queueMisses die else s)

/-- A walk ends: a translation that no check stopped is held (R339), a fault is not. -/
def State.endWalk (s : State) (m : Miss) : State :=
  let s := { s with walks := s.walks.erase m }
  if (s.tlbHit m.die m.ctx m.va).isSome then s
  else
    match s.walkFrom m.va (s.ptRoot m.ctx) 0 4 with
    | .ok (lvl, e) =>
      if leafCtx e = m.ctx then { s with tlb := s.tlb ++ [{ die := m.die, ctx := m.ctx, level := lvl, vpn := vpn m.va lvl, leaf := e }] } else s
    | .error _ => s
/-- WALK_COMPLETE: the die's oldest walk. -/
def execWalkComplete (die : Nat) (s : State) : Out :=
  let s := s.queueMisses die
  match s.walks.find? fun m => m.die = die with
  | none => .next s
  | some m => .next ((s.endWalk m).beginWalks die 192)

end Sys2Proof.Machine
end

