-- ==== Sys2Proof/Machine/Dispatch.lean ====
section
/-! DEFINITION. Which meaning each instruction and event has: one arm a constructor. -/

namespace Sys2Proof.Machine

def exec (i : Instr) (s : State) : Host.Outcome State Fault Refusal :=
  match i with
  | .add c d a b => Sys2Proof.Machine.execAdd c d a b s
  | .sub c d a b => Sys2Proof.Machine.execSub c d a b s
  | .and c d a b => Sys2Proof.Machine.execAnd c d a b s
  | .or c d a b => Sys2Proof.Machine.execOr c d a b s
  | .xor c d a b => Sys2Proof.Machine.execXor c d a b s
  | .shl c d a b => Sys2Proof.Machine.execShl c d a b s
  | .shr c d a b => Sys2Proof.Machine.execShr c d a b s
  | .sha c d a b => Sys2Proof.Machine.execSha c d a b s
  | .rol c d a b => Sys2Proof.Machine.execRol c d a b s
  | .ror c d a b => Sys2Proof.Machine.execRor c d a b s
  | .slt c d a b => Sys2Proof.Machine.execSlt c d a b s
  | .sltu c d a b => Sys2Proof.Machine.execSltu c d a b s
  | .min c d a b => Sys2Proof.Machine.execMin c d a b s
  | .max c d a b => Sys2Proof.Machine.execMax c d a b s
  | .minu c d a b => Sys2Proof.Machine.execMinu c d a b s
  | .maxu c d a b => Sys2Proof.Machine.execMaxu c d a b s
  | .mul c d a b => Sys2Proof.Machine.execMul c d a b s
  | .mulh c d a b => Sys2Proof.Machine.execMulh c d a b s
  | .mulhu c d a b => Sys2Proof.Machine.execMulhu c d a b s
  | .div c d a b => Sys2Proof.Machine.execDiv c d a b s
  | .divu c d a b => Sys2Proof.Machine.execDivu c d a b s
  | .rem c d a b => Sys2Proof.Machine.execRem c d a b s
  | .remu c d a b => Sys2Proof.Machine.execRemu c d a b s
  | .clz c d a => Sys2Proof.Machine.execClz c d a s
  | .ctz c d a => Sys2Proof.Machine.execCtz c d a s
  | .popc c d a => Sys2Proof.Machine.execPopc c d a s
  | .addi c d a im => Sys2Proof.Machine.execAddi c d a im s
  | .andi c d a im => Sys2Proof.Machine.execAndi c d a im s
  | .ori c d a im => Sys2Proof.Machine.execOri c d a im s
  | .xori c d a im => Sys2Proof.Machine.execXori c d a im s
  | .shli c d a im => Sys2Proof.Machine.execShli c d a im s
  | .shri c d a im => Sys2Proof.Machine.execShri c d a im s
  | .shai c d a im => Sys2Proof.Machine.execShai c d a im s
  | .slti c d a im => Sys2Proof.Machine.execSlti c d a im s
  | .sltiu c d a im => Sys2Proof.Machine.execSltiu c d a im s
  | .muli c d a im => Sys2Proof.Machine.execMuli c d a im s
  | .ldc c d k => Sys2Proof.Machine.execLdc c d k s
  | .addc c d a k => Sys2Proof.Machine.execAddc c d a k s
  | .subc c d a k => Sys2Proof.Machine.execSubc c d a k s
  | .mulc c d a k => Sys2Proof.Machine.execMulc c d a k s
  | .sextB c d a => Sys2Proof.Machine.execSextB c d a s
  | .sextH c d a => Sys2Proof.Machine.execSextH c d a s
  | .sextW c d a => Sys2Proof.Machine.execSextW c d a s
  | .zextB c d a => Sys2Proof.Machine.execZextB c d a s
  | .zextH c d a => Sys2Proof.Machine.execZextH c d a s
  | .zextW c d a => Sys2Proof.Machine.execZextW c d a s
  | .qset c d a b => Sys2Proof.Machine.execQset c d a b s
  | .qget c d a => Sys2Proof.Machine.execQget c d a s
  | .liw c d w2 => Sys2Proof.Machine.execLiw c d w2 s
  | .addiw c d a w2 => Sys2Proof.Machine.execAddiw c d a w2 s
  | .rdcyc c d => Sys2Proof.Machine.execRdcyc c d s
  | .beq c a b im => Sys2Proof.Machine.execBeq c a b im s
  | .bne c a b im => Sys2Proof.Machine.execBne c a b im s
  | .blt c a b im => Sys2Proof.Machine.execBlt c a b im s
  | .bge c a b im => Sys2Proof.Machine.execBge c a b im s
  | .bltu c a b im => Sys2Proof.Machine.execBltu c a b im s
  | .bgeu c a b im => Sys2Proof.Machine.execBgeu c a b im s
  | .jal c d im => Sys2Proof.Machine.execJal c d im s
  | .jalr c d a im => Sys2Proof.Machine.execJalr c d a im s
  | .jalw c d w2 => Sys2Proof.Machine.execJalw c d w2 s
  | .loop c d a b => Sys2Proof.Machine.execLoop c d a b s
  | .loopi c d a im => Sys2Proof.Machine.execLoopi c d a im s
  | .lpbrk c d => Sys2Proof.Machine.execLpbrk c d s
  | .endTask c => Sys2Proof.Machine.execEndTask c s
  | .ldB c d a im => Sys2Proof.Machine.execLdB c d a im s
  | .ldH c d a im => Sys2Proof.Machine.execLdH c d a im s
  | .ldW c d a im => Sys2Proof.Machine.execLdW c d a im s
  | .ldD c d a im => Sys2Proof.Machine.execLdD c d a im s
  | .stB c a b im => Sys2Proof.Machine.execStB c a b im s
  | .stH c a b im => Sys2Proof.Machine.execStH c a b im s
  | .stW c a b im => Sys2Proof.Machine.execStW c a b im s
  | .stD c a b im => Sys2Proof.Machine.execStD c a b im s
  | .ldBu c d a im => Sys2Proof.Machine.execLdBu c d a im s
  | .ldHu c d a im => Sys2Proof.Machine.execLdHu c d a im s
  | .ldWu c d a im => Sys2Proof.Machine.execLdWu c d a im s
  | .ldvB c d a im => Sys2Proof.Machine.execLdvB c d a im s
  | .ldvH c d a im => Sys2Proof.Machine.execLdvH c d a im s
  | .ldvW c d a im => Sys2Proof.Machine.execLdvW c d a im s
  | .ldvD c d a im => Sys2Proof.Machine.execLdvD c d a im s
  | .ldvBu c d a im => Sys2Proof.Machine.execLdvBu c d a im s
  | .ldvHu c d a im => Sys2Proof.Machine.execLdvHu c d a im s
  | .ldvWu c d a im => Sys2Proof.Machine.execLdvWu c d a im s
  | .stvB c a b im => Sys2Proof.Machine.execStvB c a b im s
  | .stvH c a b im => Sys2Proof.Machine.execStvH c a b im s
  | .stvW c a b im => Sys2Proof.Machine.execStvW c a b im s
  | .stvD c a b im => Sys2Proof.Machine.execStvD c a b im s
  | .amoAdd c w d a b => Sys2Proof.Machine.execAmoAdd c w d a b s
  | .amoAnd c w d a b => Sys2Proof.Machine.execAmoAnd c w d a b s
  | .amoOr c w d a b => Sys2Proof.Machine.execAmoOr c w d a b s
  | .amoXor c w d a b => Sys2Proof.Machine.execAmoXor c w d a b s
  | .amoMin c w d a b => Sys2Proof.Machine.execAmoMin c w d a b s
  | .amoMax c w d a b => Sys2Proof.Machine.execAmoMax c w d a b s
  | .amoMinu c w d a b => Sys2Proof.Machine.execAmoMinu c w d a b s
  | .amoMaxu c w d a b => Sys2Proof.Machine.execAmoMaxu c w d a b s
  | .amoSwap c w d a b => Sys2Proof.Machine.execAmoSwap c w d a b s
  | .amoCas c d a b e => Sys2Proof.Machine.execAmoCas c d a b e s
  | .decn c a b => Sys2Proof.Machine.execDecn c a b s
  | .fence c im => Sys2Proof.Machine.execFence c im s
  | .efence c => Sys2Proof.Machine.execEfence c s
  | .spawn c a b => Sys2Proof.Machine.execSpawn c a b s
  | .arm c a b => Sys2Proof.Machine.execArm c a b s
  | .bara c a b => Sys2Proof.Machine.execBara c a b s
  | .barx c a b => Sys2Proof.Machine.execBarx c a b s
  | .htset c a b => Sys2Proof.Machine.execHtset c a b s
  | .htclr c a => Sys2Proof.Machine.execHtclr c a s
  | .csrr c d im => Sys2Proof.Machine.execCsrr c d im s
  | .csrw c a im => Sys2Proof.Machine.execCsrw c a im s
  | .tlbi c a b => Sys2Proof.Machine.execTlbi c a b s
  | .halt c => Sys2Proof.Machine.execHalt c s
  | .brk c a => Sys2Proof.Machine.execBrk c a s
  | .pwrq c d a => Sys2Proof.Machine.execPwrq c d a s
  | .faddS c d a b => Sys2Proof.Machine.execFaddS c d a b s
  | .fsubS c d a b => Sys2Proof.Machine.execFsubS c d a b s
  | .fmulS c d a b => Sys2Proof.Machine.execFmulS c d a b s
  | .fdivS c d a b => Sys2Proof.Machine.execFdivS c d a b s
  | .fsqrtS c d a => Sys2Proof.Machine.execFsqrtS c d a s
  | .fminS c d a b => Sys2Proof.Machine.execFminS c d a b s
  | .fmaxS c d a b => Sys2Proof.Machine.execFmaxS c d a b s
  | .fcsgnS c d a b => Sys2Proof.Machine.execFcsgnS c d a b s
  | .fnsgnS c d a b => Sys2Proof.Machine.execFnsgnS c d a b s
  | .fxsgnS c d a b => Sys2Proof.Machine.execFxsgnS c d a b s
  | .fcmpqS c d a b => Sys2Proof.Machine.execFcmpqS c d a b s
  | .fcmpsS c d a b => Sys2Proof.Machine.execFcmpsS c d a b s
  | .ftypeS c d a => Sys2Proof.Machine.execFtypeS c d a s
  | .faddD c d a b => Sys2Proof.Machine.execFaddD c d a b s
  | .fsubD c d a b => Sys2Proof.Machine.execFsubD c d a b s
  | .fmulD c d a b => Sys2Proof.Machine.execFmulD c d a b s
  | .fdivD c d a b => Sys2Proof.Machine.execFdivD c d a b s
  | .fsqrtD c d a => Sys2Proof.Machine.execFsqrtD c d a s
  | .fminD c d a b => Sys2Proof.Machine.execFminD c d a b s
  | .fmaxD c d a b => Sys2Proof.Machine.execFmaxD c d a b s
  | .fcsgnD c d a b => Sys2Proof.Machine.execFcsgnD c d a b s
  | .fnsgnD c d a b => Sys2Proof.Machine.execFnsgnD c d a b s
  | .fxsgnD c d a b => Sys2Proof.Machine.execFxsgnD c d a b s
  | .fcmpqD c d a b => Sys2Proof.Machine.execFcmpqD c d a b s
  | .fcmpsD c d a b => Sys2Proof.Machine.execFcmpsD c d a b s
  | .ftypeD c d a => Sys2Proof.Machine.execFtypeD c d a s
  | .fmaddS c d a b e => Sys2Proof.Machine.execFmaddS c d a b e s
  | .fmsubS c d a b e => Sys2Proof.Machine.execFmsubS c d a b e s
  | .fmaddD c d a b e => Sys2Proof.Machine.execFmaddD c d a b e s
  | .fmsubD c d a b e => Sys2Proof.Machine.execFmsubD c d a b e s
  | .fcvF64F32 c d a => Sys2Proof.Machine.execFcvF64F32 c d a s
  | .fcvF32F64 c d a => Sys2Proof.Machine.execFcvF32F64 c d a s
  | .fcvF32I32 c d a => Sys2Proof.Machine.execFcvF32I32 c d a s
  | .fcvI32F32 c d a => Sys2Proof.Machine.execFcvI32F32 c d a s
  | .fcvF32I64 c d a => Sys2Proof.Machine.execFcvF32I64 c d a s
  | .fcvI64F32 c d a => Sys2Proof.Machine.execFcvI64F32 c d a s
  | .fcvF64I32 c d a => Sys2Proof.Machine.execFcvF64I32 c d a s
  | .fcvI32F64 c d a => Sys2Proof.Machine.execFcvI32F64 c d a s
  | .fcvF64I64 c d a => Sys2Proof.Machine.execFcvF64I64 c d a s
  | .fcvI64F64 c d a => Sys2Proof.Machine.execFcvI64F64 c d a s
  | .fcvF32U64 c d a => Sys2Proof.Machine.execFcvF32U64 c d a s
  | .fcvU64F32 c d a => Sys2Proof.Machine.execFcvU64F32 c d a s
  | .fcvF64U64 c d a => Sys2Proof.Machine.execFcvF64U64 c d a s
  | .fcvU64F64 c d a => Sys2Proof.Machine.execFcvU64F64 c d a s
  | .fgetD c d a => Sys2Proof.Machine.execFgetD c d a s
  | .fsetD c d a => Sys2Proof.Machine.execFsetD c d a s
  | .fgetS c d a => Sys2Proof.Machine.execFgetS c d a s
  | .fsetS c d a => Sys2Proof.Machine.execFsetS c d a s
  | .fldS c d a im => Sys2Proof.Machine.execFldS c d a im s
  | .fldD c d a im => Sys2Proof.Machine.execFldD c d a im s
  | .fstS c a b im => Sys2Proof.Machine.execFstS c a b im s
  | .fstD c a b im => Sys2Proof.Machine.execFstD c a b im s
  | .poalloc c d => Sys2Proof.Machine.execPoalloc c d s
  | .poallocX c d a => Sys2Proof.Machine.execPoallocX c d a s
  | .pofree c d => Sys2Proof.Machine.execPofree c d s
  | .poadd c d a b => Sys2Proof.Machine.execPoadd c d a b s
  | .posub c d a b => Sys2Proof.Machine.execPosub c d a b s
  | .pomul c d a b => Sys2Proof.Machine.execPomul c d a b s
  | .podiv c d a b => Sys2Proof.Machine.execPodiv c d a b s
  | .posqrt c d a => Sys2Proof.Machine.execPosqrt c d a s
  | .pofma c d a b e => Sys2Proof.Machine.execPofma c d a b e s
  | .pocmpEq c d a b => Sys2Proof.Machine.execPocmpEq c d a b s
  | .pocmpLt c d a b => Sys2Proof.Machine.execPocmpLt c d a b s
  | .pocmpLe c d a b => Sys2Proof.Machine.execPocmpLe c d a b s
  | .poldS c n d a => Sys2Proof.Machine.execPoldS c n d a s
  | .poldP c d a b => Sys2Proof.Machine.execPoldP c d a b s
  | .posvS c n d a => Sys2Proof.Machine.execPosvS c n d a s
  | .posvP c d a b => Sys2Proof.Machine.execPosvP c d a b s
  | .pocvtPD c d a => Sys2Proof.Machine.execPocvtPD c d a s
  | .pocvtPS c d a => Sys2Proof.Machine.execPocvtPS c d a s
  | .pocvtPL c d a => Sys2Proof.Machine.execPocvtPL c d a s
  | .pocvtDP c d a => Sys2Proof.Machine.execPocvtDP c d a s
  | .pocvtSP c d a => Sys2Proof.Machine.execPocvtSP c d a s
  | .pocvtLP c d a => Sys2Proof.Machine.execPocvtLP c d a s
  | .pocvtPP c d a => Sys2Proof.Machine.execPocvtPP c d a s
  | .podot c d a b e => Sys2Proof.Machine.execPodot c d a b e s
  | .tcfg c d a => Sys2Proof.Machine.execTcfg c d a s
  | .tzero c d => Sys2Proof.Machine.execTzero c d s
  | .tld c d a => Sys2Proof.Machine.execTld c d a s
  | .tst c d a => Sys2Proof.Machine.execTst c d a s
  | .tldd c d a b w2 => Sys2Proof.Machine.execTldd c d a b w2 s
  | .tstd c d a b w2 => Sys2Proof.Machine.execTstd c d a b w2 s
  | .twait c d a => Sys2Proof.Machine.execTwait c d a s
  | .wld c a b => Sys2Proof.Machine.execWld c a b s
  | .dtld c d a w2 => Sys2Proof.Machine.execDtld c d a w2 s
  | .mma c d a b e => Sys2Proof.Machine.execMma c d a b e s
  | .mmas c d a b e => Sys2Proof.Machine.execMmas c d a b e s
  | .mmao c d a b e => Sys2Proof.Machine.execMmao c d a b e s
  | .mmad c fn d a b w2 => Sys2Proof.Machine.execMmad c fn d a b w2 s
  | .mmasd c fn d a b w2 => Sys2Proof.Machine.execMmasd c fn d a b w2 s
  | .mmaod c fn d a b w2 => Sys2Proof.Machine.execMmaod c fn d a b w2 s
  | .vadd c t d a b => Sys2Proof.Machine.execVadd c t d a b s
  | .vsub c t d a b => Sys2Proof.Machine.execVsub c t d a b s
  | .vmul c t d a b => Sys2Proof.Machine.execVmul c t d a b s
  | .vfma c d a b e => Sys2Proof.Machine.execVfma c d a b e s
  | .vmax c t d a b => Sys2Proof.Machine.execVmax c t d a b s
  | .vmin c t d a b => Sys2Proof.Machine.execVmin c t d a b s
  | .vexp2 c t d a => Sys2Proof.Machine.execVexp2 c t d a s
  | .vlog2 c t d a => Sys2Proof.Machine.execVlog2 c t d a s
  | .vrcp c t d a => Sys2Proof.Machine.execVrcp c t d a s
  | .vrsq c t d a => Sys2Proof.Machine.execVrsq c t d a s
  | .vtanh c t d a => Sys2Proof.Machine.execVtanh c t d a s
  | .vrsum c t d a => Sys2Proof.Machine.execVrsum c t d a s
  | .vrmax c t d a => Sys2Proof.Machine.execVrmax c t d a s
  | .vcvt c t d a => Sys2Proof.Machine.execVcvt c t d a s
  | .vxpose c t d a => Sys2Proof.Machine.execVxpose c t d a s
  | .vbcast c t d a => Sys2Proof.Machine.execVbcast c t d a s
  | .vscale c t d a b => Sys2Proof.Machine.execVscale c t d a b s
  | .vcvtd c d a b w2 => Sys2Proof.Machine.execVcvtd c d a b w2 s
  | .recStart c a => Sys2Proof.Machine.execRecStart c a s
  | .recStop c => Sys2Proof.Machine.execRecStop c s
  | .rvs c d a => Sys2Proof.Machine.execRvs c d a s
  | .gmap c a => Sys2Proof.Machine.execGmap c a s
  | .send c a b w2 => Sys2Proof.Machine.execSend c a b w2 s
  | .cpy c d a b e w2 => Sys2Proof.Machine.execCpy c d a b e w2 s
  | .cpym c d a b e w2 => Sys2Proof.Machine.execCpym c d a b e w2 s
  | .coll c d a b e w2 => Sys2Proof.Machine.execColl c d a b e w2 s
  | .engp c d w2 => Sys2Proof.Machine.execEngp c d w2 s
  | .engq c d w2 => Sys2Proof.Machine.execEngq c d w2 s
  | .hld c d a im => Sys2Proof.Machine.execHld c d a im s
  | .hst c a b im => Sys2Proof.Machine.execHst c a b im s
  | .hpf c a im => Sys2Proof.Machine.execHpf c a im s
  | .hfl c a b => Sys2Proof.Machine.execHfl c a b s
  | .variableLatencyResult node thr k => Sys2Proof.Machine.execVariableLatencyResult node thr k s
  | .wuInstructionStart node core => Sys2Proof.Machine.execWuInstructionStart node core s
  | .wuInstructionComplete node core => Sys2Proof.Machine.execWuInstructionComplete node core s
  | .wuFault node core => Sys2Proof.Machine.execWuFault node core s
  | .wuSlotBoundary node => Sys2Proof.Machine.execWuSlotBoundary node s
  | .ballastWindow node => Sys2Proof.Machine.execBallastWindow node s
  | .ballastStart node => Sys2Proof.Machine.execBallastStart node s
  | .descriptorInsert node => Sys2Proof.Machine.execDescriptorInsert node s
  | .pop node => Sys2Proof.Machine.execPop node s
  | .runEnd node thr => Sys2Proof.Machine.execRunEnd node thr s
  | .budgetExpiry node thr => Sys2Proof.Machine.execBudgetExpiry node thr s
  | .slotInject node k => Sys2Proof.Machine.execSlotInject node k s
  | .retryTimer node k => Sys2Proof.Machine.execRetryTimer node k s
  | .ctxSlotDrain node slot => Sys2Proof.Machine.execCtxSlotDrain node slot s
  | .ctxSlotIn node slot => Sys2Proof.Machine.execCtxSlotIn node slot s
  | .ctxSlotOut node slot => Sys2Proof.Machine.execCtxSlotOut node slot s
  | .balanceExchange node => Sys2Proof.Machine.execBalanceExchange node s
  | .balanceMoveSend node => Sys2Proof.Machine.execBalanceMoveSend node s
  | .barrierTimeout node k => Sys2Proof.Machine.execBarrierTimeout node k s
  | .msgLoad k => Sys2Proof.Machine.execMsgLoad k s
  | .msgStore k => Sys2Proof.Machine.execMsgStore k s
  | .msgAmo k => Sys2Proof.Machine.execMsgAmo k s
  | .msgCas k => Sys2Proof.Machine.execMsgCas k s
  | .msgDecn k => Sys2Proof.Machine.execMsgDecn k s
  | .msgSend k => Sys2Proof.Machine.execMsgSend k s
  | .msgSpawn k => Sys2Proof.Machine.execMsgSpawn k s
  | .msgArm k => Sys2Proof.Machine.execMsgArm k s
  | .msgBara k => Sys2Proof.Machine.execMsgBara k s
  | .msgBarx k => Sys2Proof.Machine.execMsgBarx k s
  | .msgCpy k => Sys2Proof.Machine.execMsgCpy k s
  | .msgCpym k => Sys2Proof.Machine.execMsgCpym k s
  | .msgColl k => Sys2Proof.Machine.execMsgColl k s
  | .engineCommandBegin node k => Sys2Proof.Machine.execEngineCommandBegin node k s
  | .cpyComplete node k => Sys2Proof.Machine.execCpyComplete node k s
  | .cpymComplete node k => Sys2Proof.Machine.execCpymComplete node k s
  | .collComplete node k => Sys2Proof.Machine.execCollComplete node k s
  | .engineFault node k => Sys2Proof.Machine.execEngineFault node k s
  | .msgContrib k => Sys2Proof.Machine.execMsgContrib k s
  | .msgResult k => Sys2Proof.Machine.execMsgResult k s
  | .msgLine node k => Sys2Proof.Machine.execMsgLine node k s
  | .msgData k => Sys2Proof.Machine.execMsgData k s
  | .msgAck k => Sys2Proof.Machine.execMsgAck k s
  | .msgInvack k => Sys2Proof.Machine.execMsgInvack k s
  | .msgNack k => Sys2Proof.Machine.execMsgNack k s
  | .msgInval k => Sys2Proof.Machine.execMsgInval k s
  | .msgTaskmove k => Sys2Proof.Machine.execMsgTaskmove k s
  | .malformedMessage k => Sys2Proof.Machine.execMalformedMessage k s
  | .strokePeriod node => Sys2Proof.Machine.execStrokePeriod node s
  | .msgStroke k => Sys2Proof.Machine.execMsgStroke k s
  | .msgAccuse k => Sys2Proof.Machine.execMsgAccuse k s
  | .msgFence k => Sys2Proof.Machine.execMsgFence k s
  | .msgFreeze k => Sys2Proof.Machine.execMsgFreeze k s
  | .msgFenced k => Sys2Proof.Machine.execMsgFenced k s
  | .remapToSpare lid => Sys2Proof.Machine.execRemapToSpare lid s
  | .msgTest k => Sys2Proof.Machine.execMsgTest k s
  | .selfTestComplete phys pass sig => Sys2Proof.Machine.execSelfTestComplete phys pass sig s
  | .msgAppeal k => Sys2Proof.Machine.execMsgAppeal k s
  | .msgAdmit k => Sys2Proof.Machine.execMsgAdmit k s
  | .msgRefuse k => Sys2Proof.Machine.execMsgRefuse k s
  | .msgReopen k => Sys2Proof.Machine.execMsgReopen k s
  | .msgFault k => Sys2Proof.Machine.execMsgFault k s
  | .lptEntryFenced deck lid => Sys2Proof.Machine.execLptEntryFenced deck lid s
  | .tlbMissRetry die => Sys2Proof.Machine.execTlbMissRetry die s
  | .walkComplete die => Sys2Proof.Machine.execWalkComplete die s
  | .cmdNop => Sys2Proof.Machine.execCmdNop s
  | .cmdLaunch => Sys2Proof.Machine.execCmdLaunch s
  | .cmdLinkmap => Sys2Proof.Machine.execCmdLinkmap s
  | .cmdCtxsetIn => Sys2Proof.Machine.execCmdCtxsetIn s
  | .cmdCtxsetDrain => Sys2Proof.Machine.execCmdCtxsetDrain s
  | .cmdIllegal => Sys2Proof.Machine.execCmdIllegal s
  | .linkmapDrainEnd timeout => Sys2Proof.Machine.execLinkmapDrainEnd timeout s
  | .linkmapRetuneEnd => Sys2Proof.Machine.execLinkmapRetuneEnd s
  | .linkmapTrainEnd port trained peer peerPort => Sys2Proof.Machine.execLinkmapTrainEnd port trained peer peerPort s
  | .cqTailWrite v => Sys2Proof.Machine.execCqTailWrite v s
  | .contextCommit ctx v => Sys2Proof.Machine.execContextCommit ctx v s
  | .contextTeardown ctx => Sys2Proof.Machine.execContextTeardown ctx s
  | .hostTlbi v => Sys2Proof.Machine.execHostTlbi v s
  | .wavelengthPark port park => Sys2Proof.Machine.execWavelengthPark port park s
  | .automaticWake port => Sys2Proof.Machine.execAutomaticWake port s
  | .wakeComplete port => Sys2Proof.Machine.execWakeComplete port s
  | .opticalFrame port frame crcOk => Sys2Proof.Machine.execOpticalFrame port frame crcOk s
  | .dbgResume node thr => Sys2Proof.Machine.execDbgResume node thr s
  | .dbgRetry node thr => Sys2Proof.Machine.execDbgRetry node thr s
  | .dbgSkip node thr => Sys2Proof.Machine.execDbgSkip node thr s
  | .dbgAbandon node thr => Sys2Proof.Machine.execDbgAbandon node thr s
  | .dbgRedeliver node thr => Sys2Proof.Machine.execDbgRedeliver node thr s
  | .dbgStep node thr => Sys2Proof.Machine.execDbgStep node thr s
  | .dbgFreeze node thr => Sys2Proof.Machine.execDbgFreeze node thr s
  | .debugWindowWrite pa v => Sys2Proof.Machine.execDebugWindowWrite pa v s
  | .registerWrite host pa v => Sys2Proof.Machine.execRegisterWrite host pa v s
  | .hostMemoryAccess wr pa v => Sys2Proof.Machine.execHostMemoryAccess wr pa v s
  | .attestationRequest nonce => Sys2Proof.Machine.execAttestationRequest nonce s
  | .recoveryImage image => Sys2Proof.Machine.execRecoveryImage image s
  | .temperatureSample node temp => Sys2Proof.Machine.execTemperatureSample node temp s
  | .ceilingUpdate => Sys2Proof.Machine.execCeilingUpdate s
  | .limitStep watts10 => Sys2Proof.Machine.execLimitStep watts10 s
  | .boostWindowExpiry => Sys2Proof.Machine.execBoostWindowExpiry s
  | .boostRecoveryEnd => Sys2Proof.Machine.execBoostRecoveryEnd s
  | .opStep node => Sys2Proof.Machine.execOpStep node s
  | .retentionEntry node => Sys2Proof.Machine.execRetentionEntry node s
  | .retentionWake node => Sys2Proof.Machine.execRetentionWake node s
  | .migrationStart node => Sys2Proof.Machine.execMigrationStart node s
  | .migrationCopy node => Sys2Proof.Machine.execMigrationCopy node s
  | .migrationSwitch node => Sys2Proof.Machine.execMigrationSwitch node s
  | .migrationDrain node => Sys2Proof.Machine.execMigrationDrain node s
  | .overCurrent => Sys2Proof.Machine.execOverCurrent s
  | .overVoltage => Sys2Proof.Machine.execOverVoltage s
  | .underVoltage => Sys2Proof.Machine.execUnderVoltage s
  | .powerGoodLoss => Sys2Proof.Machine.execPowerGoodLoss s
  | .supplyRecovery cond => Sys2Proof.Machine.execSupplyRecovery cond s
  | .coolantFault inlet flow => Sys2Proof.Machine.execCoolantFault inlet flow s
  | .slopeBreach => Sys2Proof.Machine.execSlopeBreach s
  | .powerUp => Sys2Proof.Machine.execPowerUp s
  | .tamperAlarm => Sys2Proof.Machine.execTamperAlarm s
  | .glitchAlarm => Sys2Proof.Machine.execGlitchAlarm s
  | .overtempAlarm => Sys2Proof.Machine.execOvertempAlarm s
  | .linkCrcFailure node dir lanes => Sys2Proof.Machine.execLinkCrcFailure node dir lanes s
  | .linkLost node dir => Sys2Proof.Machine.execLinkLost node dir s
  | .faultRegionRouting node dir => Sys2Proof.Machine.execFaultRegionRouting node dir s
  | .laneRecalibration node dir => Sys2Proof.Machine.execLaneRecalibration node dir s
  | .loftLoss layer lost => Sys2Proof.Machine.execLoftLoss layer lost s
  | .eccScrub node line err => Sys2Proof.Machine.execEccScrub node line err s
  | .uncorrectableStructureError node unit k readable => Sys2Proof.Machine.execUncorrectableStructureError node unit k readable s
  | .decodeFault cause => Sys2Proof.Machine.execDecodeFault cause s
  | .instructionFetchFault cause va detail => Sys2Proof.Machine.execInstructionFetchFault cause va detail s
  | .appealAnswerTimeout phys => Sys2Proof.Machine.execAppealAnswerTimeout phys s
  | .standbyDomainPowerLoss => Sys2Proof.Machine.execStandbyDomainPowerLoss s

end Sys2Proof.Machine
end

