-- ==== Sys2Proof/Machine/Place.lean ====
section
/-! DEFINITION. Placing one instruction where the next step fetches it: a context, its page tables in bulk space, the instruction's
words, and a thread that runs there (log 8). It stands for the load of a program from outside. -/

namespace Sys2Proof.Machine

/-- Where the page tables of the placed context lie, in bulk space. -/
def placeRoot : Nat := 0x10000000000
/-- The virtual address of the placed instruction, and the bytes of the page under it. -/
def placeVa : Nat := 0x10000
def placePa : Nat := placeRoot + 0x10000

/-- A table entry (R335). -/
def tableEntry (next : Nat) : Nat := next + 3
/-- An executable homed leaf of context 0 (R335). -/
def codeLeaf (frame : Nat) : Nat := frame + 0x15

/-- Memory with the four tables that map the page (R334). -/
def State.placeTables (s : State) : State :=
  (((s.put placeRoot (natBytes 8 (tableEntry (placeRoot + 0x4000)))).put (placeRoot + 0x4000) (natBytes 8 (tableEntry (placeRoot + 0x8000)))).put
    (placeRoot + 0x8000) (natBytes 8 (tableEntry (placeRoot + 0xC000)))).put (placeRoot + 0xC020) (natBytes 8 (codeLeaf placePa))

/-- The node that implements the instruction: a channel core for page 2, else cell 0 (R57). -/
def placeNode (ws : List W32) : Nat :=
  match decodeWords ws with
  | .ok i => if coreRuns 0 i then 0 else Config.cells
  | .error _ => 0

/-- The thread that runs the placed instruction. -/
def placeThread : Thread :=
  { pc := BitVec.ofNat 58 placeVa
    ctrl := { remain := 0x100000 }
    run := { st := .running, desc := some { entry := BitVec.ofNat 58 placeVa }, restart := true } }

/-- The state with an instruction's words placed. -/
def State.place (s : State) (ws : List W32) : State :=
  let n := placeNode ws
  let s := (s.placeTables).put placePa (bytesOfWords ws)
  let s := s.modCell n fun c =>
    { c.setThread 0 placeThread with
      err := { c.err with grants := vset c.err.grants 0 (if isChan n then 0x10000000#64 else 0xff_f0_10_00_c0_00_00_00#64) }
      sched := { c.sched with slotCtx := vset c.sched.slotCtx 0 (some 0) } }
  { s with
    ctxs := assocSet s.ctxs 0 { words := #v[BitVec.ofNat 64 (0x8000000000000000 + placeRoot), 0, 0, 0, 0, 0, 0, 0] }
    cur := (n, 0), blocked := false, schedule := [], ticks := [] }

end Sys2Proof.Machine
end

