-- ==== Sys2Proof/Machine/Progress.lean ====
section
/-! DEFINITION. What the device does by itself when its current thread has had its turn or has nothing to issue: the first of its activities that has
something to do, else the turn passes (log 2). Activities that a timer, a measurement or a party outside starts come through
State.schedule. -/

namespace Sys2Proof.Machine

/-- What a stopped device still takes: power, supply and alarms, the security core's requests, and the host's own memory (R326, R353 to
R355). -/
def whenStopped : Instr → Bool
  | .powerUp | .powerGoodLoss | .recoveryImage _ | .attestationRequest _ | .overCurrent | .overVoltage | .underVoltage | .supplyRecovery _
  | .coolantFault _ _ | .slopeBreach | .tamperAlarm | .glitchAlarm | .overtempAlarm | .standbyDomainPowerLoss => true
  | .hostMemoryAccess _ pa _ => decide (spaceOf pa.toNat = .host)
  | _ => false
/-- One event for each element of a list. -/
def each {α : Type} (l : List α) (f : α → State → Out) : List (State → Out) := l.map f
def State.nodeIds (s : State) : List Nat := s.cells.map Prod.fst
/-- Every thread of the nodes that stand in State. -/
def State.threadIds (s : State) : List (Nat × Nat) := s.cells.flatMap fun p => p.2.threads.map fun q => (p.1, q.1)

/-- The event of a message's arrival (R255). -/
def arrival (m : Msg) : State → Out :=
  let k := m.id
  if m.malformed then execMalformedMessage k
  else match m.cls.toNat, m.kind.toNat with
  | 0, 0x00 => execMsgLoad k
  | 0, 0x01 => execMsgStore k
  | 0, 0x02 => execMsgAmo k
  | 0, 0x03 => execMsgCas k
  | 0, 0x04 => execMsgDecn k
  | 0, 0x05 => execMsgSend k
  | 0, 0x06 => execMsgCpy k
  | 0, 0x07 => execMsgCpym k
  | 0, 0x08 => execMsgColl k
  | 0, 0x0A => execMsgSpawn k
  | 0, 0x0B => execMsgBara k
  | 0, 0x0C => execMsgBarx k
  | 0, 0x0D => execMsgArm k
  | 1, 0x00 => execMsgData k
  | 1, 0x01 => execMsgAck k
  | 1, 0x02 => execMsgInvack k
  | 1, 0x03 => execMsgNack k
  | 2, 0x00 => execMsgLine m.dst k
  | 3, 0x00 => execMsgContrib k
  | 3, 0x01 => execMsgResult k
  | 4, 0x00 => execMsgInval k
  | 4, 0x10 => execMsgTaskmove k
  | 4, 0x11 => execMsgStroke k
  | 4, 0x12 => execMsgAccuse k
  | 4, 0x13 => execMsgFence k
  | 5, 0x11 => execMsgStroke k
  | 5, 0x13 => execMsgFence k
  | 5, 0x20 => execMsgFault k
  | 5, 0x21 => execMsgFenced k
  | 5, 0x22 => execMsgTest k
  | 5, 0x23 => execMsgAppeal k
  | 5, 0x24 => execMsgAdmit k
  | 5, 0x25 => execMsgRefuse k
  | 5, 0x26 => execMsgReopen k
  | 5, 0x27 => execMsgFreeze k
  | _, _ => execMalformedMessage k

/-- Threads: ends of runs, with the budgets that go on in them (R269), and redeliveries under way (R380). -/
def State.threadEvents (s : State) : List (State → Out) :=
  s.threadIds.flatMap fun p =>
    let r := (s.thread p.1 p.2).run
    (if r.ending || r.halting then
      (if s.budgetOut p.1 p.2 then [execBudgetExpiry p.1 p.2] else []) ++ [execRunEnd p.1 p.2] else [])
      ++ (if r.rolling then [fun s => .next (s.redeliver p.1 p.2)] else [])
def State.resultEvents (s : State) : List (State → Out) :=
  s.threadIds.flatMap fun p => each (List.range (s.thread p.1 p.2).outs.length) fun k => execVariableLatencyResult p.1 p.2 k
/-- Wide units. -/
def State.wideEvents (s : State) : List (State → Out) :=
  s.nodeIds.flatMap fun n => ((List.range 4).filter fun k => !(vget (s.cell n).cores k).wuq.isEmpty).flatMap fun k =>
    [execWuInstructionComplete n k, execWuFault n k, execWuInstructionStart n k]
/-- Forward buffers, and lines at which something waits (R213). -/
def State.fwdEvents (s : State) : List (State → Out) :=
  s.cells.flatMap fun p =>
    (if p.2.mem.pending.isEmpty then [] else [fun s => .next (s.serveLines p.1)])
      ++ p.2.mem.fwd.flatMap fun e => [execSlotInject p.1 e.msg.id, execRetryTimer p.1 e.msg.id]
/-- Engines. -/
def State.engineEvents (s : State) : List (State → Out) :=
  s.cells.flatMap fun p => p.2.mem.engines.flatMap fun c =>
    [execEngineCommandBegin p.1 c.id,
      if c.stopped then execEngineFault p.1 c.id else if c.isColl then execCollComplete p.1 c.id
      else if c.isBox then execCpymComplete p.1 c.id else execCpyComplete p.1 c.id]
/-- Schedulers. -/
def State.schedEvents (s : State) : List (State → Out) :=
  s.cells.flatMap fun p =>
    (if p.2.sched.fired.isEmpty then [] else [execDescriptorInsert p.1])
      ++ (if p.2.sched.depth = 0 ∧ p.2.sched.moves = [] then [] else [execPop p.1, execBalanceMoveSend p.1])
      ++ each ((List.range 4).filter fun k => decide (p.2.sched.slotState (BitVec.ofNat 2 k) = 1)) (execCtxSlotOut p.1)
      ++ each (List.range p.2.sched.timers.length) fun k => execBarrierTimeout p.1 k
/-- Debug writes that waited for their thread, teardowns, commands, repairs, migrations and clocks. -/
def State.coxEvents (s : State) : List (State → Out) :=
  [fun s => .next s.flushHeld] ++ each s.cox.teardowns execContextTeardown
    ++ [execCmdNop, execCmdIllegal, execCmdLaunch, execCmdCtxsetIn, execCmdCtxsetDrain, execCmdLinkmap, execLinkmapDrainEnd false]
def State.repairEvents (s : State) : List (State → Out) :=
  let lids := (s.lpt.filter fun e => decide (e.1 < 2048) && decide (lptState e.2 = 2)).map Prod.fst
  (lids.flatMap fun l => each (List.range 8) fun d => execLptEntryFenced d l) ++ each lids execRemapToSpare
def State.powerEvents (s : State) : List (State → Out) :=
  [execBoostWindowExpiry, execBoostRecoveryEnd] ++ s.cells.flatMap fun p =>
    if isChan p.1 then []
    else
      (if p.2.power.op = p.2.nextOp then [] else [execOpStep p.1]) ++ (if p.2.power.ret then [execRetentionWake p.1] else [])
        ++ (if p.2.power.mig.isSome then [execMigrationCopy p.1, execMigrationSwitch p.1, execMigrationDrain p.1] else [])
/-- Ports whose queue has called for a wake (R361). -/
def State.portEvents (s : State) : List (State → Out) :=
  each ((List.range 8).filter fun p => (vget s.ports p).call) execAutomaticWake

/-- Everything that the device may do by itself, in the order in which it is tried. -/
def State.events (s : State) : List (State → Out) :=
  if s.misc.stopped then []
  else
    s.threadEvents ++ s.resultEvents ++ s.wideEvents ++ each s.net arrival ++ s.fwdEvents ++ s.engineEvents ++ s.schedEvents
      ++ s.coxEvents ++ s.repairEvents ++ s.powerEvents ++ s.portEvents
/-- The state after the first event that changes it. -/
def State.tryEvents (s : State) : List (State → Out) → Option State
  | [] => none
  | f :: fs =>
    match f s with
    | .next t => if t = s then State.tryEvents s fs else some t
    | _ => State.tryEvents s fs
/-- One activity of the device, or the turn passes. -/
def State.progress (s : State) : State := (s.tryEvents s.events).getD s.rotate

end Sys2Proof.Machine
end

