-- ==== Sys2Proof/Machine/Step.lean ====
section
/-! DEFINITION. One step of the device: what its schedule names next; without a schedule, the current thread's next instruction while
it has not had its turn, then the device's own activities, then the next core's turn (log 2). -/

namespace Sys2Proof.Machine

/-- The current thread issues its next instruction, unless an earlier wide-unit instruction of it has faulted (R373), its budget has run out
(R269), or its fetch or decoding faults (R51). -/
def State.issueNext (s : State) : Out :=
  let (n, t) := s.cur
  if s.wideFaulted n t then execWuFault n (coreIx n t) s
  else if s.budgetOut n t then execBudgetExpiry n t s
  else
    match s.nextInstr n t with
    | .instr i ws => exec i (s.latch n t i ws)
    | .fetchFault f => execInstructionFetchFault f.cause f.addr f.detail s
    | .decodeFault c => execDecodeFault c s

/-- The current thread's turn, when its node exists and it has something to issue; else what the device does by itself. -/
def State.turn (s : State) : Out :=
  if !nodeOk s.cur.1 then .fault (.noSuchNode s.cur.1)
  else if s.canIssue then s.issueNext
  else .next s.progress

/-- The present cycle of one core. -/
def State.coreCycle (s : State) (n k : Nat) : Out :=
  if !nodeOk n then .next s
  else
    match s.picked n k with
    | some t => { s with cur := (n, t), blocked := false }.issueNext
    | none => .next (s.idleCycle n k)

/-- A scheduled event. A stopped device, whose cells and ports do nothing, takes only those of its sill (R326, R355). -/
def State.scheduled (s : State) (i : Instr) (rest : List Turn) : Out :=
  let s := { s with schedule := rest }
  if s.misc.stopped && !whenStopped i then .next s else exec i s

def step (s : State) : Host.Outcome State Fault Refusal :=
  let s := s.tick
  match s.schedule with
  | .event i :: rest => s.scheduled i rest
  | .core n k :: rest => { s with schedule := rest }.coreCycle n k
  | [] => s.turn

/-- The state with the instruction whose low `nbits` bits are those of `w` placed where `step` fetches next (log 8). -/
def State.withFetchWord (s : State) (nbits w : Nat) : State := s.place (tableWords (w % 2 ^ nbits))

end Sys2Proof.Machine
end

