-- ==== Sys2Proof/Safety.lean ====
section
/-! DEFINITION. The terms in which statements about the device are made: when an instruction of a thread issues, what it is to complete, to
transfer control, to trap or to wait; what counts as a good state; and runs. -/

namespace Sys2Proof.Machine

/-! ### When an instruction issues -/

/-- The thread whose turn it is, as an issue finds it: results due by its cycle have been written (R49). -/
def State.issuer (s : State) : Thread := s.startIssue.thread s.cur.1 s.cur.2

/-- An instruction of the current thread issues with operands `A` (R49 to R51, R57, R362, R364): the thread runs a task and has not issued
END or HALT, nor is it being rolled back; the core implements the instruction; every iteration of a repeat stays within the register files,
and this one is of them; each register that it names is full and, under the checking scoreboard, keeps its issue distance; nothing of the
thread's state that it reads holds an uncorrectable error; no checker mismatch is to come. -/
def Issues (i : Instr) (g : Sig) (A : Args) (s : State) : Prop :=
  i.sig = some g
    ∧ A = { argsOf g s.cur.1 s.cur.2 s.issuer.ctrl.repIdx.toNat (vaOf s.issuer.pc) with word := subjectWord i }
    ∧ ((s.thread s.cur.1 s.cur.2).run.st = .running ∧ (s.thread s.cur.1 s.cur.2).run.ending = false
        ∧ (s.thread s.cur.1 s.cur.2).run.halting = false ∧ (s.thread s.cur.1 s.cur.2).run.rolling = false
        ∧ (s.thread s.cur.1 s.cur.2).run.mismatch = 0)
    ∧ coreRuns s.cur.1 i = true ∧ repInRange g = true ∧ s.issuer.ctrl.repIdx.toNat < g.ctl.count
    ∧ (∀ p ∈ A.regs g, s.issuer.full p.1 p.2 = true)
    ∧ (s.issuer.ctrl.scoreEn = true → ∀ p ∈ A.regs g, ∀ q ∈ s.issuer.score, q.file = p.1 → q.reg = p.2 → q.left = 0)
    ∧ A.damaged i g s.startIssue = false

/-- Under a condition on operands and state. -/
abbrev Cond := Args → State → Prop
/-- Under none. -/
def always : Cond := fun _ _ => True

/-- Wherever the instruction issues and the condition holds, it completes, and its effect is `eff`. -/
def Does (i : Instr) (when_ : Cond) (eff : Args → State → State) : Prop :=
  ∀ g A s, Issues i g A s → when_ A s.startIssue → exec i s = .next ((eff A s.startIssue).completes A)
/-- It completes with the effect `eff` and transfers control to `dst`. -/
def Jumps (i : Instr) (when_ : Cond) (eff : Args → State → State) (dst : Args → State → Word) : Prop :=
  ∀ g A s, Issues i g A s → when_ A s.startIssue → exec i s = .next ((eff A s.startIssue).completesTo A (dst A s.startIssue))
/-- It takes a precise trap, and nothing else changes (R373). -/
def Traps (i : Instr) (when_ : Cond) (f : Args → State → Fail) : Prop :=
  ∀ g A s, Issues i g A s → when_ A s.startIssue → exec i s = .next (s.startIssue.trapAt A (f A s.startIssue))
/-- It stays at its address, and its thread tries again; `eff` is what the attempt leaves. -/
def Waits (i : Instr) (when_ : Cond) (eff : Args → State → State) : Prop :=
  ∀ g A s, Issues i g A s → when_ A s.startIssue → exec i s = .next (s.startIssue.conclude A (.wait (eff A s.startIssue)))
/-- It issues, and its thread issues nothing more of its run. -/
def Stops (i : Instr) (when_ : Cond) (eff : Args → State → State) : Prop :=
  ∀ g A s, Issues i g A s → when_ A s.startIssue → exec i s = .next ((eff A s.startIssue).endIssue A A.gap true)
/-- It completes after writing a value of fixed latency `L` of which `P` holds to its destination register. -/
def Writes (i : Instr) (when_ : Cond) (L : Nat) (P : Args → State → Word → Prop) : Prop :=
  ∀ g A s, Issues i g A s → when_ A s.startIssue → ∃ v, P A s.startIssue v ∧ exec i s = .next ((s.startIssue.writeD A L v).completes A)
/-- It completes after issuing a value of variable latency of which `P` holds to its destination register. -/
def WritesVar (i : Instr) (when_ : Cond) (P : Args → State → Word → Prop) : Prop :=
  ∀ g A s, Issues i g A s → when_ A s.startIssue → ∃ v, P A s.startIssue v ∧ exec i s = .next ((s.startIssue.writeVarD A v).completes A)
/-- It completes, and of the state that its effect leaves `P` holds. -/
def Leaves (i : Instr) (when_ : Cond) (P : Args → State → State → Prop) : Prop :=
  ∀ g A s, Issues i g A s → when_ A s.startIssue → ∃ t, P A s.startIssue t ∧ exec i s = .next (t.completes A)

/-- The exact integer `i` fitted to `n` bits by SAT (R72): its low bits, or clamped to the signed or to the unsigned range. -/
def Fitted (sat : BitVec 2) (n : Nat) (i : Int) (v : BitVec n) : Prop :=
  (sat = 1 → v.toInt = max (-(2 ^ (n - 1) : Int)) (min i (2 ^ (n - 1) - 1)))
    ∧ (sat = 2 → (v.toNat : Int) = max 0 (min i (2 ^ n - 1)))
    ∧ (sat = 0 → (v.toNat : Int) = i % 2 ^ n)
/-- A register operand read as SAT says (R104): unsigned under SAT 2, else signed. -/
def operand (sat : BitVec 2) (w : Word) : Int := if sat = 2 then w.toNat else w.toInt

/-- What an issue leaves unchanged: every part of the device but the issuing thread and its core, and of that thread every register that is
not in `dst` with its full/empty bit, the control registers but for what `forget` takes out of them, the pool, the loop addresses, the
gradient map and the task. The PC, the loop counts and the bookkeeping of the issue may change. -/
def Frame (A : Args) (dst : List (File × Nat)) (forget : Ctrl → Ctrl) (s t : State) : Prop :=
  (t.mem = s.mem ∧ t.poison = s.poison ∧ t.lpt = s.lpt ∧ t.phys = s.phys ∧ t.ctxs = s.ctxs ∧ t.tlb = s.tlb ∧ t.ports = s.ports
      ∧ t.cox = s.cox ∧ t.power = s.power ∧ t.sec = s.sec ∧ t.misc = s.misc ∧ t.net = s.net ∧ t.fab = s.fab)
    ∧ (∀ n, (t.cell n).wide = (s.cell n).wide ∧ (t.cell n).sched = (s.cell n).sched ∧ (t.cell n).mem = (s.cell n).mem
      ∧ (t.cell n).power = (s.cell n).power ∧ (t.cell n).net = (s.cell n).net ∧ (t.cell n).err = (s.cell n).err)
    ∧ (∀ n k, (n, k) ≠ (A.n, A.t) → t.thread n k = s.thread n k)
    ∧ (∀ fl r, (fl, r) ∉ dst →
      (t.thread A.n A.t).reg fl r = (s.thread A.n A.t).reg fl r ∧ (t.thread A.n A.t).full fl r = (s.thread A.n A.t).full fl r)
    ∧ forget (t.thread A.n A.t).ctrl = forget (s.thread A.n A.t).ctrl
    ∧ (t.thread A.n A.t).pool = (s.thread A.n A.t).pool ∧ (t.thread A.n A.t).lpStart = (s.thread A.n A.t).lpStart
    ∧ (t.thread A.n A.t).lpEnd = (s.thread A.n A.t).lpEnd ∧ (t.thread A.n A.t).gmap = (s.thread A.n A.t).gmap
    ∧ (t.thread A.n A.t).run.desc = (s.thread A.n A.t).run.desc ∧ (t.thread A.n A.t).run.outbox = (s.thread A.n A.t).run.outbox

/-- Its result is rounded once into a scalar format: it completes, `b` the delivered bits, with the flags ORed into FCSR.FL and, where an
inexact rounding was SR's, one generator step; `write` puts the bits into a register (R76, R82, R123). -/
def Delivers (i : Instr) (p : Prec) (mode : Args → State → BitVec 3) (op : Args → State → Op) (write : Args → Nat → State → State) : Prop :=
  Does i always fun A s =>
    let q := p.fmt.deliver false (mode A s) (A.th s).draw (op A s).v
    write A q.bits (s.modThread A.n A.t fun th =>
      { th with ctrl := { th.ctrl with
          fcsr := th.ctrl.fcsr ||| (q.flags ||| (op A s).flags).setWidth 64
          srs := if q.step = true ∧ mode A s = 6 then (srStep th.ctrl.srs).1 else th.ctrl.srs } })
/-- What po_result does with the exact value `v` and the flags `fl` of an operation at precision `p` (R129), in a state `pre` that the operand
reads have left: a finite nonzero value whose granules exceed the window traps with 0x12 under XE and is rounded to the window without;
an inexact result traps with 0x15 under XI; else the window and its pool granules receive it, FCSR.FL its flags, and `post` follows. -/
def PoDelivers (i : Instr) (when_ : Cond) (pre post : Args → State → State) (p : Args → State → Nat) (v : Args → State → Val)
    (fl : Args → State → BitVec 5) : Prop :=
  let u := pre
  let len : Args → State → Nat := fun A s => if winV (A.rd (u A s)) then winLen (A.rd (u A s)) else 0
  let wide : Args → State → Prop := fun A s => (∃ x, v A s = .num x ∧ x.zero = false) ∧ len A s < granCount (p A s)
  let xe : Cond := fun A s => wide A s ∧ precXe (A.th (u A s)).ctrl.prec = true
  let out : Args → State → Nat → PoRounded := fun A s q => poRound q (poMode A (u A s)) (A.th (u A s)).draw (v A s)
  let at_ : Args → State → Nat → Prop := fun A s q => (wide A s → q = 9 + 16 * len A s) ∧ (¬wide A s → q = p A s)
  let xi : Nat → Cond := fun q A s => precXi (A.th (u A s)).ctrl.prec = true ∧ (out A s q).flags.getLsbD 0 = true
  Traps i (fun A s => when_ A s ∧ xe A s) (fun _ _ => { cause := 0x12, detail := 1 })
    ∧ (∀ q, Traps i (fun A s => when_ A s ∧ ¬xe A s ∧ at_ A s q ∧ xi q A s) fun _ _ => { cause := 0x15 })
    ∧ ∀ q, Does i (fun A s => when_ A s ∧ ¬xe A s ∧ at_ A s q ∧ ¬xi q A s) fun A s =>
        post A (((u A s).modThread A.n A.t fun th =>
          let w := th.writeW A.fd A.d (out A s q).po
          { w with ctrl := { w.ctrl with
              fcsr := w.ctrl.fcsr ||| (fl A s ||| (out A s q).flags).setWidth 64
              srs := if (out A s q).step = true ∧ poMode A (u A s) = 6 then (srStep w.ctrl.srs).1 else w.ctrl.srs } }).windowDone A)

/-- An owner's write to lines of its node's own memory may be performed (R213): nothing waits for them and no sharer holds them, or the turn
of each of the claims that the owner has on them has come. -/
def State.mayWrite (s : State) (n owner : Nat) (lines : List Nat) : Prop :=
  (s.claims n owner = [] ∧ ∀ l ∈ lines, s.lineFree n l = true)
    ∨ (s.claims n owner ≠ [] ∧ (s.claims n owner).map PendReq.line = lines ∧ ∀ r ∈ s.claims n owner, s.atHead n r = true)

/-! ### Good states -/

/-- Every entry of the cell table that stands in State has a legal STATE and row (R15). -/
def State.lptOk (s : State) : Bool := s.lpt.all fun e => decide (lptState e.2 ≤ 2) && decide ((e.2.extractLsb' 4 5).toNat ≤ 16)
/-- A good state: memory in its canonical form, and a legal cell table. -/
def State.good (s : State) : Bool := s.mem.wf && s.lptOk

/-! ### Events -/

/-- The event goes through, and of the state that it answers `P` holds. -/
def Gives (i : Instr) (s : State) (P : State → Prop) : Prop := ∃ t, exec i s = .next t ∧ P t
/-- No port is closed to a neighbour and no fabric die is frozen: every message that is sent enters the network (R388). -/
def State.portsOpen (s : State) : Prop := (∀ n d, (s.vote n d).closed = false) ∧ ∀ n, (s.cell n).net.frozen = false
/-- `t` is `s` with one more message in the network, of which `p` holds. -/
def Sends (s t : State) (p : Msg → Prop) : Prop := ∃ m, t.net = s.net ++ [m] ∧ p m
/-- A cell's memory side has nothing that a write at its banks would first have to wait for or clear: no pending request, no sharer
(R213). -/
def State.quietBanks (s : State) (n : Nat) : Prop := (s.cell n).mem.pending = [] ∧ (s.cell n).mem.dir = []

/-! ### Runs -/

/-- The device does not stop: its step answers a next state. -/
def State.goesOn (s : State) : Prop := ∃ t, step s = .next t

/-- A run of `k` steps from a state. -/
inductive Runs : State → Nat → State → Prop where
  | start (s : State) : Runs s 0 s
  | step {s t u : State} {k : Nat} (h : Runs s k t) (e : Machine.step t = .next u) : Runs s (k + 1) u

end Sys2Proof.Machine
end

