-- ==== Sys2Proof/Certificates/Slice0/Obligations.lean ====
section
/-! DEFINITION. What is to be proved about the device. Each statement's docstring names the rules that it formalises; a number after
'log' names the assumption that a clause rests on. A statement of several groups of clauses is their conjunction. -/

open Sys2Proof Sys2Proof.Machine

/-- A step runs the instruction whose words stand at the current thread's PC (R51): with nothing scheduled, time has passed by what the
environment gives the step, and the next state is what the instruction's meaning answers there, the words of a repeated subject kept for
its later iterations (R47). A scheduled event is carried out as that event, unless the device has stopped and it is one of its cells or
ports (R326, R355). A scheduled turn of a core goes to the first of its threads, round-robin after the one that issued last, that may issue
in the core's present cycle; where none may, the cycle passes idle (R49). (Logs 2, 3 and 35 are the model's choice of turns, of time and
of the words of a repeat.)

A thread whose words cannot be fetched or decoded, whose budget has run out, or whose earlier wide-unit instruction has faulted takes that
fault instead (R51, R147, R269, R373): its next state is what WU_FAULT, BUDGET_EXPIRY, INSTRUCTION_FETCH_FAULT or DECODE_FAULT answers. -/
def Obligations.StepRunsDecodedInstruction : Prop :=
  let clear : State → Nat → Nat → Prop := fun u n t => u.wideFaulted n t = false ∧ u.budgetOut n t = false
  (
    (∀ (s : State) (n t : Nat) (ws : List W32) (i : Instr), s.schedule = [] → s.cur = (n, t) → nodeOk n = true → s.tick.canIssue = true →
      clear s.tick n t → s.tick.fetch n t = .ok ws → decodeWords ws = .ok i → step s = exec i (s.tick.latch n t i ws))
    ∧ (∀ (s : State) (i : Instr) (rest : List Turn), s.schedule = .event i :: rest → (s.misc.stopped = true → whenStopped i = true) →
      step s = exec i { s.tick with schedule := rest })
    ∧ (∀ (s : State) (i : Instr) (rest : List Turn), s.schedule = .event i :: rest → s.misc.stopped = true → whenStopped i = false →
      step s = .next { s.tick with schedule := rest })
    ∧ (∀ (s : State) (n k t : Nat) (rest : List Turn) (ws : List W32) (i : Instr), s.schedule = .core n k :: rest → nodeOk n = true →
      let u : State := { s.tick with schedule := rest }
      let v : State := { u with cur := (n, t), blocked := false }
      u.picked n k = some t → clear v n t → v.fetch n t = .ok ws → decodeWords ws = .ok i → step s = exec i (v.latch n t i ws))
    ∧ (∀ (s : State) (n k : Nat) (rest : List Turn), s.schedule = .core n k :: rest → nodeOk n = true →
      let u : State := { s.tick with schedule := rest }
      u.picked n k = none → step s = .next (u.idleCycle n k))
    ∧ (∀ (s : State) (n k t : Nat), s.picked n k = some t ↔
      ∃ j, 1 ≤ j ∧ j ≤ 4 ∧ t = 4 * k + ((vget (s.cell n).cores k).last + j) % 4 ∧ s.ready n t = true
        ∧ ∀ m, 1 ≤ m → m < j → s.ready n (4 * k + ((vget (s.cell n).cores k).last + m) % 4) = false)
    ∧ (∀ s : State, s.tick.fab = s.fab + s.ticks.headD 1 ∧ s.tick.mem = s.mem ∧ s.tick.cur = s.cur ∧ s.tick.schedule = s.schedule
        ∧ s.tick.misc = s.misc ∧ ∀ n t, s.tick.thread n t = s.thread n t)
    ∧ (∀ (s : State) (n t : Nat) (i : Instr) (ws : List W32),
        let u := s.latch n t i ws
        u.mem = s.mem ∧ u.net = s.net ∧ u.cur = s.cur ∧ (∀ m k, (m, k) ≠ (n, t) → u.thread m k = s.thread m k)
          ∧ ∃ c, u.thread n t = { s.thread n t with run := { (s.thread n t).run with chain := c } }))
  ∧ (
    ∀ (s : State) (n t : Nat), s.schedule = [] → s.cur = (n, t) → nodeOk n = true → s.tick.canIssue = true →
      (s.tick.wideFaulted n t = true → step s = exec (.wuFault n (coreIx n t)) s.tick)
      ∧ (s.tick.wideFaulted n t = false → s.tick.budgetOut n t = true → step s = exec (.budgetExpiry n t) s.tick)
      ∧ (clear s.tick n t → ∀ f, s.tick.fetch n t = .error f → step s = exec (.instructionFetchFault f.cause f.addr f.detail) s.tick)
      ∧ (clear s.tick n t → ∀ ws c, s.tick.fetch n t = .ok ws → decodeWords ws = .error (.cause c) → step s = exec (.decodeFault c) s.tick))

/-- Words of the encodings of R37 to R57, of every family, with the instructions that they stand for.

A fifth prefix word raises cause 0x03; a prefix followed by a word with P = 0, and a word with P = 1 that no prefix precedes, raise
cause 0x02 (R48, R51). -/
def Obligations.WordsDecodeToTheirInstructions : Prop :=
  (
    decodeWords [0x0091A2A3#32, 0x9E0C5044#32] = .ok (.addi { imms := [0x48d15] } 5 6 0x278)
    ∧ decodeWords [0xFFFFFFE3#32, 0x6A0E7054#32] = .ok (.addi { stall := 2, imms := [0x7ffffff] } 7 7 0x1a8)
    ∧ decodeWords [0x00222093#32, 0x04108004#32] = .ok (.add { rep := some 0x11104 } 8 8 16)
    ∧ decodeWords [0x000001EF#32, 0x00CC9904#32] = .ok (.stB { mod := some 0xf } 6 9 3)
    ∧ decodeWords [0x00CE0640#32] = .ok (.loopi {} 0 7 3)
    ∧ decodeWords [0x0000648F#32, 0x00402545#32] = .ok (.podiv { mod := some 0x324 } 2 0 1)
    ∧ decodeWords [0x0000004F#32, 0x00C41045#32] = .ok (.faddD { mod := some 2 } 1 2 3)
    ∧ decodeWords [0x21400482#32, 0x00000100#32] = .ok (.mmad {} 4 0 0 5 0x100)
    ∧ decodeWords [0x08402A41#32] = .ok (.vadd {} 1 2 0 1)
    ∧ decodeWords [0x000C7F41#32] = .ok (.rvs {} 7 6)
    ∧ decodeWords [0x040C5B80#32] = .ok (.ldvD {} 5 6 0x10)
    ∧ decodeWords [0x01000E40#32] = .ok (.fence {} 4)
    ∧ decodeWords [0x00009302#32, 0x00000000#32] = .ok (.engp {} 9 0)
    ∧ decodeWords [0x0000004B#32, 0x020C5004#32] = .ok (.hld {} 5 6 8)
    ∧ decodeWords [0x0A0E0EC0#32] = .ok (.arm {} 7 8)
    ∧ decodeWords [0x40005F00#32] = .ok (.csrr {} 5 0x100))
  ∧ (
    (∀ (a b c d e : W32) (rest : List W32), isPfx a = true → isPfx b = true → isPfx c = true → isPfx d = true → isPfx e = true →
      decodeWords (a :: b :: c :: d :: e :: rest) = .error (.cause 0x03))
    ∧ (∀ (ps : List W32) (w : W32) (rest : List W32), (∀ p ∈ ps, isPfx p = true) → ps ≠ [] → ps.length ≤ 4 → isPfx w = false →
      w.getLsbD 2 = false → decodeWords (ps ++ w :: rest) = .error (.cause 0x02))
    ∧ (∀ (w : W32) (rest : List W32), isPfx w = false → w.getLsbD 2 = true → decodeWords (w :: rest) = .error (.cause 0x02)))

/-- Decoding the words that an instruction is encoded as gives it back, whatever words follow: no bit of any operand, prefix or STALL
field is dropped (R37 to R57). -/
def Obligations.EncodedInstructionsDecode : Prop :=
  ∀ (i : Instr) (rest : List W32), i.wf = true → i.isWord = true → decodeWords (encode i ++ rest) = .ok i

/-- What stands before every instruction's effect, in the order of R51: an instruction that the core lacks traps with cause 0x01 (R57); a
repeat that leaves the register file with 0x04 (R47); a repeat with no iteration left issues nothing and goes on; a register that is not
full keeps the thread waiting at its address (R50); a fixed-latency result not yet due traps with 0x11 under the checking scoreboard (R49);
a register or other piece of the thread's state that it reads whose storage holds an uncorrectable error traps with 0x50, DETAIL 1, and is
counted in UE (R364, R371), whether the scoreboard checks or not. Which control registers an instruction reads is log 109's choice. -/
def Obligations.ChecksBeforeEveryEffect : Prop :=
  ∀ (i : Instr) (g : Sig) (s : State), i.enc ≠ none → i.sig = some g →
    (s.thread s.cur.1 s.cur.2).run.st = .running → (s.thread s.cur.1 s.cur.2).run.ending = false →
    (s.thread s.cur.1 s.cur.2).run.halting = false → (s.thread s.cur.1 s.cur.2).run.rolling = false →
    let u := s.startIssue
    let th := s.issuer
    let A0 := argsOf g s.cur.1 s.cur.2 0 (vaOf (s.thread s.cur.1 s.cur.2).pc)
    let A := argsOf g s.cur.1 s.cur.2 th.ctrl.repIdx.toNat (vaOf th.pc)
    let more := th.ctrl.repIdx.toNat < g.ctl.count
    let early := ∃ p ∈ A.regs g, ∃ q ∈ th.score, q.file = p.1 ∧ q.reg = p.2 ∧ 0 < q.left
    (coreRuns s.cur.1 i = false → exec i s = .next (u.trapAt A0 { cause := 0x01 }))
    ∧ (coreRuns s.cur.1 i = true → repInRange g = false → exec i s = .next (u.trapAt A0 { cause := 0x04 }))
    ∧ (coreRuns s.cur.1 i = true → repInRange g = true → ¬more →
        exec i s = .next (((u.advance A0).endIssue A0 1 false).afterStep A0.n A0.t))
    ∧ (coreRuns s.cur.1 i = true → repInRange g = true → more → (∃ p ∈ A.regs g, th.full p.1 p.2 = false) →
        exec i s = .next (u.conclude A0 (.wait u)))
    ∧ (coreRuns s.cur.1 i = true → repInRange g = true → more → (∀ p ∈ A.regs g, th.full p.1 p.2 = true) →
        th.ctrl.scoreEn = true → early →
        ∃ p ∈ A.regs g, exec i s = .next (u.trapAt A0 { cause := 0x11, detail := scoreDetail p }))
    ∧ (coreRuns s.cur.1 i = true → repInRange g = true → more → (∀ p ∈ A.regs g, th.full p.1 p.2 = true) →
        (th.ctrl.scoreEn = true → ¬early) → A.damaged i g u = true →
        exec i s = .next ((u.countUe s.cur.1).trapAt A0 { cause := 0x50, detail := 1 }))
    ∧ ((∃ p ∈ A.sources i g, Spot.reg p.1 p.2 ∈ th.run.bad) → A.damaged i g u = true)
    ∧ (th.run.bad = [] → A.damaged i g u = false)

/-- POWER_UP completes in every state before DEV_READY, whatever power-up finds: a firmware that verifies brings the device to DEV_READY at
STEP 6, one that does not stops it at step 2 with BOOT_ST 2 (R353, R403).

Where power-up finds no failure, every register holds what R404 and R405 give it: 128 spares, nothing remapped or unmapped; every thread
is FREE with its registers and memory zero, every full/empty bit full, FCSR 0, PREC 53, SRS 1; no context is valid, no launch stands, no
cell is fenced, and the cell table is the reset mapping; the host's memory is as it was, and OC_CAUSE outlives the loss of power, with LOST
set after a loss of the standby domain (R325). Before power-up the device is as State.reset.

The model's choices here: the values that R404 gives no number for (log 21), bulk space wholly zero and nothing listed of the host's
memory (log 22), what power-up finds as an input, none where nothing is said (log 94), and which image the flash holds (log 5). -/
def Obligations.PowerUpLeavesTheResetState : Prop :=
  (∀ s : State, s.misc.ready = false →
      (firmwareOk Config.flashImage = true → Gives .powerUp s fun t => t.misc.ready = true ∧ t.misc.step = 6 ∧ t.misc.stopped = false ∧ t.net = [])
      ∧ (firmwareOk Config.flashImage = false → Gives .powerUp s fun t =>
        t.misc.ready = false ∧ t.misc.step = 2 ∧ t.misc.stopped = true ∧ t.sec.boot = 2))
  ∧ (∀ s : State, s.misc.ready = false → s.misc.found = {} → firmwareOk Config.flashImage = true → Gives .powerUp s fun t =>
    (t.misc.ready = true ∧ t.misc.step = 6 ∧ t.misc.spares = 128 ∧ t.misc.remapped = 0 ∧ t.misc.unmapped = 0 ∧ t.sec.boot = 1
      ∧ t.sec.key = !s.sec.killed ∧ t.cox.launches = [] ∧ t.fab = 0
      ∧ t.power.ocCause = (if s.power.standbyLost then s.power.ocCause ||| 0x80 else s.power.ocCause))
    ∧ (∀ a, t.mem.get a = if a < 0x800000000000 then 0 else s.mem.get a)
    ∧ (∀ c, t.ctxEnt c = {}) ∧ (∀ p, (t.physEnt p).fenced = false)
    ∧ (∀ d lid, t.lptEntry d lid = lptReset lid)
    ∧ (∀ n k, (t.thread n k).run.st = .free ∧ (t.thread n k).fullX = -1 ∧ (t.thread n k).fullF = -1 ∧ (t.thread n k).fullW = -1
      ∧ (t.thread n k).ctrl.fcsr = 0 ∧ (t.thread n k).ctrl.prec = 53 ∧ (t.thread n k).ctrl.srs = 1
      ∧ (t.thread n k).ctrl.log2 = 20 ∧ (∀ r, (t.thread n k).reg .x r = 0 ∧ (t.thread n k).reg .f r = 0)))
  ∧ State.reset.misc.ready = false ∧ State.reset.misc.found = {} ∧ State.reset.mem = []

/-- The state after reset is good: memory in its canonical form, a legal cell table. -/
def Obligations.ResetIsGood : Prop := State.reset.good = true

/-- Every step keeps a state good, whatever the step is: an instruction, an event or the device's own progress. Memory keeps its canonical form, so that
equal memories are equal data (the model's own form), and every entry of the cell table that stands in State a legal STATE and row (R15). -/
def Obligations.GoodStatesStayGood : Prop :=
  ∀ s t : State, s.good = true → step s = .next t → t.good = true

/-- Names of cells and banks (R10, R11, R18): a logical cell id is z · 256 + y · 16 + x; the cube is a torus in which every cell has exactly six neighbours, one to each side in each dimension;
an offset of local memory lies in line o >> 6 and in bank (o >> 6) mod 3. In cell space bits [32:22] of an address name the cell, and offsets from 0x30_0000 on
are a hole. -/
def Obligations.CellsNeighboursAndBanks : Prop :=
  (∀ x y z : Nat, x < 16 → y < 16 → z < 8 → cellId x y z = z * 256 + y * 16 + x ∧ cellId x y z < 2048
    ∧ xOf (cellId x y z) = x ∧ yOf (cellId x y z) = y ∧ zOf (cellId x y z) = z)
  ∧ (∀ n : Nat, n < 2048 → xOf n < 16 ∧ yOf n < 16 ∧ zOf n < 8 ∧ cellId (xOf n) (yOf n) (zOf n) = n)
  ∧ (∀ n : Nat, n < 2048 →
      let at_ : Nat → Nat × Nat × Nat → Prop := fun d p => (xOf (neighbour n d), yOf (neighbour n d), zOf (neighbour n d)) = p ∧ neighbour n d < 2048
      at_ 0 ((xOf n + 1) % 16, yOf n, zOf n) ∧ at_ 1 ((xOf n + 15) % 16, yOf n, zOf n) ∧ at_ 2 (xOf n, (yOf n + 1) % 16, zOf n)
        ∧ at_ 3 (xOf n, (yOf n + 15) % 16, zOf n) ∧ at_ 4 (xOf n, yOf n, (zOf n + 1) % 8) ∧ at_ 5 (xOf n, yOf n, (zOf n + 7) % 8)
        ∧ (∀ d e, d < 6 → e < 6 → neighbour n d = neighbour n e → d = e) ∧ ∀ d, d < 6 → neighbour (neighbour n d) (backDir d) = n)
  ∧ (∀ n o : Nat, n < 2048 → o < 0x300000 → bankOf n o = o >>> 6 % 3 ∧ lineOf (nodeBase n + o) = nodeBase n + 64 * (o >>> 6)
      ∧ homeOf (nodeBase n + o) = some (n, o) ∧ nodeBase n + o = n <<< 22 + o)
  ∧ (∀ n o : Nat, n < 2048 → 0x300000 ≤ o → o < 0x400000 → homeOf (n <<< 22 + o) = none)

/-- A result of fixed latency L is in its register from L cycles after the issue on, and no other register of the thread, no other thread
of the device and no byte of memory changes by it (R49); x0 discards it (R26).

x0 reads 0 in every state, is full in every state, and a write to it changes nothing (R26).

Variable-latency results (R50): at the issue the destination turns empty, and VARIABLE_LATENCY_RESULT of an outstanding result that waits
for no message writes the value, makes the register full and takes the result away; fixed-latency results due by then are written before it.
Other registers, other threads and memory stay. -/
def Obligations.RegisterResults : Prop :=
  (
    ∀ (s : State) (A : Args) (L : Nat) (fl : File) (r : Nat) (v : Word),
      let t := s.writeFixed A L fl r v
      (fl = .x ∨ fl = .f → ¬(fl = .x ∧ r = 0) → r < 32 → ((t.thread A.n A.t).settle (s.now A.n A.t + L)).reg fl r = v)
      ∧ (fl = .q → r < 8 → ((t.thread A.n A.t).settle (s.now A.n A.t + L)).reg fl r = v)
      ∧ (fl = .x ∧ r = 0 → t = s)
      ∧ (∀ fl' r', (fl', r') ≠ (fl, r) →
          ((t.thread A.n A.t).settle (s.now A.n A.t + L)).reg fl' r' = ((s.thread A.n A.t).settle (s.now A.n A.t + L)).reg fl' r')
      ∧ (∀ n k, (n, k) ≠ (A.n, A.t) → t.thread n k = s.thread n k)
      ∧ t.mem = s.mem)
  ∧ (
    ∀ (th : Thread) (v : Word) (b : Bool), th.reg .x 0 = 0 ∧ th.full .x 0 = true ∧ th.setReg .x 0 v = th ∧ th.setFull .x 0 b = th
      ∧ ∀ (s : State) (A : Args), s.writeVar A .x 0 v = s)
  ∧ (
    (∀ (s : State) (A : Args) (fl : File) (r : Nat) (v : Word), ¬(fl = .x ∧ r = 0) → (fl = .x ∨ fl = .f ∨ fl = .w) → r < 32 →
      let t := s.writeVar A fl r v
      (t.thread A.n A.t).full fl r = false ∧ (t.thread A.n A.t).outs = (s.thread A.n A.t).outs ++ [{ file := fl, reg := r, value := v }]
        ∧ (∀ fl' r', (t.thread A.n A.t).reg fl' r' = (s.thread A.n A.t).reg fl' r') ∧ t.mem = s.mem)
    ∧ (∀ (s : State) (n k j : Nat) (o : Outst), (s.thread n k).outs[j]? = some o → o.wait = none → o.held = false →
      ¬(o.file = .x ∧ o.reg = 0) → (o.file = .x ∨ o.file = .f) → o.reg < 32 →
      ∃ t, exec (.variableLatencyResult n k j) s = .next t
        ∧ (t.thread n k).reg o.file o.reg = o.value ∧ (t.thread n k).full o.file o.reg = true
        ∧ (t.thread n k).outs = (s.thread n k).outs.eraseIdx j
        ∧ (∀ fl r, (fl, r) ≠ (o.file, o.reg) →
            (t.thread n k).reg fl r = ((s.thread n k).settle (s.now n k)).reg fl r ∧ (t.thread n k).full fl r = (s.thread n k).full fl r)
        ∧ (∀ n' k', (n', k') ≠ (n, k) → t.thread n' k' = s.thread n' k') ∧ t.mem = s.mem))

/-- The sums, differences, products and left shifts of R103, R106, R107 and R110, fitted by SAT (R104): register operands are signed under
SAT 0 and 1 and unsigned under SAT 2, an immediate or constant operand stays signed. The constant word is read as a local load.

Immediates (R43): without PFX.IMM a field is sign-extended; one PFX.IMM puts 27 bits above it, and the whole is sign-extended; two put
54 bits above it, and the low 64 of the result count.
ADDIW's latency of 1 is log 124's choice. -/
def Obligations.FittedArithmetic : Prop :=
  (
    ∀ (c : Ctl) (d a b : BitVec 5) (i : BitVec 10) (k6 : BitVec 6) (k : BitVec 8) (w2 : BitVec 32),
      let rr : (Int → Int → Int) → Args → State → Word → Prop := fun f A s v =>
        Fitted c.satMode 64 (f (operand c.satMode (A.ra s)) (operand c.satMode (A.rb s))) v
      let ri : (Int → Int → Int) → Word → Args → State → Word → Prop := fun f m A s v =>
        Fitted c.satMode 64 (f (operand c.satMode (A.ra s)) m.toInt) v
      let off : Args → State → Nat := fun A s => constOff A.n A.t (A.slot s) k
      let clean : Cond := fun A s => s.poisoned (nodeBase A.n + off A s) = false
      let rc : (Int → Int → Int) → Args → State → Word → Prop := fun f A s v =>
        Fitted c.satMode 64 (f (operand c.satMode (A.ra s)) (s.readWord (nodeBase A.n + off A s)).toInt) v
      Writes (.add c d a b) always 1 (rr (· + ·)) ∧ Writes (.sub c d a b) always 1 (rr (· - ·))
      ∧ Writes (.mul c d a b) always 3 (rr (· * ·))
      ∧ Writes (.shl c d a b) always 1 (fun A s v => Fitted c.satMode 64 (operand c.satMode (A.ra s) * 2 ^ ((A.rb s).toNat % 64)) v)
      ∧ Writes (.addi c d a i) always 1 (ri (· + ·) (c.imm i)) ∧ Writes (.muli c d a i) always 3 (ri (· * ·) (c.imm i))
      ∧ Writes (.addiw c d a w2) always 1 (ri (· + ·) (c.imm w2))
      ∧ Writes (.shli c d a k6) always 1 (fun A s v => Fitted c.satMode 64 (operand c.satMode (A.ra s) * 2 ^ k6.toNat) v)
      ∧ Writes (.addc c d a k) clean 3 (rc (· + ·)) ∧ Writes (.subc c d a k) clean 3 (rc (· - ·))
      ∧ Writes (.mulc c d a k) clean 5 (rc (· * ·))
      ∧ Writes (.ldc c d k) clean 3 (fun A s v => v = s.readWord (nodeBase A.n + off A s)))
  ∧ (
    ∀ (c : Ctl) (i : BitVec 10) (w : BitVec 32) (p q : BitVec 27),
      (c.imms = [] → (c.imm i).toInt = i.toInt ∧ (c.imm w).toInt = w.toInt ∧ (c.immU i).toNat = i.toNat)
      ∧ (c.imms = [p] → (c.imm i).toInt = p.toInt * 1024 + i.toNat ∧ (c.imm w).toInt = p.toInt * 2 ^ 32 + w.toNat
          ∧ (c.immU i).toNat = p.toNat * 1024 + i.toNat)
      ∧ (c.imms = [p, q] → (c.imm i).toInt = p.toInt * 2 ^ 37 + q.toNat * 1024 + i.toNat
          ∧ (c.imm w).toNat = (p.toNat * 2 ^ 59 + q.toNat * 2 ^ 32 + w.toNat) % 2 ^ 64))

/-- The logic, shift, rotation, comparison, minimum, maximum and high-product forms of R103 and R106, LIW (R110), the extensions of R108, and
QSET and QGET (R109): their values. Only bits [5:0] of a shift amount count.

CLZ, CTZ and POPC count leading zeros, trailing zeros and one bits, with 64 for the zeros of 0 (R103); RDCYC gives the fabric cycles since
DEV_READY (R111).
LIW's latency of 1 is log 124's choice. -/
def Obligations.IntegerResults : Prop :=
  (
    ∀ (c : Ctl) (d a b : BitVec 5) (i : BitVec 10) (k : BitVec 6) (w2 : BitVec 32),
      let rr : (Word → Word → Word) → Args → State → Word → Prop := fun f A s v => v = f (A.ra s) (A.rb s)
      let r1 : (Word → Word) → Args → State → Word → Prop := fun f A s v => v = f (A.ra s)
      let one : Bool → Word := fun p => if p then 1 else 0
      (Writes (.and c d a b) always 1 (rr (· &&& ·)) ∧ Writes (.or c d a b) always 1 (rr (· ||| ·)) ∧ Writes (.xor c d a b) always 1 (rr (· ^^^ ·))
        ∧ Writes (.shr c d a b) always 1 (rr fun x y => x >>> (y.toNat % 64)) ∧ Writes (.sha c d a b) always 1 (rr fun x y => x.sshiftRight (y.toNat % 64))
        ∧ Writes (.rol c d a b) always 1 (rr fun x y => (x <<< (y.toNat % 64)) ||| (x >>> (64 - y.toNat % 64)))
        ∧ Writes (.ror c d a b) always 1 (rr fun x y => (x >>> (y.toNat % 64)) ||| (x <<< (64 - y.toNat % 64)))
        ∧ Writes (.slt c d a b) always 1 (rr fun x y => one (decide (x.toInt < y.toInt))) ∧ Writes (.sltu c d a b) always 1 (rr fun x y => one (decide (x.toNat < y.toNat)))
        ∧ Writes (.min c d a b) always 1 (fun A s v => v.toInt = min (A.ra s).toInt (A.rb s).toInt)
        ∧ Writes (.max c d a b) always 1 (fun A s v => v.toInt = max (A.ra s).toInt (A.rb s).toInt)
        ∧ Writes (.minu c d a b) always 1 (fun A s v => v.toNat = min (A.ra s).toNat (A.rb s).toNat)
        ∧ Writes (.maxu c d a b) always 1 (fun A s v => v.toNat = max (A.ra s).toNat (A.rb s).toNat)
        ∧ Writes (.mulh c d a b) always 3 (fun A s v => v.toInt = (A.ra s).toInt * (A.rb s).toInt / 2 ^ 64)
        ∧ Writes (.mulhu c d a b) always 3 (fun A s v => v.toNat = (A.ra s).toNat * (A.rb s).toNat / 2 ^ 64))
      ∧ (Writes (.andi c d a i) always 1 (r1 (· &&& c.imm i)) ∧ Writes (.ori c d a i) always 1 (r1 (· ||| c.imm i)) ∧ Writes (.xori c d a i) always 1 (r1 (· ^^^ c.imm i))
        ∧ Writes (.shri c d a k) always 1 (r1 fun x => x >>> k.toNat) ∧ Writes (.shai c d a k) always 1 (r1 fun x => x.sshiftRight k.toNat)
        ∧ Writes (.slti c d a i) always 1 (r1 fun x => one (decide (x.toInt < (c.imm i).toInt)))
        ∧ Writes (.sltiu c d a i) always 1 (r1 fun x => one (decide (x.toNat < (c.imm i).toNat)))
        ∧ Writes (.liw c d w2) always 1 (fun _ _ v => v = c.imm w2))
      ∧ (Writes (.sextB c d a) always 1 (fun A s v => v.toInt = ((A.ra s).extractLsb' 0 8).toInt) ∧ Writes (.sextH c d a) always 1 (fun A s v => v.toInt = ((A.ra s).extractLsb' 0 16).toInt)
        ∧ Writes (.sextW c d a) always 1 (fun A s v => v.toInt = ((A.ra s).extractLsb' 0 32).toInt) ∧ Writes (.zextB c d a) always 1 (r1 (· &&& 0xFF))
        ∧ Writes (.zextH c d a) always 1 (r1 (· &&& 0xFFFF)) ∧ Writes (.zextW c d a) always 1 (r1 (· &&& 0xFFFFFFFF))
        ∧ Writes (.qset c d a b) always 1 (fun A s v => v.extractLsb' 0 22 = (A.ra s).extractLsb' 0 22 ∧ v.extractLsb' 32 16 = (A.rb s).extractLsb' 0 16
            ∧ v.extractLsb' 22 10 = 0 ∧ v.extractLsb' 48 16 = 0)
        ∧ Writes (.qget c d a) always 1 (r1 id)))
  ∧ (
    ∀ (c : Ctl) (d a : BitVec 5),
      Writes (.clz c d a) always 3 (fun A s v =>
        ((A.ra s) = 0 → v.toNat = 64)
          ∧ ((A.ra s) ≠ 0 → v.toNat < 64 ∧ (A.ra s).getLsbD (63 - v.toNat) = true ∧ ∀ k, 63 - v.toNat < k → (A.ra s).getLsbD k = false))
      ∧ Writes (.ctz c d a) always 3 (fun A s v =>
        ((A.ra s) = 0 → v.toNat = 64)
          ∧ ((A.ra s) ≠ 0 → v.toNat < 64 ∧ (A.ra s).getLsbD v.toNat = true ∧ ∀ k, k < v.toNat → (A.ra s).getLsbD k = false))
      ∧ Writes (.popc c d a) always 3 (fun A s v => v.toNat = (List.range 64).countP fun k => (A.ra s).getLsbD k)
      ∧ Writes (.rdcyc c d) always 1 (fun _ s v => v = BitVec.ofNat 64 s.fab))

/-- Division writes a defined value for every operand (R105): quotients truncate towards zero and remainders take the dividend's sign; a zero
divisor saturates the quotient towards the dividend's sign and leaves the dividend as the remainder; −2^63 by −1 gives 2^63 − 1 and 0. Division takes
no SAT: a word with a nonzero one raises cause 0x01. -/
def Obligations.DivisionsAlwaysDefined : Prop :=
  ∀ (c : Ctl) (d a b : BitVec 5),
    WritesVar (.div c d a b) always (fun A s v =>
      let x := (A.ra s).toInt; let y := (A.rb s).toInt
      (y = 0 → 0 < x → v.toInt = 2 ^ 63 - 1) ∧ (y = 0 → x < 0 → v.toInt = -2 ^ 63) ∧ (y = 0 → x = 0 → v = 0)
        ∧ (x = -2 ^ 63 → y = -1 → v.toInt = 2 ^ 63 - 1) ∧ (y ≠ 0 → ¬(x = -2 ^ 63 ∧ y = -1) → v.toInt = x.tdiv y))
    ∧ WritesVar (.divu c d a b) always (fun A s v =>
      let x := (A.ra s).toNat; let y := (A.rb s).toNat
      (y = 0 → x ≠ 0 → v.toNat = 2 ^ 64 - 1) ∧ (y = 0 → x = 0 → v = 0) ∧ (y ≠ 0 → v.toNat = x / y))
    ∧ WritesVar (.rem c d a b) always (fun A s v =>
      let x := (A.ra s).toInt; let y := (A.rb s).toInt
      (y = 0 → v.toInt = x) ∧ (x = -2 ^ 63 → y = -1 → v = 0) ∧ (y ≠ 0 → v.toInt = x.tmod y))
    ∧ WritesVar (.remu c d a b) always (fun A s v =>
      let x := (A.ra s).toNat; let y := (A.rb s).toNat
      (y = 0 → v.toNat = x) ∧ (y ≠ 0 → v.toNat = x % y))
    ∧ (∀ (st : BitVec 3) (m : BitVec 27), m.extractLsb' 3 2 ≠ 0 → ∀ f ∈ [19#5, 20#5, 21#5, 22#5],
        decodeWords [m ++ 3#3 ++ 3#2, f ++ b ++ a ++ d ++ 0#6 ++ st ++ 1#1 ++ 0#2] = .error (.cause 0x01))
    ∧ (∀ st : BitVec 3, let w : BitVec 5 → W32 := fun f => f ++ b ++ a ++ d ++ 0#6 ++ st ++ 0#1 ++ 0#2
        decodeWords [w 19] = .ok (.div { stall := st } d a b) ∧ decodeWords [w 20] = .ok (.divu { stall := st } d a b)
          ∧ decodeWords [w 21] = .ok (.rem { stall := st } d a b) ∧ decodeWords [w 22] = .ok (.remu { stall := st } d a b))

/-- The frame of the integer instructions: of the issuing thread only the destination register, the PC, the loop counts and the issue's own
bookkeeping change; every other register, the control registers with FCSR, PREC and SRS among them, the pool, every other thread, every
byte of memory and every other part of the device stand. So it is of the forms with a constant word (R107), which also mark a pending
error where the word is poisoned. A thread that STEP let run freezes after that with cause 0x61 (R380).

The frame of the scalar floating-point instructions (R123 to R126): only the destination register, the sticky flags of FCSR, SRS, the PC, the loop counts and the
issue's own bookkeeping change; the other bits of FCSR, every other register, every other thread, every byte of memory and every other
part of the device stand. -/
def Obligations.ScalarInstructionsFrame : Prop :=
  (
    ∀ (c : Ctl) (d a b : BitVec 5) (i : BitVec 10) (k6 : BitVec 6) (w2 : BitVec 32) (k : BitVec 8),
      let W : Instr → Cond → Prop := fun i ok => ∀ g A s t, Issues i g A s → ok A s.startIssue → exec i s = .next t →
        ∃ u, Frame A [(A.fd, A.d)] (fun c => { c with repIdx := 0 }) s.startIssue u ∧ t = u.afterStep A.n A.t
          ∧ (s.issuer.run.stepping = false → t = u)
      let F : Instr → Prop := fun i => W i always
      let clean : Cond := fun A s =>
        s.poisoned (nodeBase A.n + constOff A.n A.t (A.slot s) k) = true → s.precise A.n (A.slot s) = false
      (F (.add c d a b) ∧ F (.sub c d a b) ∧ F (.and c d a b) ∧ F (.or c d a b) ∧ F (.xor c d a b) ∧ F (.shl c d a b) ∧ F (.shr c d a b)
        ∧ F (.sha c d a b) ∧ F (.rol c d a b) ∧ F (.ror c d a b) ∧ F (.slt c d a b) ∧ F (.sltu c d a b) ∧ F (.min c d a b) ∧ F (.max c d a b)
        ∧ F (.minu c d a b) ∧ F (.maxu c d a b) ∧ F (.mul c d a b) ∧ F (.mulh c d a b) ∧ F (.mulhu c d a b) ∧ F (.div c d a b)
        ∧ F (.divu c d a b) ∧ F (.rem c d a b) ∧ F (.remu c d a b) ∧ F (.clz c d a) ∧ F (.ctz c d a) ∧ F (.popc c d a))
      ∧ (F (.addi c d a i) ∧ F (.andi c d a i) ∧ F (.ori c d a i) ∧ F (.xori c d a i) ∧ F (.shli c d a k6) ∧ F (.shri c d a k6)
        ∧ F (.shai c d a k6) ∧ F (.slti c d a i) ∧ F (.sltiu c d a i) ∧ F (.muli c d a i) ∧ F (.liw c d w2) ∧ F (.addiw c d a w2))
      ∧ (F (.sextB c d a) ∧ F (.sextH c d a) ∧ F (.sextW c d a) ∧ F (.zextB c d a) ∧ F (.zextH c d a) ∧ F (.zextW c d a)
        ∧ F (.qset c d a b) ∧ F (.qget c d a) ∧ F (.rdcyc c d))
      ∧ (W (.ldc c d k) clean ∧ W (.addc c d a k) clean ∧ W (.subc c d a k) clean ∧ W (.mulc c d a k) clean))
  ∧ (
    ∀ (c : Ctl) (d a b e : BitVec 5),
      let F : Instr → Prop := fun i => ∀ g A s t, Issues i g A s → exec i s = .next t →
        ∃ u, Frame A [(A.fd, A.d)] (fun c => { c with repIdx := 0, srs := 0, fcsr := c.fcsr &&& ~~~31 }) s.startIssue u
          ∧ t = u.afterStep A.n A.t ∧ (s.issuer.run.stepping = false → t = u)
      (F (.faddS c d a b) ∧ F (.faddD c d a b) ∧ F (.fsubS c d a b) ∧ F (.fsubD c d a b) ∧ F (.fmulS c d a b) ∧ F (.fmulD c d a b)
        ∧ F (.fdivS c d a b) ∧ F (.fdivD c d a b) ∧ F (.fminS c d a b) ∧ F (.fminD c d a b) ∧ F (.fmaxS c d a b) ∧ F (.fmaxD c d a b)
        ∧ F (.fcsgnS c d a b) ∧ F (.fcsgnD c d a b) ∧ F (.fnsgnS c d a b) ∧ F (.fnsgnD c d a b) ∧ F (.fxsgnS c d a b) ∧ F (.fxsgnD c d a b)
        ∧ F (.fcmpqS c d a b) ∧ F (.fcmpqD c d a b) ∧ F (.fcmpsS c d a b) ∧ F (.fcmpsD c d a b))
      ∧ (F (.fsqrtS c d a) ∧ F (.fsqrtD c d a) ∧ F (.ftypeS c d a) ∧ F (.ftypeD c d a) ∧ F (.fcvF64F32 c d a) ∧ F (.fcvF32F64 c d a)
        ∧ F (.fcvI32F32 c d a) ∧ F (.fcvI64F32 c d a) ∧ F (.fcvI32F64 c d a) ∧ F (.fcvI64F64 c d a) ∧ F (.fcvU64F32 c d a)
        ∧ F (.fcvU64F64 c d a) ∧ F (.fcvF32I32 c d a) ∧ F (.fcvF32I64 c d a) ∧ F (.fcvF32U64 c d a) ∧ F (.fcvF64I32 c d a)
        ∧ F (.fcvF64I64 c d a) ∧ F (.fcvF64U64 c d a) ∧ F (.fgetD c d a) ∧ F (.fsetD c d a) ∧ F (.fgetS c d a) ∧ F (.fsetS c d a))
      ∧ (F (.fmaddS c d a b e) ∧ F (.fmaddD c d a b e) ∧ F (.fmsubS c d a b e) ∧ F (.fmsubD c d a b e)))

/-- A load whose destination is x0 is a touch, in every load form (R120, R121): the device makes no access and raises no fault, whatever the address; the cell's count of
touches rises by one, modulo 2^64, and nothing else of the device changes. -/
def Obligations.TouchesMakeNoAccess : Prop :=
  (∀ (c : Ctl) (d a : BitVec 5) (i : BitVec 10),
    let T : Instr → Prop := fun i => Does i (fun A _ => A.fd = .x ∧ A.d = 0) fun A s => s.touch A.n
    (T (.ldB c d a i) ∧ T (.ldH c d a i) ∧ T (.ldW c d a i) ∧ T (.ldD c d a i) ∧ T (.ldBu c d a i) ∧ T (.ldHu c d a i) ∧ T (.ldWu c d a i)
      ∧ T (.fldS c d a i) ∧ T (.fldD c d a i))
    ∧ (T (.ldvB c d a i) ∧ T (.ldvH c d a i) ∧ T (.ldvW c d a i) ∧ T (.ldvD c d a i) ∧ T (.ldvBu c d a i) ∧ T (.ldvHu c d a i) ∧ T (.ldvWu c d a i) ∧ T (.hld c d a i)))
  ∧ ∀ (s : State) (n : Nat), ((s.touch n).cell n).err = { (s.cell n).err with touch := (s.cell n).err.touch + 1 } ∧ (s.touch n).mem = s.mem
    ∧ (∀ m k, (s.touch n).thread m k = s.thread m k) ∧ (∀ m, m ≠ n → (s.touch n).cell m = s.cell m) ∧ ∀ m k, (s.thread m k).full .x 0 = true

/-- The checks of an access by offset, in their order (R119): the last byte at or above 0x30_0000 (0x4_0000 in a channel core, R251), the sum
taken exactly, is cause 0x25; an offset that is no multiple of the alignment 0x24; bytes outside the slot's grant 0x40. ADDR is the offset
and DETAIL names the access. -/
def Obligations.OffsetChecksInOrder : Prop :=
  ∀ (s : State) (n : Nat) (slot : BitVec 2) (o : Word) (len align acc : Nat), 0 < len →
    let lim := if n < 2048 then 0x300000 else 0x40000
    let f : BitVec 8 → Option Fail := fun c => some { cause := c, addr := o, detail := BitVec.ofNat 32 (4 * acc) }
    (lim ≤ o.toNat + len - 1 → s.checkLM n slot o len align acc = f 0x25)
    ∧ (o.toNat + len - 1 < lim → o.toNat % align ≠ 0 → s.checkLM n slot o len align acc = f 0x24)
    ∧ (o.toNat + len - 1 < lim → o.toNat % align = 0 →
        (s.checkLM n slot o len align acc = none ↔ inGrant (s.grant n slot) slot o.toNat len = true)
        ∧ (inGrant (s.grant n slot) slot o.toNat len = false → s.checkLM n slot o len align acc = f 0x40))
    ∧ ∀ (g : Word) (lo : Nat),
        let w := 0x800 * slot.toNat
        (inGrant g slot lo len = true ↔ ∀ x, lo ≤ x → x < lo + len →
          (w ≤ x ∧ x < w + 0x800) ∨ (max ((g.extractLsb' 12 10).toNat * 4096) 0x2000 ≤ x ∧ x < (g.extractLsb' 22 10).toNat * 4096))

/-- Loads by offset (R118 to R120, R366): a destination x0 makes the instruction a touch, which counts in TOUCH_DROP and makes no access; else a failing check of
R119 traps and changes nothing; else the bytes, lowest first, fill the low end of the destination, whose other bits are copies of the sign,
zeros, or for FLD.S ones. A poisoned line traps with 0x50 where PRECISE is set; otherwise the load completes and marks the thread's
pending error, of which the earliest operation of the run stands. The forms that sign-extend, zero-extend and box are stated each.

A constant word in a poisoned line (R107, R366): with PRECISE the instruction traps with cause 0x50; without, it completes on the word
and marks the pending error. -/
def Obligations.LocalLoads : Prop :=
  (
    ∀ (c : Ctl) (d a : BitVec 5) (i : BitVec 10),
      let off : Args → State → Word := fun A s => A.ra s + c.imm i
      let real : Args → Prop := fun A => ¬(A.fd = .x ∧ A.d = 0)
      let L : Instr → Nat → (Word → Nat → Bool) → Prop := fun i len top =>
        let filled : Args → State → Word → Prop := fun A s v =>
          (∀ k, k < len → v.extractLsb' (8 * k) 8 = s.mem.get (nodeBase A.n + (off A s).toNat + k)) ∧ ∀ j, 8 * len ≤ j → j < 64 → v.getLsbD j = top v j
        WritesVar i (fun A s => real A ∧ s.checkLM A.n (A.slot s) (off A s) len len 0 = none ∧ s.poisoned (nodeBase A.n + (off A s).toNat) = false) filled
        ∧ Leaves i (fun A s => real A ∧ s.checkLM A.n (A.slot s) (off A s) len len 0 = none ∧ s.poisoned (nodeBase A.n + (off A s).toNat) = true
              ∧ s.precise A.n (A.slot s) = false)
            (fun A s t => ∃ v, filled A s v ∧ t = (s.modThread A.n A.t fun th => th.failed (BitVec.ofNat 64 (off A s).toNat) 0).writeVarD A v)
        ∧ Traps i (fun A s => real A ∧ s.checkLM A.n (A.slot s) (off A s) len len 0 = none ∧ s.poisoned (nodeBase A.n + (off A s).toNat) = true
              ∧ s.precise A.n (A.slot s) = true) (fun A s => { cause := 0x50, addr := BitVec.ofNat 64 (off A s).toNat, detail := 0 })
        ∧ (∀ f, Traps i (fun A s => real A ∧ s.checkLM A.n (A.slot s) (off A s) len len 0 = some f) fun _ _ => f)
        ∧ Does i (fun A _ => ¬real A) (fun A s => s.touch A.n)
      let sign : Nat → Word → Nat → Bool := fun n v _ => v.getLsbD (n - 1)
      L (.ldB c d a i) 1 (sign 8) ∧ L (.ldH c d a i) 2 (sign 16) ∧ L (.ldW c d a i) 4 (sign 32) ∧ L (.ldD c d a i) 8 (sign 64)
      ∧ L (.ldBu c d a i) 1 (fun _ _ => false) ∧ L (.ldHu c d a i) 2 (fun _ _ => false) ∧ L (.ldWu c d a i) 4 (fun _ _ => false)
      ∧ L (.fldS c d a i) 4 (fun _ _ => true) ∧ L (.fldD c d a i) 8 (fun _ _ => true))
  ∧ (
    ∀ (c : Ctl) (d a : BitVec 5) (k : BitVec 8),
      let off : Args → State → Nat := fun A s => constOff A.n A.t (A.slot s) k
      let bad : Bool → Cond := fun p A s => s.poisoned (nodeBase A.n + off A s) = true ∧ s.precise A.n (A.slot s) = p
      let T : Instr → Prop := fun i => Traps i (bad true) fun A s => { cause := 0x50, addr := BitVec.ofNat 64 (off A s), detail := 0 }
      let M : Instr → Nat → ((sat : BitVec 2) → Word → Word → Word → Prop) → Prop := fun i L R =>
        Leaves i (bad false) fun A s t => ∃ v, R c.satMode (A.ra s) (s.readWord (nodeBase A.n + off A s)) v
          ∧ t = (s.modThread A.n A.t fun th => th.failed (BitVec.ofNat 64 (off A s)) 0).writeD A L v
      T (.ldc c d k) ∧ T (.addc c d a k) ∧ T (.subc c d a k) ∧ T (.mulc c d a k)
      ∧ M (.ldc c d k) 3 (fun _ _ w v => v = w)
      ∧ M (.addc c d a k) 3 (fun sat x w v => Fitted sat 64 (operand sat x + w.toInt) v)
      ∧ M (.subc c d a k) 3 (fun sat x w v => Fitted sat 64 (operand sat x - w.toInt) v)
      ∧ M (.mulc c d a k) 5 (fun sat x w v => Fitted sat 64 (operand sat x * w.toInt) v))
  ∧ (
    ∀ (th : Thread) (a : Word) (src : BitVec 32) (o : Nat),
      (th.failed a src).run.pendErr = (th.markErr a src th.run.ops).run.pendErr
      ∧ (th.run.pendErr = none → (th.markErr a src o).run.pendErr = some { addr := a, src := src, ord := o })
      ∧ (∀ e, th.run.pendErr = some e →
        (e.ord ≤ o → (th.markErr a src o).run.pendErr = some e) ∧ (o < e.ord → (th.markErr a src o).run.pendErr = some { addr := a, src := src, ord := o })))

/-- Stores by offset (R118, R119): a failing check traps and changes nothing; else exactly the bytes of the access change in memory, and they hold the low
bytes of the source, fitted under SAT for the byte, halfword and word forms as a signed number. No register of any thread changes. Where
the line's directory entry has overflowed, its entry of the overflow area is cleared too (R213, R214). While another cell's L1D still holds
the line or something waits for it at the bank, the store waits, with its claim put behind what waits (R213; log 10). -/
def Obligations.LocalStores : Prop :=
  ∀ (c : Ctl) (a b : BitVec 5) (i : BitVec 10),
    let pa : Args → State → Nat := fun A s => nodeBase A.n + (A.ra s + c.imm i).toNat
    let S : Instr → Nat → (Args → State → Nat → Byte → Prop) → Prop := fun i' len val =>
      Leaves i' (fun A s => s.mem.wf = true ∧ s.checkLM A.n (A.slot s) (A.ra s + c.imm i) len len 1 = none
          ∧ s.mayWrite A.n A.t [lineOf (pa A s)])
        (fun A s t => (∀ k, k < len → val A s k (t.mem.get (pa A s + k)))
          ∧ (∀ x, (x < pa A s ∨ pa A s + len ≤ x) →
              (∀ n o e, homeOf (pa A s) = some (n, o) → s.dirEnt n (lineOf (pa A s)) = some e → e.ovf = true →
                x < s.ovfEntry n e.place ∨ s.ovfEntry n e.place + 256 ≤ x) → t.mem.get x = s.mem.get x)
          ∧ (∀ n k fl r, (t.thread n k).reg fl r = (s.thread n k).reg fl r))
      ∧ Waits i' (fun A s => s.checkLM A.n (A.slot s) (A.ra s + c.imm i) len len 1 = none ∧ ¬s.mayWrite A.n A.t [lineOf (pa A s)])
        (fun A s => (s.claimLines A.n A.t [lineOf (pa A s)]).1)
      ∧ ∀ f, Traps i' (fun A s => s.checkLM A.n (A.slot s) (A.ra s + c.imm i) len len 1 = some f) fun _ _ => f
    let low : Args → State → Nat → Byte → Prop := fun A s k x => x = (A.rb s).extractLsb' (8 * k) 8
    let fit : Nat → Args → State → Nat → Byte → Prop := fun n A s k x =>
      ∃ v : BitVec n, Fitted c.satMode n (A.rb s).toInt v ∧ x = v.extractLsb' (8 * k) 8
    S (.stB c a b i) 1 (fit 8) ∧ S (.stH c a b i) 2 (fit 16) ∧ S (.stW c a b i) 4 (fit 32)
    ∧ S (.stD c a b i) 8 low ∧ S (.fstS c a b i) 4 low ∧ S (.fstD c a b i) 8 low

/-- Reads and writes of memory: a byte reads as it was last written, every other byte stands, a read of bytes gives the bytes that a write of
as many bytes put there, and the canonical form is kept.

The undo buffer (R367): a run's first write to a line keeps the line's bytes as they were and which bytes were written; later writes add
to the mask alone; with 32 lines kept, a write to one more clears RESTART. Another party's write takes its bytes out of the mask. -/
def Obligations.MemoryReadsWhatWasWritten : Prop :=
  (
    ∀ (s : State) (pa : Nat) (bs : List Byte), s.mem.wf = true →
      (s.put pa bs).mem.wf = true ∧ (s.put pa bs).bytes pa bs.length = bs
      ∧ (∀ a, a < pa ∨ pa + bs.length ≤ a → (s.put pa bs).mem.get a = s.mem.get a)
      ∧ (∀ lo hi a, (s.mem.clear lo hi).wf = true ∧ (s.mem.clear lo hi).get a = if lo ≤ a ∧ a < hi then 0 else s.mem.get a))
  ∧ (
    ∀ (th : Thread) (line : Nat) (before : List Byte) (m : BitVec 64),
      ((∀ u ∈ th.run.undo, u.line ≠ line) → th.run.undo.length < 32 →
        (th.logWrite line before m).run.undo = th.run.undo ++ [{ line := line, bytes := before, mask := m }] ∧ (th.logWrite line before m).run.restart = th.run.restart)
      ∧ ((∃ u ∈ th.run.undo, u.line = line) → (th.logWrite line before m).run.undo =
          th.run.undo.map fun u => if u.line = line then { u with mask := u.mask ||| m } else u)
      ∧ ((∀ u ∈ th.run.undo, u.line ≠ line) → 32 ≤ th.run.undo.length → (th.logWrite line before m).run.undo = th.run.undo ∧ (th.logWrite line before m).run.restart = false)
      ∧ ((th.unlogWrite line m).run.undo = th.run.undo.map fun u => if u.line = line then { u with mask := u.mask &&& ~~~m } else u))

/-- Conditional branches (R112): one that is taken goes to the chain's address plus four times the immediate, one that is not goes on after the
instruction; neither changes anything else. -/
def Obligations.BranchesGoWhereTheySay : Prop :=
  ∀ (c : Ctl) (a b : BitVec 5) (i : BitVec 10),
    let B : Instr → (Word → Word → Prop) → Prop := fun i' taken =>
      Jumps i' (fun A s => taken (A.ra s) (A.rb s)) (fun _ s => s) (fun A _ => A.pc + 4 * c.imm i)
      ∧ Does i' (fun A s => ¬taken (A.ra s) (A.rb s)) (fun _ s => s)
    (∀ st : BitVec 3, let w : BitVec 6 → W32 := fun m => i ++ b ++ a ++ m ++ st ++ 0#1 ++ 0#2
      decodeWords [w 0x10] = .ok (.beq { stall := st } a b i) ∧ decodeWords [w 0x11] = .ok (.bne { stall := st } a b i)
        ∧ decodeWords [w 0x12] = .ok (.blt { stall := st } a b i) ∧ decodeWords [w 0x13] = .ok (.bge { stall := st } a b i)
        ∧ decodeWords [w 0x14] = .ok (.bltu { stall := st } a b i) ∧ decodeWords [w 0x15] = .ok (.bgeu { stall := st } a b i))
    ∧ B (.beq c a b i) (fun x y => x = y) ∧ B (.bne c a b i) (fun x y => x ≠ y)
    ∧ B (.blt c a b i) (fun x y => x.toInt < y.toInt) ∧ B (.bge c a b i) (fun x y => y.toInt ≤ x.toInt)
    ∧ B (.bltu c a b i) (fun x y => x.toNat < y.toNat) ∧ B (.bgeu c a b i) (fun x y => y.toNat ≤ x.toNat)

/-- Jumps (R113): the target is computed from the old registers, the destination receives the address after the instruction with latency 1,
and control goes to the target.

Where a transfer leaves the thread (R113): at the target, whose bits [1:0] are 0, when bits [63:58] equal bit 57; otherwise the thread
freezes there with cause 0x20, and the packet's PC and ADDR are the target. A repeat's iteration count starts again at 0.

How an instruction completes without a transfer (R47, R115): while iterations of its repeat remain, the next one; else the loop check gives
the next address. A thread that STEP let run freezes with cause 0x61 at its next address (R380). That the freeze of a transfer to a
non-canonical target comes at once, with the link written and the target as the packet's PC, is log 29's choice; that the packet of STEP
names the next address is log 30's.
The latency of the links of JAL and JALW is log 124's. -/
def Obligations.JumpsLinkAndTransfer : Prop :=
  (
    ∀ (c : Ctl) (d a : BitVec 5) (i : BitVec 10) (j : BitVec 15) (w2 : BitVec 32),
      Jumps (.jal c d j) always (fun A s => s.writeD A 1 A.nxt) (fun A _ => A.pc + 4 * c.imm j)
      ∧ Jumps (.jalr c d a i) always (fun A s => s.writeD A 1 A.nxt) (fun A s => (A.ra s + c.imm i) &&& ~~~3)
      ∧ Jumps (.jalw c d w2) always (fun A s => s.writeD A 1 A.nxt) (fun A _ => A.pc + 4 * c.imm w2))
  ∧ (
    ∀ (s : State) (A : Args) (pc : Word),
      let t := s.transfer A pc
      let th := s.thread A.n A.t
      (canonical pc = true → (th.run.stepping = false ∨ th.run.st ≠ .running) →
        t = s.modThread A.n A.t fun th =>
          { th with pc := pc.setWidth 58 &&& ~~~3, ctrl := { th.ctrl with repIdx := 0 }, run := { th.run with chain := none } })
      ∧ (canonical pc = false → (t.thread A.n A.t).run.st = .frozen ∧ (t.thread A.n A.t).run.cause = 0x20
          ∧ (t.thread A.n A.t).run.packet[1]? = some pc ∧ (t.thread A.n A.t).run.packet[2]? = some pc)
      ∧ (canonical pc = true ↔ ∀ k, 58 ≤ k → k < 64 → pc.getLsbD k = pc.getLsbD 57))
  ∧ (
    ∀ (s : State) (A : Args),
      let th := s.thread A.n A.t
      (th.ctrl.repIdx.toNat + 1 < A.ctl.count → (s.advance A).thread A.n A.t = { th with ctrl := { th.ctrl with repIdx := th.ctrl.repIdx + 1 } })
      ∧ (A.ctl.count ≤ th.ctrl.repIdx.toNat + 1 →
          (s.advance A).thread A.n A.t =
            { (loopEdge th A.pc A.nxt 4).1 with
              pc := (loopEdge th A.pc A.nxt 4).2.setWidth 58
              ctrl := { (loopEdge th A.pc A.nxt 4).1.ctrl with repIdx := 0 }
              run := { (loopEdge th A.pc A.nxt 4).1.run with chain := none } })
      ∧ (∀ n k, (n, k) ≠ (A.n, A.t) → (s.advance A).thread n k = s.thread n k) ∧ (s.advance A).mem = s.mem
      ∧ (th.run.stepping = true → th.run.st = .running →
          s.afterStep A.n A.t = s.takeTrap A.n A.t 0x61 false (s.repAt A.n A.t) (vaOf th.pc) 0 0)
      ∧ (th.run.stepping = false → s.afterStep A.n A.t = s))

/-- LOOP and LOOPI (R114): the three registers of the set hold the next address, the last body instruction's address and the low half of the
count; with a count of 0 control goes past the last body instruction, whose words must be fetched and have the shape of a chain, or the
loop instruction traps and no loop register changes; R115 is not applied to that transfer (log 83, the model's reading). An immediate of 0 raises
cause 0x01.

The check that closes a loop (R115), from set 3 down: a set whose count is not 0 and that ends at the completing instruction counts down;
if the count is still not 0 control goes to its start and lower sets are not looked at, else the next lower set is checked. -/
def Obligations.LoopsOpenAndClose : Prop :=
  (
    ∀ (c : Ctl) (d a b : BitVec 5) (i : BitVec 10),
      let opened : Word → Args → State → State := fun last A s =>
        s.modThread A.n A.t fun th =>
          { th with lpStart := vset th.lpStart A.d (A.nxt &&& 0x3FFFFFFFFFFFFFF), lpEnd := vset th.lpEnd A.d (last &&& 0x3FFFFFFFFFFFFFF)
                    lpCount := vset th.lpCount A.d ((A.ra s) &&& 0xFFFFFFFF) }
      let L : Instr → Cond → (Args → State → Word) → Prop := fun i' ok last =>
        Does i' (fun A s => ok A s ∧ (A.ra s).extractLsb' 0 32 ≠ 0) (fun A s => opened (last A s) A s)
        ∧ (∀ k, Jumps i' (fun A s => ok A s ∧ (A.ra s).extractLsb' 0 32 = 0
              ∧ s.shapeFrom A.n (A.ctx s) (vaOf ((last A s).setWidth 58)) 0 5 = .ok k)
            (fun A s => opened (last A s) A s) (fun A s => vaOf ((last A s).setWidth 58) + BitVec.ofNat 64 (4 * k)))
        ∧ (∀ f, Traps i' (fun A s => ok A s ∧ (A.ra s).extractLsb' 0 32 = 0
              ∧ s.shapeFrom A.n (A.ctx s) (vaOf ((last A s).setWidth 58)) 0 5 = .error f) fun _ _ => f)
      L (.loop c d a b) always (fun A s => (A.rb s) &&& ~~~3)
      ∧ L (.loopi c d a i) (fun _ _ => c.immU i ≠ 0) (fun A _ => A.pc + 4 * c.immU i)
      ∧ (c.immU i = 0 → Traps (.loopi c d a i) always fun _ _ => { cause := 0x01 })
      ∧ Does (.lpbrk c d) always (fun A s => s.modThread A.n A.t fun th => { th with lpCount := vset th.lpCount A.d 0 }))
  ∧ (
    ∀ (th : Thread) (a nxt : Word) (k : Nat),
      let hit := vget th.lpCount k ≠ 0 ∧ vget th.lpEnd k = (a &&& 0x3FFFFFFFFFFFFFF)
      let dec : Thread := { th with lpCount := vset th.lpCount k (BitVec.ofNat 64 ((vget th.lpCount k).toNat - 1)) }
      loopEdge th a nxt 0 = (th, nxt)
      ∧ (¬hit → loopEdge th a nxt (k + 1) = loopEdge th a nxt k)
      ∧ (hit → (vget th.lpCount k).toNat ≠ 1 → loopEdge th a nxt (k + 1) = (dec, vget th.lpStart k))
      ∧ (hit → (vget th.lpCount k).toNat = 1 → loopEdge th a nxt (k + 1) = loopEdge dec a nxt k))

/-- Rounding to a multiple of a quantum, to the bit (R74, R75). The magnitude `num / den` lies at `m` units, or strictly between `m` and
`m + 1` where the value is marked so; the quantum is 2^k units. An exact value is not rounded. Otherwise RNE takes the nearer multiple, on
a tie the even one, RNA on a tie the greater magnitude, RTZ the lesser, RDN and RUP by sign, ROD the odd one, and SR the greater where the
draw is below the first 64 discarded bits.

The generator of R75: its step and its draw, and that a state that is not 0 never steps to 0. -/
def Obligations.RoundingsFollowTheirModes : Prop :=
  (
    ∀ (x : Ex) (k num den : Nat) (mode : BitVec 3) (draw : Word), 0 < den →
      (x.st = false → num = x.m * den) → (x.st = true → 1 ≤ k ∧ x.m * den < num ∧ num < (x.m + 1) * den) →
      let U := 2 ^ k * den
      let r := roundAt (x.e + k) mode draw x
      let t := num / U
      let part := num % U
      (part = 0 → r = (t, false))
      ∧ (part ≠ 0 → r.2 = true
          ∧ (mode = 0 → r.1 = if U < 2 * part ∨ (2 * part = U ∧ t % 2 = 1) then t + 1 else t)
          ∧ (mode = 1 → r.1 = if U ≤ 2 * part then t + 1 else t)
          ∧ (mode = 2 → r.1 = t)
          ∧ (mode = 3 → r.1 = if x.neg then t + 1 else t)
          ∧ (mode = 4 → r.1 = if x.neg then t else t + 1)
          ∧ (mode = 5 → r.1 = if t % 2 = 0 then t + 1 else t)
          ∧ (mode = 6 → (x.st = false ∨ 64 ≤ k) → r.1 = if draw.toNat < part * 2 ^ 64 / U then t + 1 else t)))
  ∧ (
    ∀ g : Word,
      let a := g ^^^ (g >>> 12)
      let b := a ^^^ (a <<< 25)
      let e := b ^^^ (b >>> 27)
      srStep g = (e, e * 0x2545F4914F6CDD1D) ∧ (g ≠ 0 → (srStep g).1 ≠ 0))

/-- What the scalar unit delivers of a nonzero number in binary32 or binary64 (R77, R82): with the quantum of its binade or of the subnormal
range, whichever is greater, the rounded magnitude's bits where it stays finite, with NX where inexact and UF where also tiny after rounding;
above the largest finite magnitude OF and NX, and infinity or the largest finite magnitude by mode and sign. Zeros, infinities and NaNs
are delivered as they are, a NaN as the canonical one, with no flag. -/
def Obligations.ScalarResultsRoundOnce : Prop :=
  ∀ (p : Prec) (mode : BitVec 3) (draw : Word) (x : Ex), mode.toNat ≤ 6 → 0 < x.m →
    let F := p.fmt
    let q := max (x.top - F.p + 1) (F.emin - F.fb)
    let r := roundAt q mode draw x
    let tiny := decide ((roundTo F.p mode draw x).1.top < F.emin)
    let d := F.deliver false mode draw (.num x)
    let y : Ex := { neg := x.neg, m := r.1, e := q }
    ((r.1 = 0 ∨ y.top ≤ F.bias) →
      (∃ z : Ex, F.value true false d.bits = .num z ∧ z.neg = x.neg ∧ z.units (min z.e q) = y.units (min z.e q))
      ∧ d.flags = flagIf r.2 1 ||| flagIf (tiny && r.2) 2 ∧ d.step = r.2)
    ∧ (r.1 ≠ 0 → (F.bias : Int) < y.top → d.flags = 5 ∧ d.step = r.2
        ∧ (d.bits = F.infBits x.neg ∨ d.bits = F.infBits x.neg - 1)
        ∧ (d.bits = F.infBits x.neg ↔ mode = 0 ∨ mode = 1 ∨ mode = 6 ∨ (mode = 3 ∧ x.neg = true) ∨ (mode = 4 ∧ x.neg = false)))
    ∧ (∀ b, F.deliver false mode draw (.inf b) = { bits := F.infBits b } ∧ F.deliver false mode draw (.nan b) = { bits := F.nan })
    ∧ (∀ b, F.deliver false mode draw (.num { neg := b }) = { bits := F.zeroBits b })
    ∧ binary32.nan = 0x7FC00000 ∧ binary64.nan = 0x7FF8000000000000

/-- The exact operations whose results are rounded once (R78, R79): sums and products are exact, a zero sum is +0, or -0 under RDN unless both
terms are zeros of one sign, a quotient and a root lie within the least unit of their magnitude and are marked where they are not exact.

Operands of no number (R81, R82, R123): a NaN gives a NaN, with NV where one signals; the sum of unlike infinities, the product of zero and
infinity, 0/0, ∞/∞ and the root of a number below −0 are invalid; x/0 of a finite nonzero x is infinite and raises DZ; √(−0) is −0; a
fused form's product of zero and infinity is invalid whatever it adds. -/
def Obligations.OperationsAreExact : Prop :=
  (
    (∀ (mode : BitVec 3) (x y : Ex) (q : Int), q ≤ x.e → q ≤ y.e → q ≤ (addEx mode x y).e → x.st = false → y.st = false →
        (addEx mode x y).units q = x.units q + y.units q ∧ (addEx mode x y).st = false)
    ∧ (∀ (mode : BitVec 3) (x y : Ex), x.st = false → y.st = false → (addEx mode x y).m = 0 →
        ((addEx mode x y).neg = true ↔ (x.m = 0 ∧ y.m = 0 ∧ x.neg = true ∧ y.neg = true) ∨ (mode = 3 ∧ ¬(x.m = 0 ∧ y.m = 0 ∧ x.neg = y.neg))))
    ∧ (∀ x y : Ex, (mulEx x y).m = x.m * y.m ∧ (mulEx x y).e = x.e + y.e ∧ (mulEx x y).neg = (x.neg != y.neg))
    ∧ (∀ x y : Ex, y.m ≠ 0 →
        let r := divEx x y
        let k := workBits + bitLen y.m
        r.e = x.e - y.e - k ∧ r.m * y.m ≤ x.m * 2 ^ k ∧ x.m * 2 ^ k < (r.m + 1) * y.m ∧ (r.st = false ↔ r.m * y.m = x.m * 2 ^ k)
          ∧ r.neg = (x.neg != y.neg))
    ∧ (∀ x : Ex, x.m ≠ 0 →
        let r := sqrtEx x
        ∃ n : Nat, 2 * r.e + n = x.e ∧ r.m * r.m ≤ x.m * 2 ^ n ∧ x.m * 2 ^ n < (r.m + 1) * (r.m + 1) ∧ (r.st = false ↔ r.m * r.m = x.m * 2 ^ n)
          ∧ r.neg = false))
  ∧ (
    ∀ (mode : BitVec 3) (a b c : Val) (x y : Ex) (s r : Bool),
      (a.isNan = true ∨ b.isNan = true →
        (∀ f ∈ [opAdd mode a b, opMul a b, opDiv a b], f.v = .nan false ∧ f.flags = if a.sNan || b.sNan then 16 else 0)
        ∧ opFma mode a b c = { v := .nan false, flags := if a.sNan || b.sNan || c.sNan then 16 else 0 })
      ∧ (a.isNan = true → opSqrt a = { v := .nan false, flags := if a.sNan then 16 else 0 })
      ∧ opAdd mode (.inf s) (.inf r) = (if s = r then { v := .inf s } else { v := .nan false, flags := 16 })
      ∧ opAdd mode (.inf s) (.num x) = { v := .inf s } ∧ opAdd mode (.num x) (.inf s) = { v := .inf s }
      ∧ (x.zero = true → opMul (.num x) (.inf s) = { v := .nan false, flags := 16 } ∧ opMul (.inf s) (.num x) = { v := .nan false, flags := 16 }
          ∧ opFma mode (.num x) (.inf s) c = { v := .nan false, flags := 16 })
      ∧ opDiv (.inf s) (.inf r) = { v := .nan false, flags := 16 }
      ∧ (y.m = 0 → x.m = 0 → opDiv (.num x) (.num y) = { v := .nan false, flags := 16 })
      ∧ (y.m = 0 → x.m ≠ 0 → opDiv (.num x) (.num y) = { v := .inf (x.neg != y.neg), flags := 8 })
      ∧ opDiv (.num x) (.inf s) = { v := .num { neg := x.neg != s } } ∧ opDiv (.inf s) (.num y) = { v := .inf (s != y.neg) }
      ∧ opSqrt (.inf false) = { v := .inf false } ∧ opSqrt (.inf true) = { v := .nan false, flags := 16 }
      ∧ (x.m = 0 → opSqrt (.num x) = { v := .num x }) ∧ (x.m ≠ 0 → x.neg = true → opSqrt (.num x) = { v := .nan false, flags := 16 }))

/-- The scalar arithmetic of both formats (R123, R124): each instruction delivers its exact result rounded once in FCSR.RM or PFX.MOD's RM, with
latency 4, FDIV and FSQRT with a variable one. -/
def Obligations.FloatArithmetic : Prop :=
  ∀ (c : Ctl) (d a b e : BitVec 5),
    let fixed : Prec → Args → Nat → State → State := fun p A r s => s.writeD A 4 (p.image r)
    let late : Prec → Args → Nat → State → State := fun p A r s => s.writeVarD A (p.image r)
    let m : Args → State → BitVec 3 := fun A s => c.rmOr ((A.th s).ctrl.fcsr.extractLsb' 5 3)
    let two : Prec → (BitVec 3 → Val → Val → Op) → Args → State → Op := fun p f A s => f (m A s) (p.val (A.ra s)) (p.val (A.rb s))
    let fma : Prec → Bool → Args → State → Op := fun p sub A s =>
      opFma (m A s) (p.val (A.ra s)) (p.val (A.rb s)) (if sub then (p.val (A.re s)).negate else p.val (A.re s))
    let root : Prec → Args → State → Op := fun p A s => opSqrt (p.val (A.ra s))
    (Delivers (.faddS c d a b) .s m (two .s opAdd) (fixed .s) ∧ Delivers (.faddD c d a b) .d m (two .d opAdd) (fixed .d)
      ∧ Delivers (.fsubS c d a b) .s m (two .s fun m x y => opAdd m x y.negate) (fixed .s)
      ∧ Delivers (.fsubD c d a b) .d m (two .d fun m x y => opAdd m x y.negate) (fixed .d)
      ∧ Delivers (.fmulS c d a b) .s m (two .s fun _ => opMul) (fixed .s) ∧ Delivers (.fmulD c d a b) .d m (two .d fun _ => opMul) (fixed .d)
      ∧ Delivers (.fdivS c d a b) .s m (two .s fun _ => opDiv) (late .s) ∧ Delivers (.fdivD c d a b) .d m (two .d fun _ => opDiv) (late .d)
      ∧ Delivers (.fsqrtS c d a) .s m (root .s) (late .s) ∧ Delivers (.fsqrtD c d a) .d m (root .d) (late .d))
    ∧ (Delivers (.fmaddS c d a b e) .s m (fma .s false) (fixed .s) ∧ Delivers (.fmaddD c d a b e) .d m (fma .d false) (fixed .d)
      ∧ Delivers (.fmsubS c d a b e) .s m (fma .s true) (fixed .s) ∧ Delivers (.fmsubD c d a b e) .d m (fma .d true) (fixed .d))

/-- FMIN, FMAX, the sign forms, the comparisons and FTYPE (R123): minimumNumber and maximumNumber with −0 below +0; the three sign rules; the
one-hot relation with NV by a signalling NaN, or in the signalling form by any; the kind and sign of a value.

FCV (R73, R125) and FBIT (R126): a conversion between formats or from an integer rounds once; one to an integer rounds to an integer in the
mode and clamps, with NV for a NaN, which gives 0, or where it clamps, else NX where inexact; the raw moves copy bits. -/
def Obligations.FloatSelectionConversionsAndMoves : Prop :=
  (
    ∀ (c : Ctl) (d a b : BitVec 5),
      let nv : Bool → Args → State → State := fun f A s => s.modThread A.n A.t fun th => { th with ctrl := { th.ctrl with fcsr := th.ctrl.fcsr ||| if f then 16 else 0 } }
      let pick : Instr → Prec → Bool → Prop := fun i p big =>
        Leaves i always fun A s t => ∃ r : Nat,
          let x := p.val (A.ra s)
          let y := p.val (A.rb s)
          let px := p.bits (A.ra s)
          let py := p.bits (A.rb s)
          (x.isNan = true → y.isNan = true → r = p.fmt.nan) ∧ (x.isNan = true → y.isNan = false → r = py) ∧ (x.isNan = false → y.isNan = true → r = px)
            ∧ (x.isNan = false → y.isNan = false → (cmpVal x y < 0 ∨ (cmpVal x y = 0 ∧ x.neg? = true ∧ y.neg? = false)) → r = if big then py else px)
            ∧ (x.isNan = false → y.isNan = false → (0 < cmpVal x y ∨ (cmpVal x y = 0 ∧ x.neg? = false ∧ y.neg? = true)) → r = if big then px else py)
            ∧ (x.isNan = false → y.isNan = false → cmpVal x y = 0 → x.neg? = y.neg? → r = px ∨ r = py)
            ∧ t = (nv (x.sNan || y.sNan) A s).writeD A 4 (p.image r)
      let sign : Instr → Prec → (Bool → Bool → Bool) → Prop := fun i p f =>
        Writes i always 4 fun A s v => ∃ r : Nat, v = p.image r
          ∧ r.testBit (p.fmt.eb + p.fmt.fb) = f ((p.bits (A.ra s)).testBit (p.fmt.eb + p.fmt.fb)) ((p.bits (A.rb s)).testBit (p.fmt.eb + p.fmt.fb))
          ∧ (∀ j, j < p.fmt.eb + p.fmt.fb → r.testBit j = (p.bits (A.ra s)).testBit j) ∧ r < 2 ^ (p.fmt.eb + p.fmt.fb + 1)
      let cmp : Instr → Prec → Bool → Prop := fun i p loud =>
        Leaves i always fun A s t => ∃ v : Word,
          let x := p.val (A.ra s)
          let y := p.val (A.rb s)
          let unordered := x.isNan = true ∨ y.isNan = true
          (unordered → v = 8) ∧ (¬unordered → cmpVal x y < 0 → v = 1) ∧ (¬unordered → cmpVal x y = 0 → v = 2) ∧ (¬unordered → 0 < cmpVal x y → v = 4)
            ∧ t = (nv (if loud then x.isNan || y.isNan else x.sNan || y.sNan) A s).writeD A 4 v
      let kind : Instr → Prec → Prop := fun i p =>
        Writes i always 4 fun A s v =>
          let F := p.fmt
          let n := p.bits (A.ra s)
          let e := n / 2 ^ F.fb % 2 ^ F.eb
          let f := n % 2 ^ F.fb
          v.toNat / 16 = 0 ∧ (v.getLsbD 3 = true ↔ n.testBit (F.eb + F.fb) = true)
            ∧ (v.toNat % 8 = 0 ↔ e = 0 ∧ f = 0) ∧ (v.toNat % 8 = 1 ↔ e = 0 ∧ f ≠ 0) ∧ (v.toNat % 8 = 2 ↔ e ≠ 0 ∧ e ≠ 2 ^ F.eb - 1)
            ∧ (v.toNat % 8 = 3 ↔ e = 2 ^ F.eb - 1 ∧ f = 0) ∧ (v.toNat % 8 = 4 ↔ e = 2 ^ F.eb - 1 ∧ 2 ^ (F.fb - 1) ≤ f)
            ∧ (v.toNat % 8 = 5 ↔ e = 2 ^ F.eb - 1 ∧ 0 < f ∧ f < 2 ^ (F.fb - 1))
      (pick (.fminS c d a b) .s false ∧ pick (.fmaxS c d a b) .s true ∧ pick (.fminD c d a b) .d false ∧ pick (.fmaxD c d a b) .d true)
      ∧ (sign (.fcsgnS c d a b) .s (fun _ y => y) ∧ sign (.fnsgnS c d a b) .s (fun _ y => !y) ∧ sign (.fxsgnS c d a b) .s (fun x y => x != y)
        ∧ sign (.fcsgnD c d a b) .d (fun _ y => y) ∧ sign (.fnsgnD c d a b) .d (fun _ y => !y) ∧ sign (.fxsgnD c d a b) .d (fun x y => x != y))
      ∧ (cmp (.fcmpqS c d a b) .s false ∧ cmp (.fcmpsS c d a b) .s true ∧ cmp (.fcmpqD c d a b) .d false ∧ cmp (.fcmpsD c d a b) .d true)
      ∧ (kind (.ftypeS c d a) .s ∧ kind (.ftypeD c d a) .d))
  ∧ (
    ∀ (c : Ctl) (d a : BitVec 5),
      let m : Args → State → BitVec 3 := fun A s => c.rmOr ((A.th s).ctrl.fcsr.extractLsb' 5 3)
      let fixed : Prec → Args → Nat → State → State := fun p A r s => s.writeD A 4 (p.image r)
      let flt : Prec → Args → State → Op := fun p A s => { v := p.val (A.ra s), flags := if (p.val (A.ra s)).sNan then 16 else 0 }
      let int : (Word → Int) → Args → State → Op := fun f A s => { v := .num { neg := decide (f (A.ra s) < 0), m := (f (A.ra s)).natAbs, e := 0 } }
      let clamps : Instr → Prec → Int → Int → Prop := fun i p lo hi =>
        Leaves i always fun A s t => ∃ (z : Int) (fl : BitVec 5) (step : Bool),
          ((p.val (A.ra s)).isNan = true → z = 0 ∧ fl = 16 ∧ step = false)
            ∧ (∀ b, p.val (A.ra s) = .inf b → z = (if b then lo else hi) ∧ fl = 16 ∧ step = false)
            ∧ (∀ x, p.val (A.ra s) = .num x →
              let r := roundAt 0 (m A s) (A.th s).draw x
              let k : Int := if x.neg then -(r.1 : Int) else r.1
              z = max lo (min hi k) ∧ fl = (if k < lo ∨ hi < k then 16 else if r.2 then 1 else 0) ∧ step = r.2)
            ∧ t = (s.modThread A.n A.t fun th => { th with ctrl := { th.ctrl with
                  fcsr := th.ctrl.fcsr ||| fl.setWidth 64
                  srs := if step = true ∧ m A s = 6 then (srStep th.ctrl.srs).1 else th.ctrl.srs } }).writeD A 4 (BitVec.ofInt 64 z)
      (Delivers (.fcvF64F32 c d a) .s m (flt .d) (fixed .s) ∧ Delivers (.fcvF32F64 c d a) .d m (flt .s) (fixed .d)
        ∧ Delivers (.fcvI32F32 c d a) .s m (int fun w => (w.setWidth 32).toInt) (fixed .s) ∧ Delivers (.fcvI64F32 c d a) .s m (int fun w => w.toInt) (fixed .s)
        ∧ Delivers (.fcvI32F64 c d a) .d m (int fun w => (w.setWidth 32).toInt) (fixed .d) ∧ Delivers (.fcvI64F64 c d a) .d m (int fun w => w.toInt) (fixed .d)
        ∧ Delivers (.fcvU64F32 c d a) .s m (int fun w => w.toNat) (fixed .s) ∧ Delivers (.fcvU64F64 c d a) .d m (int fun w => w.toNat) (fixed .d))
      ∧ (clamps (.fcvF32I32 c d a) .s (-2 ^ 31) (2 ^ 31 - 1) ∧ clamps (.fcvF32I64 c d a) .s (-2 ^ 63) (2 ^ 63 - 1) ∧ clamps (.fcvF32U64 c d a) .s 0 (2 ^ 64 - 1)
        ∧ clamps (.fcvF64I32 c d a) .d (-2 ^ 31) (2 ^ 31 - 1) ∧ clamps (.fcvF64I64 c d a) .d (-2 ^ 63) (2 ^ 63 - 1) ∧ clamps (.fcvF64U64 c d a) .d 0 (2 ^ 64 - 1))
      ∧ (Writes (.fgetD c d a) always 4 (fun A s v => v = A.ra s) ∧ Writes (.fsetD c d a) always 4 (fun A s v => v = A.ra s)
        ∧ Writes (.fgetS c d a) always 4 (fun A s v => v = (A.ra s) &&& 0xFFFFFFFF)
        ∧ Writes (.fsetS c d a) always 4 (fun A s v => v = (A.ra s) ||| 0xFFFFFFFF00000000)))

/-- What a Poant rounding stores (R77, R97, R98): for a precision of 9 to 249, a number whose rounding to that precision lies in the normal range is stored
with ⌈(p − 9) / 16⌉ granules as exactly that rounding; above the range OF and NX with infinity or the largest magnitude by mode and sign;
below it UF and NX with zero or the least normal magnitude; zero and infinity have no granule, NaN one.

The value of a header with its granules (R96, R97): zero, infinity and NaN by the reserved exponents, the other patterns of exponent 0 read
as NaN; else the fraction is F and the granules in turn, after an implicit 1, and the exponent's bias is 262,143. -/
def Obligations.PoantResultsRoundOnce : Prop :=
  (
    ∀ (p : Nat) (mode : BitVec 3) (draw : Word) (x : Ex), 9 ≤ p → p ≤ 249 → mode.toNat ≤ 6 → 0 < x.m →
      let r := roundTo p mode draw x
      let q := poRound p mode draw (.num x)
      let big := mode = 0 ∨ mode = 1 ∨ mode = 6 ∨ (mode = 3 ∧ x.neg = true) ∨ (mode = 4 ∧ x.neg = false)
      let least := mode = 5 ∨ (mode = 3 ∧ x.neg = true) ∨ (mode = 4 ∧ x.neg = false)
      (-262142 ≤ r.1.top → r.1.top ≤ 262143 →
        (∃ z : Ex, q.po.val = .num z ∧ z.neg = x.neg ∧ z.units (min z.e r.1.e) = r.1.units (min z.e r.1.e))
          ∧ poN q.po.hdr = (p - 9 + 15) / 16 ∧ q.po.gran.length = (p - 9 + 15) / 16 ∧ q.flags = (if r.2 then 1 else 0) ∧ q.step = r.2)
      ∧ (262143 < r.1.top → q.flags = 5 ∧ q.step = r.2 ∧ (big → q.po.val = .inf x.neg ∧ poN q.po.hdr = 0)
          ∧ (¬big → ∃ z : Ex, q.po.val = .num z ∧ z.neg = x.neg
              ∧ z.units (min z.e (262144 - p)) = ({ neg := x.neg, m := 2 ^ p - 1, e := 262144 - p } : Ex).units (min z.e (262144 - p))))
      ∧ (r.1.top < -262142 → q.flags = 3 ∧ q.step = r.2 ∧ (¬least → q.po.val = .num { neg := x.neg } ∧ poN q.po.hdr = 0)
          ∧ (least → ∃ z : Ex, q.po.val = .num z ∧ z.neg = x.neg
              ∧ z.units (min z.e (-262142)) = ({ neg := x.neg, m := 1, e := -262142 } : Ex).units (min z.e (-262142))))
      ∧ (∀ b, poRound p mode draw (.num { neg := b }) = { po := { hdr := poHdr b 0 0 0 } }
          ∧ poRound p mode draw (.inf b) = { po := { hdr := poHdr b 0 0x7FFFF 0 } }
          ∧ poRound p mode draw (.nan b) = { po := { hdr := 0x0FFFFF80, gran := [0] } }))
  ∧ (
    ∀ (neg : Bool) (n e f : Nat) (g : List (BitVec 16)), n < 16 → e < 2 ^ 19 → f < 256 → g.length = n →
      let v := ({ hdr := BitVec.ofNat 32 ((if neg then 2 ^ 31 else 0) + n * 2 ^ 27 + e * 2 ^ 8 + f), gran := g } : Poant).val
      (e = 0 → n = 0 → f = 0 → v = .num { neg := neg }) ∧ (e = 0 → (n ≠ 0 ∨ f ≠ 0) → v = .nan false)
      ∧ (e = 0x7FFFF → n = 0 → v = .inf neg) ∧ (e = 0x7FFFF → n ≠ 0 → v = .nan false)
      ∧ (e ≠ 0 → e ≠ 0x7FFFF → v = .num { neg := neg, m := g.foldl (fun a x => a * 65536 + x.toNat) (256 + f), e := (e : Int) - 262143 - (8 + 16 * n) }))

/-- A window reads back what write_w stored in it (R128): the header, and the granules that the window holds; the rest of a longer value reads
as 0. The pool granules outside the window, the other windows and every other register stand.

POALLOC and POFREE (R131, R132): POALLOC places a window of the asked length at the least run of granules that no other window holds,
zeroes those granules and gives the window V, the length, the base (0 for length 0) and a zero header; with no such run it traps with
cause 0x12. The length is what the precision needs, or xs1 with 15 at most. POFREE clears the window's fields and keeps the pool. -/
def Obligations.WindowsReadBack : Prop :=
  (
    ∀ (th : Thread) (d : Nat) (p : Poant), d < 32 → th.pool.wf = true → p.gran.length = poN p.hdr →
      let w := th.reg .w d
      let t := th.writeW .w d p
      (t.readW .w d).hdr = p.hdr
      ∧ (∀ i, i < poN p.hdr → (t.readW .w d).gran[i]? = if winV w = true ∧ i < winLen w then p.gran[i]? else some 0)
      ∧ (t.reg .w d).extractLsb' 0 32 = w.extractLsb' 0 32
      ∧ (∀ k, (∀ i, i < winLen w → k ≠ winIx w i) → t.pool.get k = th.pool.get k)
      ∧ (∀ i, i < winLen w → t.pool.get (winIx w i) = if i < poN p.hdr then p.gran.getD i 0 else 0)
      ∧ (∀ fl r, (fl, r) ≠ (.w, d) → t.reg fl r = th.reg fl r) ∧ t.ctrl = th.ctrl
      ∧ t.run = { th.run with bad := t.run.bad }
      ∧ ∀ p, p ∈ t.run.bad ↔ p ∈ th.run.bad ∧ ∀ i, i < winLen w → p ≠ .granule (winIx w i))
  ∧ (
    ∀ (c : Ctl) (d a : BitVec 5),
      let taken : Args → State → Nat → Prop := fun A s k => ∃ r i, r < 32 ∧ r ≠ A.d ∧ winV (vget (A.th s).w r) = true ∧ i < winLen (vget (A.th s).w r)
        ∧ k = winIx (vget (A.th s).w r) i
      let fits : Args → State → Nat → Nat → Prop := fun A s len b => b + len ≤ 256 ∧ ∀ i, i < len → ¬taken A s (b + i)
      let al : Instr → (Args → State → Nat) → Prop := fun i len =>
        (∀ b, Does i (fun A s => fits A s (len A s) b ∧ ∀ k, k < b → ¬fits A s (len A s) k) fun A s =>
          let w : Word := BitVec.ofNat 64 (4096 + 256 * len A s + if len A s = 0 then 0 else b)
          (s.modThread A.n A.t fun th => ({ th with pool := th.pool.clear b (b + len A s) }.setReg A.fd A.d w).healWindow w).windowDone A)
        ∧ Traps i (fun A s => ∀ k, ¬fits A s (len A s) k) fun _ _ => { cause := 0x12 }
      al (.poalloc c d) (fun A s => (poPrec A s - 9 + 15) / 16)
      ∧ al (.poallocX c d a) (fun A s => min 15 (A.ra s).toNat)
      ∧ Does (.pofree c d) always fun A s => (s.modThread A.n A.t fun th => th.setReg A.fd A.d 0).windowDone A)

/-- The Poant arithmetic and conversions into windows (R129, R133, R138): each instruction delivers its exact value by po_result, at PREC.P or
PFX.MOD's PO and in PREC.RM or PFX.MOD's RM; a NaN operand gives NaN and sets no flag, but a signalling NaN of a binary format sets NV. -/
def Obligations.PoantArithmetic : Prop :=
  ∀ (c : Ctl) (d a b e : BitVec 5),
    let m : Args → State → BitVec 3 := fun A s => c.rmOr ((A.th s).ctrl.prec.extractLsb' 8 3)
    let p : Args → State → Nat := fun A s => c.poOr ((A.th s).ctrl.prec.extractLsb' 0 8).toNat
    let va : Args → State → Val := fun A s => ((A.th s).readW A.fa A.a).val
    let vb : Args → State → Val := fun A s => ((A.th s).readW A.fb A.b).val
    let ve : Args → State → Val := fun A s => ((A.th s).readW A.fe A.e).val
    let D : Instr → (Args → State → Bool) → (Args → State → Op) → Prop := fun i nan op =>
      PoDelivers i always (fun _ s => s) (fun _ s => s) p (fun A s => if nan A s then .nan false else (op A s).v) (fun A s => if nan A s then 0 else (op A s).flags)
    let n2 : Args → State → Bool := fun A s => (va A s).isNan || (vb A s).isNan
    let cv : Instr → (Args → State → Val) → Prop := fun i v =>
      PoDelivers i always (fun _ s => s) (fun _ s => s) p v (fun A s => if (v A s).sNan then 16 else 0)
    (D (.poadd c d a b) n2 (fun A s => opAdd (m A s) (va A s) (vb A s))
      ∧ D (.posub c d a b) n2 (fun A s => opAdd (m A s) (va A s) (vb A s).negate)
      ∧ D (.pomul c d a b) n2 (fun A s => opMul (va A s) (vb A s)) ∧ D (.podiv c d a b) n2 (fun A s => opDiv (va A s) (vb A s))
      ∧ D (.posqrt c d a) (fun A s => (va A s).isNan) (fun A s => opSqrt (va A s))
      ∧ D (.pofma c d a b e) (fun A s => n2 A s || (ve A s).isNan) (fun A s => opFma (m A s) (va A s) (vb A s) (ve A s)))
    ∧ (cv (.pocvtPD c d a) (fun A s => Prec.d.val (A.ra s)) ∧ cv (.pocvtPS c d a) (fun A s => Prec.s.val (A.ra s))
      ∧ cv (.pocvtPL c d a) (fun A s => .num { neg := decide ((A.ra s).toInt < 0), m := (A.ra s).toInt.natAbs, e := 0 })
      ∧ PoDelivers (.pocvtPP c d a) always (fun _ s => s) (fun _ s => s) p va (fun _ _ => 0))

/-- The Poant comparisons (R134) and the conversions out of windows (R138): 1 where the exact values compare as named and none is a NaN; the
binary formats rounded once, with gradual underflow; an integer by the rounding and clamping of R73.

PODOT (R139): every element is read and the pointers advance by their strides before anything is written; a fault on any element traps and
changes nothing; the sum is added to the window's value, or subtracted under NEG, and delivered by po_result. A sum that met an invalid
operation gives NaN with NV, a NaN among the elements or in the window gives NaN, a signalling one sets NV. -/
def Obligations.PoantComparisonsConversionsAndSums : Prop :=
  (
    ∀ (c : Ctl) (d a b : BitVec 5),
      let m : Args → State → BitVec 3 := fun A s => c.rmOr ((A.th s).ctrl.prec.extractLsb' 8 3)
      let va : Args → State → Val := fun A s => ((A.th s).readW A.fa A.a).val
      let vb : Args → State → Val := fun A s => ((A.th s).readW A.fb A.b).val
      let cmp : Instr → (Int → Prop) → Prop := fun i f =>
        WritesVar i always fun A s v =>
          (((va A s).isNan = false ∧ (vb A s).isNan = false ∧ f (cmpVal (va A s) (vb A s))) → v = 1)
          ∧ (¬((va A s).isNan = false ∧ (vb A s).isNan = false ∧ f (cmpVal (va A s) (vb A s))) → v = 0)
      cmp (.pocmpEq c d a b) (fun r => r = 0) ∧ cmp (.pocmpLt c d a b) (fun r => r < 0) ∧ cmp (.pocmpLe c d a b) (fun r => r ≤ 0)
      ∧ Delivers (.pocvtDP c d a) .d m (fun A s => { v := va A s }) (fun A r s => s.writeVarD A (BitVec.ofNat 64 r))
      ∧ Delivers (.pocvtSP c d a) .s m (fun A s => { v := va A s }) (fun A r s => s.writeVarD A (0xFFFFFFFF#32 ++ BitVec.ofNat 32 r))
      ∧ Leaves (.pocvtLP c d a) always (fun A s t => ∃ (z : Int) (fl : BitVec 5) (step : Bool),
          ((va A s).isNan = true → z = 0 ∧ fl = 16 ∧ step = false)
            ∧ (∀ b, va A s = .inf b → z = (if b then -2 ^ 63 else 2 ^ 63 - 1) ∧ fl = 16 ∧ step = false)
            ∧ (∀ x, va A s = .num x →
              let r := roundAt 0 (m A s) (A.th s).draw x
              let k : Int := if x.neg then -(r.1 : Int) else r.1
              z = max (-2 ^ 63) (min (2 ^ 63 - 1) k) ∧ fl = (if k < -2 ^ 63 ∨ 2 ^ 63 - 1 < k then 16 else if r.2 then 1 else 0) ∧ step = r.2)
            ∧ t = (s.modThread A.n A.t fun th => { th with ctrl := { th.ctrl with
                  fcsr := th.ctrl.fcsr ||| fl.setWidth 64
                  srs := if step = true ∧ m A s = 6 then (srStep th.ctrl.srs).1 else th.ctrl.srs } }).writeVarD A (BitVec.ofInt 64 z)))
  ∧ (
    ∀ (c : Ctl) (d a b e : BitVec 5),
      let m : Args → State → BitVec 3 := fun A s => c.rmOr ((A.th s).ctrl.prec.extractLsb' 8 3)
      let run : Args → State → Except Fail (Dot × State) := fun A s =>
        dotGo (m A s) (bitsOf (A.re s).toNat 32 2) (bitsOf (A.re s).toNat 34 2) A s {} ((A.re s).toNat % 2 ^ 20)
      (∀ f, Traps (.podot c d a b e) (fun A s => run A s = .error f) fun _ _ => f)
      ∧ (∀ k u, PoDelivers (.podot c d a b e) (fun A s => run A s = .ok (k, u)) (fun _ _ => u) (fun _ s => s) (fun A _ => poPrec A u)
          (fun A s =>
            let acc := ((A.th u).readW A.fd A.d).val
            match k.val with
            | none => acc
            | some v => if v.isNan || acc.isNan then .nan false
                else (opAdd (m A s) acc (if (A.re s).getLsbD 36 then v.negate else v)).v)
          (fun A s =>
            let acc := ((A.th u).readW A.fd A.d).val
            (match k.val with
            | none => 0
            | some v => if v.isNan || acc.isNan then (if k.invalid then 16 else 0)
                else (opAdd (m A s) acc (if (A.re s).getLsbD 36 then v.negate else v)).flags) ||| (if k.snan then 16 else 0)))
      ∧ (∀ (mode : BitVec 3) (k : Dot) (x y : Ex), k.nan = false → k.invalid = false → k.pos = false → k.neg = false → x.st = false → y.st = false →
          (∀ z, k.sum = some z → z.st = false) →
          ∃ z, (k.add mode (.num x) (.num y)).sum = some z
            ∧ ∀ q, q ≤ z.e → q ≤ x.e + y.e → (∀ w, k.sum = some w → q ≤ w.e) →
              z.units q = (mulEx x y).units q + (k.sum.elim 0 fun w => w.units q)))

/-- Poant loads (R136, R137): the strided form reads the element at the pointer's address and advances the pointer, the packed one reads the slot
that two side-table entries bound; an element whose granules exceed its room reads as NaN, a malformed slot gives NaN with NV; the value is delivered at its
own granule count. A failing check of any byte traps, and nothing changes.

Poant stores (R100, R136, R137): the slot receives the window's header and granules and zeros to its end, the value exactly where it fits and else
rounded to the precision that the slot holds, with its flags; a rounding that is inexact traps with 0x15 under XI; a failing check of any byte of the
slot traps first (log 110). A malformed packed slot only sets NV. The strided form advances its pointer. The slot is written by 2-byte accesses
(R208), so no line of it counts as written whole, and it waits while another cell's L1D holds a line of it (R213).

What the memory holds of an element (R99, R101): the header's four bytes, then a halfword for each granule; the two side-table entries stand
at side table + 4i and + 4(i + 1). What a slot of n granules receives: NaN as the canonical one, of which a slot without granules keeps the
header alone; infinity without granules; a value of at most n granules as it is; else the value rounded to 9 + 16n bits. -/
def Obligations.PoantLoadsAndStores : Prop :=
  (
    ∀ (c : Ctl) (n : BitVec 4) (d a b : BitVec 5),
      let q : Args → State → Nat := fun A s => ((A.ra s).extractLsb' 0 22).toNat
      let own : Poant → Args → State → Nat := fun p _ _ => 9 + 16 * poN p.hdr
      (∀ f, Traps (.poldS c n d a) (fun A s => s.loadPoant A (q A s) (4 + 2 * n.toNat) = .error f) fun _ _ => f)
      ∧ (∀ p u, PoDelivers (.poldS c n d a) (fun A s => s.loadPoant A (q A s) (4 + 2 * n.toNat) = .ok (p, u)) (fun _ _ => u)
          (fun A s => s.advanceQ A A.fa A.a) (own p) (fun _ _ => p.val) (fun _ _ => 0))
      ∧ (∀ f, Traps (.poldP c d a b) (fun A s => s.sideEntries A 0 = .error f) fun _ _ => f)
      ∧ (∀ lo hi u f, Traps (.poldP c d a b) (fun A s => s.sideEntries A 0 = .ok (lo, hi, u) ∧ slotOk lo hi = true
          ∧ u.loadPoant A (packedBase (A.ra u) + lo) (hi - lo) = .error f) fun _ _ => f)
      ∧ (∀ lo hi u p v, PoDelivers (.poldP c d a b) (fun A s => s.sideEntries A 0 = .ok (lo, hi, u) ∧ slotOk lo hi = true
          ∧ u.loadPoant A (packedBase (A.ra u) + lo) (hi - lo) = .ok (p, v)) (fun _ _ => v) (fun _ s => s) (own p) (fun _ _ => p.val) (fun _ _ => 0))
      ∧ (∀ lo hi u, PoDelivers (.poldP c d a b) (fun A s => s.sideEntries A 0 = .ok (lo, hi, u) ∧ slotOk lo hi = false) (fun _ _ => u) (fun _ s => s)
          (fun A _ => poPrec A u) (fun _ _ => .nan false) (fun _ _ => 16))
      ∧ (∀ lo hi : Nat, slotOk lo hi = true ↔ lo % 2 = 0 ∧ hi % 2 = 0 ∧ lo + 4 ≤ hi)
      ∧ (∀ (s : State) (A : Args) (r : Nat), r < 8 →
          let w := (A.th s).reg .q r
          let v := (A.th (s.advanceQ A .q r)).reg .q r
          (v.extractLsb' 0 22).toNat = (((w.extractLsb' 0 22).toNat : Int) + (w.extractLsb' 32 16).toInt) % 2 ^ 22
            ∧ v.extractLsb' 22 42 = w.extractLsb' 22 42))
  ∧ (
    ∀ (c : Ctl) (n : BitVec 4) (d a b : BitVec 5),
      let S : Instr → Cond → (Args → State → State) → (Args → State → Nat) → (Args → State → Nat) → (Args → State → State) → Prop := fun i ok u o room post =>
        let out : Args → State → PoRounded := fun A s => poStored (room A s) ((A.th (u A s)).readW A.fd A.d) (poMode A (u A s)) (A.th (u A s)).draw
        let chk : Args → State → Option Fail := fun A s => (u A s).checkLM A.n (A.slot (u A s)) (offWord (o A s)) (room A s) 2 1
        let xi : Cond := fun A s => precXi (A.th (u A s)).ctrl.prec = true ∧ (out A s).flags.getLsbD 0 = true
        let pa : Args → State → Nat := fun A s => nodeBase A.n + o A s
        let may : Cond := fun A s => (u A s).mayWrite A.n A.t (linesOf (pa A s) (room A s))
        (∀ f, Traps i (fun A s => ok A s ∧ chk A s = some f) fun _ _ => f)
        ∧ Traps i (fun A s => ok A s ∧ chk A s = none ∧ xi A s) (fun _ _ => { cause := 0x15 })
        ∧ Waits i (fun A s => ok A s ∧ chk A s = none ∧ ¬xi A s ∧ ¬may A s) (fun A s => ((u A s).claimLines A.n A.t (linesOf (pa A s) (room A s))).1)
        ∧ Does i (fun A s => ok A s ∧ chk A s = none ∧ ¬xi A s ∧ may A s) fun A s =>
            post A ((((u A s).unclaim A.n A.t).bankUnits (some A.t) 2 (pa A s)
              (((out A s).po.bytes ++ List.replicate (room A s) 0).take (room A s)) (room A s)).modThread A.n A.t fun th =>
              { th with ctrl := { th.ctrl with
                  fcsr := th.ctrl.fcsr ||| (out A s).flags.setWidth 64
                  srs := if (out A s).step = true ∧ poMode A (u A s) = 6 then (srStep th.ctrl.srs).1 else th.ctrl.srs } })
      S (.posvS c n d a) always (fun _ s => s) (fun A s => ((A.ra s).extractLsb' 0 22).toNat) (fun _ _ => 4 + 2 * n.toNat) (fun A s => s.advanceQ A A.fa A.a)
      ∧ (∀ lo hi u, S (.posvP c d a b) (fun A s => s.sideEntries A 0 = .ok (lo, hi, u) ∧ slotOk lo hi = true) (fun _ _ => u)
          (fun A _ => ((A.ra u).extractLsb' 0 22).toNat + lo) (fun _ _ => hi - lo) (fun _ s => s))
      ∧ (∀ f, Traps (.posvP c d a b) (fun A s => s.sideEntries A 0 = .error f) fun _ _ => f)
      ∧ (∀ lo hi u, Does (.posvP c d a b) (fun A s => s.sideEntries A 0 = .ok (lo, hi, u) ∧ slotOk lo hi = false)
          fun A _ => u.modThread A.n A.t fun th => { th with ctrl := { th.ctrl with fcsr := th.ctrl.fcsr ||| 16 } }))
  ∧ (
    ∀ (s : State) (A : Args) (o room : Nat),
      let pa := nodeBase A.n + o
      let clean : Nat → Prop := fun len => ∀ k, k < len → s.poisoned (pa + k) = false
      let fails : Nat → Option Fail := fun len => s.checkLM A.n (A.slot s) (offWord o) len 2 0
      let h : BitVec 32 := BitVec.ofNat 32 (s.readNat pa 4)
      let n := (h.extractLsb' 27 4).toNat
      (∀ f, fails 4 = some f → s.loadPoant A o room = .error f)
      ∧ (fails 4 = none → clean 4 → room < 4 + 2 * n → s.loadPoant A o room = .ok ({ hdr := 0x0FFFFF80, gran := [0] }, s))
      ∧ (fails 4 = none → clean 4 → 4 + 2 * n ≤ room → ∀ f, fails (4 + 2 * n) = some f → s.loadPoant A o room = .error f)
      ∧ (fails 4 = none → 4 + 2 * n ≤ room → fails (4 + 2 * n) = none → clean (4 + 2 * n) →
          s.loadPoant A o room = .ok ({ hdr := h, gran := (List.range n).map fun i => BitVec.ofNat 16 (s.readNat (pa + 4 + 2 * i) 2) }, s)))
  ∧ (
    ∀ (s : State) (A : Args) (acc : Nat),
      let o := ((A.ra s).extractLsb' 32 22).toNat + 4 * (A.rb s).toNat
      let pa := nodeBase A.n + o
      let fails : Nat → Option Fail := fun k => s.checkLM A.n (A.slot s) (offWord (o + k)) 4 4 acc
      (∀ f, fails 0 = some f → s.sideEntries A acc = .error f)
      ∧ (fails 0 = none → s.poisoned pa = false → ∀ f, fails 4 = some f → s.sideEntries A acc = .error f)
      ∧ (fails 0 = none → fails 4 = none → s.poisoned pa = false → s.poisoned (pa + 4) = false →
          s.sideEntries A acc = .ok (s.readNat pa 4, s.readNat (pa + 4) 4, s)))
  ∧ (
    ∀ (room : Nat) (v : Poant) (mode : BitVec 3) (draw : Word),
      let n := (room - 4) / 2
      let q := poStored room v mode draw
      (v.val.isNan = true → q = { po := { hdr := 0x0FFFFF80, gran := [0] } }
        ∧ (room = 4 → (q.po.bytes ++ List.replicate room 0).take room = natBytes 4 0x0FFFFF80))
      ∧ (∀ b, v.val = .inf b → poN v.hdr ≤ n → q.flags = 0 ∧ q.po.gran = [] ∧ poN q.po.hdr = 0 ∧ q.po.val = .inf b)
      ∧ (∀ x, v.val = .num x → poN v.hdr ≤ n → q = { po := v })
      ∧ (∀ x, v.val = .num x → n < poN v.hdr → q = poRound (9 + 16 * n) mode draw (.num x)))

/-- Translation, its first failing check deciding (R337): bits [63:58] that differ from bit 57 are cause 0x20 at level 0; a cached leaf stands for
the walk (R339); a walk that fails gives its cause and level; a leaf of another context 0x22; a space that the access does not take 0x26;
a permission that is missing 0x40. ADDR is the virtual address, and DETAIL holds the level and the access. The permissions are the leaf's R, W
and X bits, an AMO's both R and W; a leaf with S takes a PRIV context alone, and so do frames in device system space but for a port window of
the context's own and a debug window of a thread that runs its task (R337, R344, R378). A cached leaf of a CONTIG group translates page j of the group
as FRAME + (j − i) × the page size, i the page it was walked for (R336; whether a die serves the group from it is log 26's free choice).

One level of a walk (R334, R335, R337): the entry that the level's index selects must lie in bulk space and read without an uncorrectable error, or cause
0x23; an invalid entry is 0x20, a malformed table entry or leaf 0x21; a table entry leads to the next level, a leaf ends the walk. A table entry at the
last level is malformed. -/
def Obligations.TranslationChecksInOrder : Prop :=
  (
    ∀ (s : State) (n ctx : Nat) (acc : Acc) (ok : Space → Bool) (va : Word),
      let die := s.dieOf n
      let f : BitVec 8 → Nat → Except Fail Nat := fun c lvl => .error { cause := c, addr := va, detail := BitVec.ofNat 32 (lvl + 4 * acc.code) }
      let canon := ∀ k, 58 ≤ k → k < 64 → va.getLsbD k = va.getLsbD 57
      (¬canon → s.translate n ctx acc ok va = f 0x20 0)
      ∧ (canon → s.tlbHit die ctx va = none → ∀ c lvl, s.walkFrom va (s.ptRoot ctx) 0 4 = .error (c, lvl) → s.translate n ctx acc ok va = f c lvl)
      ∧ (canon → s.tlbHit die ctx va = none → ∀ lvl e, s.walkFrom va (s.ptRoot ctx) 0 4 = .ok (lvl, e) → leafCtx e ≠ ctx → s.translate n ctx acc ok va = f 0x22 lvl)
      ∧ (canon → ∀ lvl e, ((∃ t, s.tlbHit die ctx va = some t ∧ t.level = lvl ∧ t.leafAt va = e)
            ∨ (s.tlbHit die ctx va = none ∧ s.walkFrom va (s.ptRoot ctx) 0 4 = .ok (lvl, e) ∧ leafCtx e = ctx)) →
          (ok (spaceOf (leafPa lvl e va)) = false → s.translate n ctx acc ok va = f 0x26 0)
          ∧ (ok (spaceOf (leafPa lvl e va)) = true → s.permits ctx acc e (leafPa lvl e va) = false → s.translate n ctx acc ok va = f 0x40 lvl)
          ∧ (ok (spaceOf (leafPa lvl e va)) = true → s.permits ctx acc e (leafPa lvl e va) = true → s.translate n ctx acc ok va = .ok (leafPa lvl e va)))
      ∧ (∀ align, va.toNat % align ≠ 0 → s.translateAligned n ctx acc ok va align = f 0x24 0))
  ∧ (
    ∀ (s : State) (va : Word) (table lvl k : Nat),
      let a := table + 8 * (va.toNat >>> (47 - 11 * lvl) % 2 ^ 11)
      let e := s.readWord a
      let next := (e.extractLsb' 14 34).toNat * 2 ^ 14
      let bad := spaceOf table ≠ .bulk ∨ spaceOf a ≠ .bulk ∨ s.poisoned a = true
      (bad → s.walkFrom va table lvl (k + 1) = .error (0x23, lvl))
      ∧ (¬bad → e.getLsbD 0 = false → s.walkFrom va table lvl (k + 1) = .error (0x20, lvl))
      ∧ (¬bad → e.getLsbD 0 = true → e.getLsbD 1 = true → lvl < 3 → e.extractLsb' 48 16 = 0 → e.extractLsb' 2 12 = 0 →
          s.walkFrom va table lvl (k + 1) = s.walkFrom va next (lvl + 1) k)
      ∧ (¬bad → e.getLsbD 0 = true → e.getLsbD 1 = true → ¬(lvl < 3 ∧ e.extractLsb' 48 16 = 0 ∧ e.extractLsb' 2 12 = 0) →
          s.walkFrom va table lvl (k + 1) = .error (0x21, lvl))
      ∧ (¬bad → e.getLsbD 0 = true → e.getLsbD 1 = false → s.walkFrom va table lvl (k + 1) = if leafOk e lvl then .ok (lvl, e) else .error (0x21, lvl))
      ∧ (leafOk e 0 = false ∧ (leafW e = true → leafR e = false → leafOk e lvl = false) ∧ (lvl = 1 → leafContig e = true → leafOk e lvl = false)
          ∧ (e.extractLsb' 8 6 ≠ 0 → leafOk e lvl = false) ∧ (e.extractLsb' 53 5 ≠ 0 → leafOk e lvl = false)))
  ∧ (
    ∀ (s : State) (ctx : Nat) (acc : Acc) (e : Word) (pa : Nat),
      let w := vget (s.ctxEnt ctx).words 0
      let priv := w.getLsbD 62 = true
      s.permits ctx acc e pa = true ↔
        ((acc = .load → e.getLsbD 2 = true) ∧ (acc = .store → e.getLsbD 3 = true) ∧ (acc = .amo → e.getLsbD 2 = true ∧ e.getLsbD 3 = true)
          ∧ (acc = .fetch → e.getLsbD 4 = true))
        ∧ (e.getLsbD 5 = true → priv)
        ∧ (∀ n, spaceOf pa = .port n → priv ∨ w.getLsbD (48 + n) = true)
        ∧ (spaceOf pa = .dev → priv ∨ ∃ n t d, windowOf pa = some (n, t) ∧ (s.thread n t).run.desc = some d ∧ d.ctx = ctx))
  ∧ (
    ∀ (e : TlbEnt) (va : Word),
      let i := e.vpn % 16
      let j := pageNo va e.level % 16
      (e.vpn = pageNo va e.level → e.leafAt va = e.leaf)
      ∧ (e.groupHas va = true ↔ e.leaf.getLsbD 6 = true ∧ e.vpn ≠ pageNo va e.level ∧ e.vpn / 16 = pageNo va e.level / 16)
      ∧ (e.groupHas va = true →
          (entryAddr (e.leafAt va) : Int) = ((entryAddr e.leaf : Int) + ((j : Int) - i) * pageSize e.level) % 2 ^ 48
          ∧ ∀ k, k < 14 ∨ 48 ≤ k → (e.leafAt va).getLsbD k = e.leaf.getLsbD k))

/-- LDV (R231, R232): a load to x0 is a touch; a failed check traps; at the node's own memory the bytes fill the destination, extended as the form
says, a poisoned line as in R366; elsewhere bytes that the thread's outbox, the node's forward buffer and the core's L1D supply do, else a REQ
goes out at once and the register stays empty; a register of device system space is read in its place, by doublewords. A load of bytes that a
released AMO or DECN is still to write waits for it (R210; log 34). Under PRECISE the thread stays at a remote load until its data have come, and
takes cause 0x50 where they are not clean (R366); device registers read as log 73 and the engine's parts as log 33 have it.

The writes over a line (R210): a store's bytes stand over what was there, and an atomic's where those were known.

What a remote load sends (R232, R255): one LOAD message to the home, with the offset and the length, and no outbox slot; the destination is
empty until the data come; the forward buffer keeps the message as it was stamped (R254, R275); memory stands. -/
def Obligations.LoadsByVirtualAddress : Prop :=
  (
    ∀ (c : Ctl) (d a : BitVec 5) (i : BitVec 10),
      let va : Args → State → Word := fun A s => A.ra s + c.imm i
      let L : Instr → Nat → Bool → Prop := fun i' len sext =>
        let tr : Args → State → Except Fail Nat := fun A s => s.translateAligned A.n (A.ctx s) .load spaceLdSt (va A s) len
        let at_ : Nat → Nat → Nat → Cond := fun pa h o A s => ¬(A.fd = .x ∧ A.d = 0) ∧ tr A s = .ok pa ∧ homeOf pa = some (h, o)
        let img : Nat → Word := fun v => if sext then (BitVec.ofNat (8 * len) v).signExtend 64 else BitVec.ofNat 64 (v % 2 ^ (8 * len))
        let bytes : Args → State → Nat → List (Option Byte) := fun A s pa => ((s.seen A.n A.t (lineOf pa)).drop (pa % 64)).take len
        let away : Nat → Nat → Nat → Cond := fun pa h o A s => at_ pa h o A s ∧ h ≠ A.n
        let fresh : Nat → Nat → Nat → Cond := fun pa h o A s => away pa h o A s ∧ (∀ x ∈ (A.th s).outs, x.held = false) ∧ s.atomicAhead A.n pa len = false
        let waits : Nat → Nat → Nat → Outst → Cond := fun pa h o x A s => away pa h o A s ∧ (A.th s).outs.find? (fun y => y.held) = some x
        let taken : Args → State → State := fun A s => s.modThread A.n A.t fun th => { th with outs := th.outs.filter fun y => !y.held }
        Does i' (fun A _ => A.fd = .x ∧ A.d = 0) (fun A s => s.touch A.n)
        ∧ (∀ f, Traps i' (fun A s => ¬(A.fd = .x ∧ A.d = 0) ∧ tr A s = .error f) fun _ _ => f)
        ∧ (∀ pa o, WritesVar i' (fun A s => at_ pa A.n o A s ∧ s.poisoned (nodeBase A.n + o) = false)
            fun A s v => (∀ k, k < len → v.extractLsb' (8 * k) 8 = s.mem.get (nodeBase A.n + o + k))
              ∧ ∀ j, 8 * len ≤ j → j < 64 → v.getLsbD j = (sext && v.getLsbD (8 * len - 1)))
        ∧ (∀ pa o, Traps i' (fun A s => at_ pa A.n o A s ∧ s.poisoned (nodeBase A.n + o) = true ∧ s.precise A.n (A.slot s) = true)
            fun A s => { cause := 0x50, addr := va A s, detail := 0 })
        ∧ (∀ pa o, Does i' (fun A s => at_ pa A.n o A s ∧ s.poisoned (nodeBase A.n + o) = true ∧ s.precise A.n (A.slot s) = false)
            fun A s => (s.modThread A.n A.t fun th => th.failed (va A s) 0).writeVarD A (img (s.readNat (nodeBase A.n + o) len)))
        ∧ (∀ pa h o, Does i' (fun A s => fresh pa h o A s ∧ ∀ b ∈ bytes A s pa, b.isSome = true)
            fun A s => s.writeVarD A (img (leNat ((bytes A s pa).map fun b => b.getD 0))))
        ∧ (∀ pa h o, Does i' (fun A s => fresh pa h o A s ∧ none ∈ bytes A s pa ∧ s.precise A.n (A.slot s) = false)
            fun A s => s.sendLoad A (va A s) h o len sext false)
        ∧ (∀ pa h o, Waits i' (fun A s => fresh pa h o A s ∧ none ∈ bytes A s pa ∧ s.precise A.n (A.slot s) = true)
            fun A s => s.sendLoad A (va A s) h o len sext true)
        ∧ (∀ pa h o, Waits i' (fun A s => away pa h o A s ∧ (∀ x ∈ (A.th s).outs, x.held = false) ∧ s.atomicAhead A.n pa len = true) fun _ s => s)
        ∧ (∀ pa h o x, Waits i' (fun A s => waits pa h o x A s ∧ x.wait ≠ none) (fun _ s => s)
          ∧ Does i' (fun A s => waits pa h o x A s ∧ x.wait = none ∧ x.poison = false) (fun A s => (taken A s).fillD A x.value)
          ∧ ∀ g A s, Issues i' g A s → waits pa h o x A s.startIssue → x.wait = none → x.poison = true →
              exec i' s = .next ((taken A s.startIssue).trapAt A { cause := 0x50, addr := x.addr, detail := 7 }))
        ∧ (∀ pa, Does i' (fun A s => ¬(A.fd = .x ∧ A.d = 0) ∧ tr A s = .ok pa ∧ homeOf pa = none ∧ devWidthOk pa len true = true)
            fun A s => (s.devTouch pa).fillD A (img (s.devReadLen pa len).toNat))
        ∧ (∀ pa, Traps i' (fun A s => ¬(A.fd = .x ∧ A.d = 0) ∧ tr A s = .ok pa ∧ homeOf pa = none ∧ devWidthOk pa len true = false)
            fun A s => { cause := 0x24, addr := va A s })
      L (.ldvB c d a i) 1 true ∧ L (.ldvH c d a i) 2 true ∧ L (.ldvW c d a i) 4 true ∧ L (.ldvD c d a i) 8 true
      ∧ L (.ldvBu c d a i) 1 false ∧ L (.ldvHu c d a i) 2 false ∧ L (.ldvWu c d a i) 4 false)
  ∧ (
    ∀ (m : Msg) (bs : List (Option Byte)) (k : Nat), bs.length = 64 → m.pa % 64 + m.width ≤ 64 → k < 64 →
      let o := m.pa % 64
      let inside := o ≤ k ∧ k < o + m.width
      (m.onLine bs).length = 64
      ∧ (¬inside → (m.onLine bs)[k]? = bs[k]?)
      ∧ (inside → m.kind = 1 → (m.onLine bs)[k]? = some (some (BitVec.ofNat 8 (m.opb.toNat / 256 ^ (k - o)))))
      ∧ (inside → m.kind ≠ 1 → (∀ j, j < m.width → ∃ b, bs[o + j]? = some (some b)) →
          (m.onLine bs)[k]? = some (some (BitVec.ofNat 8 (m.newValue (leNat (((bs.drop o).take m.width).map fun b => b.getD 0)) / 256 ^ (k - o)))))
      ∧ (inside → m.kind ≠ 1 → (∃ j, j < m.width ∧ bs[o + j]? = some none) → (m.onLine bs)[k]? = some none))
  ∧ (
    ∀ (s : State) (A : Args) (va : Word) (h o len : Nat) (sext : Bool), s.portsOpen → (∀ e ∈ (s.cell A.n).mem.fwd, e.msg.id < s.nextId) →
      let t := s.sendLoad A va h o len sext false
      ∃ m : Msg, t.net = s.net ++ [m] ∧ m.kind = 0 ∧ m.cls = 0 ∧ m.src = A.n ∧ m.dst = h ∧ m.thr = A.t ∧ m.opa = BitVec.ofNat 64 o ∧ m.id = s.nextId
        ∧ (t.thread A.n A.t).run.outbox = (s.thread A.n A.t).run.outbox
        ∧ ((A.fd = .x ∧ A.d ≠ 0 ∨ A.fd = .f) → A.d < 32 → (t.thread A.n A.t).full A.fd A.d = false)
        ∧ (∃ x : Outst, (t.thread A.n A.t).outs = (s.thread A.n A.t).outs ++ [x] ∧ x.wait = some m.id ∧ x.file = A.fd ∧ x.reg = A.d ∧ x.size = len ∧ x.sext = sext)
        ∧ (∃ e : FwdEnt, (t.cell A.n).mem.fwd = (s.cell A.n).mem.fwd ++ [e] ∧ e.msg = m ∧ e.load = true ∧ e.st = .sent)
        ∧ t.mem = s.mem ∧ (∀ n k, (n, k) ≠ (A.n, A.t) → t.thread n k = s.thread n k))

/-- STV (R231, R232): a failed check traps; at the node's own memory exactly the stored bytes change, as with ST, once no other cell's L1D holds the line (R213); for another home one STORE message
takes an outbox slot and memory stands, cause 0x33 where there is no room; a doubleword of device system space is written in its place. -/
def Obligations.StoresByVirtualAddress : Prop :=
  ∀ (c : Ctl) (a b : BitVec 5) (i : BitVec 10),
    let va : Args → State → Word := fun A s => A.ra s + c.imm i
    let S : Instr → Nat → (Args → State → Nat → Prop) → Prop := fun i' len val =>
      let tr : Args → State → Except Fail Nat := fun A s => s.translateAligned A.n (A.ctx s) .store spaceLdSt (va A s) len
      (∀ f, Traps i' (fun A s => tr A s = .error f) fun _ _ => f)
      ∧ (∀ pa o, Leaves i' (fun A s => tr A s = .ok pa ∧ homeOf pa = some (A.n, o) ∧ s.mayWrite A.n A.t [lineOf pa]) fun A s t =>
          ∃ v, val A s v ∧ t = (s.unclaim A.n A.t).storeLocal A o (natBytes len v))
      ∧ (∀ pa o, Waits i' (fun A s => tr A s = .ok pa ∧ homeOf pa = some (A.n, o) ∧ ¬s.mayWrite A.n A.t [lineOf pa])
          fun A s => (s.claimLines A.n A.t [lineOf pa]).1)
      ∧ (∀ pa h o, Leaves i' (fun A s => tr A s = .ok pa ∧ homeOf pa = some (h, o) ∧ h ≠ A.n ∧ (A.th s).outboxRoom 0 = true) fun A s t =>
          ∃ v, val A s v ∧ ∃ m : Msg, (t.thread A.n A.t).run.outbox = (s.thread A.n A.t).run.outbox ++ [m] ∧ m.kind = 1 ∧ m.cls = 0 ∧ m.dst = h
            ∧ m.opa = BitVec.ofNat 64 o ∧ m.opb = BitVec.ofNat 64 v ∧ m.storeLen = len ∧ m.va = some (va A s) ∧ t.mem = s.mem ∧ t.net = s.net
            ∧ ∀ n k fl r, (t.thread n k).reg fl r = (s.thread n k).reg fl r)
      ∧ (∀ pa h o, Traps i' (fun A s => tr A s = .ok pa ∧ homeOf pa = some (h, o) ∧ h ≠ A.n ∧ (A.th s).outboxRoom 0 = false) fun _ _ => { cause := 0x33 })
      ∧ (∀ pa, Leaves i' (fun A s => tr A s = .ok pa ∧ homeOf pa = none ∧ devWidthOk pa len false = true ∧ windowOf pa = none) fun A s t =>
          ∃ v, val A s v ∧ t = (s.devWrite false pa (BitVec.ofNat 64 v)).noRestart A.n A.t)
      ∧ (∀ pa n k u, Leaves i' (fun A s => tr A s = .ok pa ∧ homeOf pa = none ∧ devWidthOk pa len false = true ∧ windowOf pa = some (n, k)
            ∧ ∀ v, val A s v → (s.wake n).windowWrite n k (windowOff pa) (BitVec.ofNat 64 v) = .done u) fun A _ t => t = u.noRestart A.n A.t)
      ∧ (∀ pa, Traps i' (fun A s => tr A s = .ok pa ∧ homeOf pa = none ∧ devWidthOk pa len false = false)
          fun A s => { cause := 0x24, addr := va A s, detail := 4 })
    let fit : Nat → Args → State → Nat → Prop := fun n A s v => ∃ x : BitVec n, Fitted c.satMode n (A.rb s).toInt x ∧ v = x.toNat
    S (.stvB c a b i) 1 (fit 8) ∧ S (.stvH c a b i) 2 (fit 16) ∧ S (.stvW c a b i) 4 (fit 32) ∧ S (.stvD c a b i) 8 (fun A s v => v = (A.rb s).toNat)

/-- The new values of the atomic operations (R233) on words of `n` bits: the sum fitted by SAT, the logic operations, the minima and maxima by
their order, and the swap.

AMO and AMO.CAS at their bank (R208, R233, R234): the old bytes are returned, and the bytes hold the new value where the line is not poisoned,
for CAS only where the old value was the expected one; every other byte stands, but for an overflowed directory entry of the line. -/
def Obligations.AtomicsAtTheirBank : Prop :=
  (
    ∀ (w : Nat) (sat : BitVec 2) (x y : BitVec (8 * w)), w = 4 ∨ w = 8 →
      let new : Nat → Nat := fun op => amoNew op sat w x.toNat y.toNat
      (∃ v : BitVec (8 * w), Fitted sat (8 * w) (if sat = 2 then (x.toNat : Int) + y.toNat else x.toInt + y.toInt) v ∧ new 0 = v.toNat)
      ∧ new 1 = (x &&& y).toNat ∧ new 2 = (x ||| y).toNat ∧ new 3 = (x ^^^ y).toNat
      ∧ (BitVec.ofNat (8 * w) (new 4)).toInt = min x.toInt y.toInt ∧ (BitVec.ofNat (8 * w) (new 5)).toInt = max x.toInt y.toInt
      ∧ new 6 = min x.toNat y.toNat ∧ new 7 = max x.toNat y.toNat ∧ new 8 = y.toNat)
  ∧ (
    ∀ (s : State) (who : Option Nat) (pa op b : Nat) (sat : BitVec 2) (x y : Word), s.mem.wf = true → op < 32 → pa % amoBytes op = 0 →
      let w := amoBytes op
      let free : Nat → Prop := fun a => ∀ n o e, homeOf pa = some (n, o) → s.dirEnt n (lineOf pa) = some e → e.ovf = true →
        a < s.ovfEntry n e.place ∨ s.ovfEntry n e.place + 256 ≤ a
      (s.amoAt who pa op sat b).2 = s.readNat pa w ∧ (s.casAt who pa x y).2 = s.readNat pa 8
      ∧ (s.poisoned pa = true → (s.amoAt who pa op sat b).1 = s ∧ (s.casAt who pa x y).1 = s)
      ∧ (s.poisoned pa = false →
          (s.amoAt who pa op sat b).1.readNat pa w = amoNew (op % 16) sat w (s.readNat pa w) b % 2 ^ (8 * w)
          ∧ ∀ a, (a < pa ∨ pa + w ≤ a) → free a → (s.amoAt who pa op sat b).1.mem.get a = s.mem.get a)
      ∧ (s.poisoned pa = false → s.readNat pa 8 ≠ x.toNat → (s.casAt who pa x y).1 = s)
      ∧ (s.poisoned pa = false → pa % 8 = 0 → s.readNat pa 8 = x.toNat → (s.casAt who pa x y).1.readNat pa 8 = y.toNat
          ∧ ∀ a, (a < pa ∨ pa + 8 ≤ a) → free a → (s.casAt who pa x y).1.mem.get a = s.mem.get a))

/-- The atomic instructions (R204, R211, R230, R233, R234): a failed check traps; at the node's own memory the bank performs the operation at
once and the destination receives the old value, sign-extended, or a precise error where the line is poisoned; one that writes first waits until no
other cell's L1D holds the line (R213, R220); for another home with
destination x0 the message takes an outbox slot; with another destination the run releases its outbox and the message after it, RESTART is
cleared and the register is empty until the answer comes. -/
def Obligations.AtomicInstructions : Prop :=
  ∀ (c : Ctl) (w : BitVec 1) (d a b e : BitVec 5),
    let T : Instr → Nat → (Args → State → Nat → State × Nat) → (Args → State → Nat → Prop) → (Args → State → Msg) → Prop := fun i len act wr msg =>
      let tr : Args → State → Except Fail Nat := fun A s => s.translateAligned A.n (A.ctx s) .amo spaceBank (A.ra s) len
      let none_ : Args → Prop := fun A => A.fd = .x ∧ A.d = 0
      let m : Nat → Nat → Args → State → Msg := fun h o A s =>
        { msg A s with dst := h, opa := BitVec.ofNat 64 o, va := some (A.ra s), lvl := s.lvlOf A.n (A.ctx s) (A.ra s) }
      let free : Args → State → State := fun A s => s.unclaim A.n A.t
      let old : Args → State → Nat → Word := fun A s pa => (BitVec.ofNat (8 * len) (act A (free A s) pa).2).signExtend 64
      (∀ f, Traps i (fun A s => tr A s = .error f) fun _ _ => f)
      ∧ (∀ pa o, Does i (fun A s => tr A s = .ok pa ∧ homeOf pa = some (A.n, o) ∧ s.poisoned pa = false
            ∧ ((wr A s pa ∧ s.mayWrite A.n A.t [lineOf pa]) ∨ (¬wr A s pa ∧ s.claims A.n A.t = [])))
          fun A s => (act A (free A s) pa).1.writeVarD A (old A s pa))
      ∧ (∀ pa o, Waits i (fun A s => tr A s = .ok pa ∧ homeOf pa = some (A.n, o) ∧ s.poisoned pa = false ∧ wr A s pa ∧ ¬s.mayWrite A.n A.t [lineOf pa])
          fun A s => (s.claimLines A.n A.t [lineOf pa]).1)
      ∧ (∀ pa o, Does i (fun A s => tr A s = .ok pa ∧ homeOf pa = some (A.n, o) ∧ s.poisoned pa = true ∧ s.claims A.n A.t = []
            ∧ (s.precise A.n (A.slot s) = false ∨ none_ A))
          fun A s => ((act A s pa).1.modThread A.n A.t fun th => th.failed (A.ra s) 0).writeVarD A ((BitVec.ofNat (8 * len) (act A s pa).2).signExtend 64))
      ∧ (∀ pa o, Traps i (fun A s => tr A s = .ok pa ∧ homeOf pa = some (A.n, o) ∧ s.poisoned pa = true ∧ s.precise A.n (A.slot s) = true ∧ ¬none_ A)
          fun A s => { cause := 0x50, addr := A.ra s })
      ∧ (∀ pa h o, Traps i (fun A s => tr A s = .ok pa ∧ homeOf pa = some (h, o) ∧ h ≠ A.n ∧ (A.th s).outboxRoom 0 = false) fun _ _ => { cause := 0x33 })
      ∧ (∀ pa h o, Does i (fun A s => tr A s = .ok pa ∧ homeOf pa = some (h, o) ∧ h ≠ A.n ∧ (A.th s).outboxRoom 0 = true ∧ none_ A)
          fun A s => s.push A.n A.t (m h o A s))
      ∧ (∀ pa h o u, Does i (fun A s => tr A s = .ok pa ∧ homeOf pa = some (h, o) ∧ h ≠ A.n ∧ (A.th s).outboxRoom 0 = true ∧ ¬none_ A
            ∧ (s.noRestart A.n A.t).releaseAll A.n A.t = (u, .all) ∧ (u.cell A.n).mem.fwdUsed < fwdPlaces A.n)
          fun A s => (((u.push A.n A.t (m h o A s)).modThread A.n A.t fun th =>
            { th.setFull A.fd A.d false with outs := th.outs ++ [{ file := A.fd, reg := A.d, value := 0, wait := some u.nextId, size := len, sext := true
                                                                   addr := A.ra s, ord := th.run.ops }] }).releaseAll A.n A.t).1)
      ∧ (∀ pa h o u, Waits i (fun A s => tr A s = .ok pa ∧ homeOf pa = some (h, o) ∧ h ≠ A.n ∧ (A.th s).outboxRoom 0 = true ∧ ¬none_ A
            ∧ (s.noRestart A.n A.t).releaseAll A.n A.t = (u, .full)) fun _ _ => u)
    let amo : Instr → Nat → Prop := fun i op =>
      let f5 := op + 16 * w.toNat
      T i (if w = 1 then 8 else 4) (fun A s pa => s.amoAt (some A.t) pa f5 c.satMode (A.rb s).toNat) (fun _ _ _ => True)
        (fun A s => { kind := 2, opb := A.rb s, aux := BitVec.ofNat 6 f5, sat := c.satMode })
    (amo (.amoAdd c w d a b) 0 ∧ amo (.amoAnd c w d a b) 1 ∧ amo (.amoOr c w d a b) 2 ∧ amo (.amoXor c w d a b) 3 ∧ amo (.amoMin c w d a b) 4
      ∧ amo (.amoMax c w d a b) 5 ∧ amo (.amoMinu c w d a b) 6 ∧ amo (.amoMaxu c w d a b) 7 ∧ amo (.amoSwap c w d a b) 8)
    ∧ T (.amoCas c d a b e) 8 (fun A s pa => s.casAt (some A.t) pa (A.rb s) (A.re s)) (fun A s pa => s.readNat pa 8 = (A.rb s).toNat)
      (fun A s => { kind := 3, opb := A.re s, payload := [A.rb s] })
    ∧ (∀ f, Traps (.decn c a b) (fun A s => s.translateAligned A.n (A.ctx s) .amo spaceBank (A.ra s) 4 = .error f) fun _ _ => f)
    ∧ (∀ pa h o, Does (.decn c a b) (fun A s => s.translateAligned A.n (A.ctx s) .amo spaceBank (A.ra s) 4 = .ok pa ∧ homeOf pa = some (h, o)
          ∧ (A.th s).outboxRoom 0 = true) fun A s => s.push A.n A.t { kind := 4, dst := h, opa := BitVec.ofNat 64 o, opb := (A.rb s) &&& 0xFFFFFFFF, va := some (A.ra s), lvl := s.lvlOf A.n (A.ctx s) (A.ra s) })
    ∧ (∀ pa h o, Traps (.decn c a b) (fun A s => s.translateAligned A.n (A.ctx s) .amo spaceBank (A.ra s) 4 = .ok pa ∧ homeOf pa = some (h, o)
          ∧ (A.th s).outboxRoom 0 = false) fun _ _ => { cause := 0x33 })

/-- FENCE and EFENCE (R218, R228, R237, R238, R366): FENCE completes once the thread's results have returned and, at core scope and wider, its
outbox is released, at region scope and wider the writes that its forward buffer then held are performed; until then the thread waits; a scope
above 5 raises cause 0x01. At system scope it also waits for the engine's lines on their way to host memory or to an optical port, until the
host link has taken them or the peer port has acknowledged them (R217, R227, R345). A release whose slot no longer translates traps (R342).
EFENCE completes where nothing is on its way and no error is pending; a pending error freezes the thread with 0x50 or rolls its run back, the
undo writes waiting like every write for the sharers of their lines (R213). What EFENCE and FENCE wait for is log 38's reading.

The outbox (R239): 128 slots and 8 KiB of payload, counted from the start of the run, with those that have been released; a message that is
pushed stands last, with its sender, thread, context and launch, and no other state changes but the count of messages. A release takes the
slots in order, while the forward buffer has room. -/
def Obligations.FencesWait : Prop :=
  (
    ∀ (c : Ctl) (i : BitVec 10),
      let sc := i.toNat
      let ready : List Nat → Args → State → Prop := fun ids A s => (A.th s).outs = [] ∧ s.anyInFlight ids = false
      let ids : Args → State → List Nat := fun A s => 
        if 3 ≤ sc then (s.cell A.n).mem.writeIds
          ++ (if sc = 5 then ((s.cell A.n).mem.fwd.filter fun e => e.msg.leavesDevice).map fun e => e.msg.id else [])
        else []
      let fin : Args → State → State := fun A s => s.modThread A.n A.t fun th => { th with run := { th.run with fence := none } }
      let hold : List Nat → Args → State → State := fun l A s => s.modThread A.n A.t fun th => { th with run := { th.run with fence := some l } }
      (5 < sc → Traps (.fence c i) always fun _ _ => { cause := 0x01 })
      ∧ (sc = 0 → Does (.fence c i) (fun A s => (A.th s).run.fence = none ∧ ready [] A s) fin
          ∧ Waits (.fence c i) (fun A s => (A.th s).run.fence = none ∧ ¬ready [] A s) (hold []))
      ∧ (1 ≤ sc → sc ≤ 5 → ∀ u,
          Does (.fence c i) (fun A s => (A.th s).run.fence = none ∧ (s.noRestart A.n A.t).releaseAll A.n A.t = (u, .all) ∧ ready (ids A u) A u) (fun A _ => fin A u)
          ∧ Waits (.fence c i) (fun A s => (A.th s).run.fence = none ∧ (s.noRestart A.n A.t).releaseAll A.n A.t = (u, .all) ∧ ¬ready (ids A u) A u) (fun A _ => hold (ids A u) A u)
          ∧ Waits (.fence c i) (fun A s => (A.th s).run.fence = none ∧ (s.noRestart A.n A.t).releaseAll A.n A.t = (u, .full)) (fun _ _ => u)
          ∧ ∀ f g A s, Issues (.fence c i) g A s → (A.th s.startIssue).run.fence = none →
              (s.startIssue.noRestart A.n A.t).releaseAll A.n A.t = (u, .fault f) → exec (.fence c i) s = .next (u.trapAt A f))
      ∧ (sc ≤ 5 → ∀ l,
          Does (.fence c i) (fun A s => (A.th s).run.fence = some l ∧ ready l A s) fin
          ∧ Waits (.fence c i) (fun A s => (A.th s).run.fence = some l ∧ ¬ready l A s) (hold l))
      ∧ (let busy : Args → State → Prop := fun A s => (A.th s).outs ≠ [] ∨ ∃ e ∈ (s.cell A.n).mem.fwd, e.msg.cls = 0 ∧ e.msg.thr = A.t
         Waits (.efence c) busy (fun _ s => s)
          ∧ Does (.efence c) (fun A s => ¬busy A s ∧ (A.th s).run.pendErr = none) (fun _ s => s)
          ∧ (∀ p, Stops (.efence c) (fun A s => ¬busy A s ∧ (A.th s).run.pendErr = some p ∧ s.mayRetry A.n A.t = false) fun A s => s.freezeError A.n A.t p)
          ∧ (let retry : Cond := fun A s => ¬busy A s ∧ (A.th s).run.pendErr ≠ none ∧ s.mayRetry A.n A.t = true
             let lines : Args → State → List Nat := fun A s => (A.th s).undoLines
             Waits (.efence c) (fun A s => retry A s ∧ s.wuIdle A.n A.t = false) (fun _ s => s)
              ∧ Waits (.efence c) (fun A s => retry A s ∧ s.wuIdle A.n A.t = true ∧ ¬s.mayWrite A.n A.t (lines A s))
                  (fun A s => (s.claimLines A.n A.t (lines A s)).1)
              ∧ Stops (.efence c) (fun A s => retry A s ∧ s.wuIdle A.n A.t = true ∧ s.mayWrite A.n A.t (lines A s))
                  fun A s => (s.unclaim A.n A.t).rollback A.n A.t)))
  ∧ (
    ∀ (s : State) (n t : Nat) (m : Msg) (bytes : Nat),
      let th := s.thread n t
      (th.outboxRoom bytes = true ↔ th.run.boxSlots < 128 ∧ th.run.boxBytes + bytes ≤ 8192)
      ∧ ((s.push n t m).thread n t).run.boxSlots = th.run.boxSlots + 1 ∧ ((s.push n t m).thread n t).run.boxBytes = th.run.boxBytes + m.bytes
      ∧ ((s.releaseAll n t).1.thread n t).run.boxSlots = th.run.boxSlots ∧ ((s.releaseAll n t).1.thread n t).run.boxBytes = th.run.boxBytes
      ∧ (th.run.outbox = [] → s.releaseAll n t = (s, .all))
      ∧ (th.run.outbox ≠ [] → fwdPlaces n ≤ (s.cell n).mem.fwdUsed → s.releaseAll n t = (s, .full))
      ∧ (∀ x, th.run.outbox = [x] → x.retr = false → (s.cell n).mem.fwdUsed < fwdPlaces n →
          (s.releaseAll n t).2 = .all ∧ ((s.releaseAll n t).1.thread n t).run.outbox = []
          ∧ ((s.releaseAll n t).1.cell n).mem.fwd.map (fun e => e.msg.id) = (s.cell n).mem.fwd.map (fun e => e.msg.id) ++ [x.id])
      ∧ ((s.push n t m).thread n t).run.outbox = th.run.outbox ++ [{ m with id := s.nextId, src := n, thr := t, ctx := th.ctx, launch := th.launch, pc := vaOf th.pc, ord := th.run.ops }]
      ∧ (s.push n t m).nextId = s.nextId + 1 ∧ (s.push n t m).mem = s.mem ∧ (s.push n t m).net = s.net
      ∧ (∀ k j, (k, j) ≠ (n, t) → (s.push n t m).thread k j = s.thread k j)
      ∧ (∀ fl r, ((s.push n t m).thread n t).reg fl r = th.reg fl r))

/-- SPAWN and ARM (R290 to R292, R296): their checks in order, each with its cause; then the descriptor's four doublewords are read from the
thread's memory. SPAWN's message takes an outbox slot with 32 bytes of payload; ARM reserves an entry for the counter and its message takes a
slot without. (That the counter is checked before the descriptor, both with access code 0, and that ARM's slot counts no payload, are the model's
reading in log 54.)

What SPAWN and ARM take from a descriptor's doublewords (R258): ENTRY without its low two bits, ARG, BUDGET as LOG2 with 20 for a value
outside 10 to 24, RADIUS, which no task of a channel core has, STAGE and PRIO; the reserved bits are ignored. -/
def Obligations.SpawnAndArm : Prop :=
  (
    ∀ (c : Ctl) (a b : BitVec 5),
      let words : Nat → List Word := fun v => (List.range 4).map fun i => BitVec.ofNat 64 (v / 2 ^ (64 * i))
      let desc : Args → State → Option Fail := fun A s => s.checkLM A.n (A.slot s) (A.rb s) 32 8 0
      let sp1 : Cond := fun A s => (A.ra s).toNat < 2 ^ 11 ∧ (A.rb s).toNat < 2 ^ 22
      let sp2 : Cond := fun A s => sp1 A s ∧ desc A s = none
      let sp3 : Cond := fun A s => sp2 A s ∧ s.inRegions (A.ctx s) (A.ra s).toNat = true
      let sp4 : Cond := fun A s => sp3 A s ∧ (A.th s).outboxRoom 32 = true
      let ctr : Args → State → Option Fail := fun A s => s.checkLM A.n (A.slot s) (A.ra s) 4 4 0
      let ar1 : Cond := fun A s => (A.ra s).toNat < 2 ^ 22 ∧ (A.rb s).toNat < 2 ^ 22
      let ar3 : Cond := fun A s => ar1 A s ∧ ctr A s = none ∧ desc A s = none
      let ar4 : Cond := fun A s => ar3 A s ∧ (A.th s).outboxRoom 0 = true
      let full : Cond := fun A s => armPlaces A.n ≤ (s.cell A.n).sched.armsUsed A.n (bankOf A.n (A.ra s).toNat)
      let bound : Cond := fun A s => ∃ x ∈ (s.cell A.n).sched.arms, x.ctr.toNat = (A.ra s).toNat ∧ x.st ≠ .fired
      (Traps (.spawn c a b) (fun A s => ¬sp1 A s) (fun _ _ => { cause := 0x01 })
        ∧ (∀ f, Traps (.spawn c a b) (fun A s => sp1 A s ∧ desc A s = some f) fun _ _ => f)
        ∧ Traps (.spawn c a b) (fun A s => sp2 A s ∧ s.inRegions (A.ctx s) (A.ra s).toNat = false) (fun _ _ => { cause := 0x40 })
        ∧ Traps (.spawn c a b) (fun A s => sp3 A s ∧ (A.th s).outboxRoom 32 = false) (fun _ _ => { cause := 0x33 })
        ∧ (∀ v u, Does (.spawn c a b) (fun A s => sp4 A s ∧ s.loadUnits A (A.rb s).toNat 32 8 0 = .ok (v, u))
            fun A s => u.push A.n A.t { kind := 0x0A, dst := (A.ra s).toNat, payload := words v, bytes := 32 })
        ∧ (∀ f, Traps (.spawn c a b) (fun A s => sp4 A s ∧ s.loadUnits A (A.rb s).toNat 32 8 0 = .error f) fun _ _ => f))
      ∧ (Traps (.arm c a b) (fun A s => ¬ar1 A s) (fun _ _ => { cause := 0x01 })
        ∧ (∀ f, Traps (.arm c a b) (fun A s => ar1 A s ∧ (ctr A s = some f ∨ (ctr A s = none ∧ desc A s = some f))) fun _ _ => f)
        ∧ Traps (.arm c a b) (fun A s => ar3 A s ∧ (A.th s).outboxRoom 0 = false) (fun _ _ => { cause := 0x33 })
        ∧ Traps (.arm c a b) (fun A s => ar4 A s ∧ full A s) (fun _ _ => { cause := 0x35 })
        ∧ Traps (.arm c a b) (fun A s => ar4 A s ∧ ¬full A s ∧ bound A s) (fun _ _ => { cause := 0x35, detail := 1 })
        ∧ (∀ v u, Does (.arm c a b) (fun A s => ar4 A s ∧ ¬full A s ∧ ¬bound A s ∧ s.loadUnits A (A.rb s).toNat 32 8 0 = .ok (v, u)) fun A s =>
            let d := { descAt A.n (words v) with slot := A.slot s, ctx := A.ctx u, launch := (A.th u).launch }
            (u.modSched A.n fun x => { x with arms := x.arms ++ [{ ctr := (A.ra s).setWidth 22, st := .reserved, desc := d, msg := u.nextId }] }).push A.n A.t
              { kind := 0x0D, dst := A.n, opa := A.ra s, payload := words v })
        ∧ (∀ f, Traps (.arm c a b) (fun A s => ar4 A s ∧ ¬full A s ∧ ¬bound A s ∧ s.loadUnits A (A.rb s).toNat 32 8 0 = .error f) fun _ _ => f)))
  ∧ (
    ∀ (n : Nat) (w0 w1 w2 w3 : Word),
      let d := descAt n [w0, w1, w2, w3]
      let lg := (w2.extractLsb' 48 5).toNat
      d.entry = w0.extractLsb' 0 58 &&& ~~~3#58 ∧ d.arg = w1.extractLsb' 0 58
      ∧ d.budget.toNat = (if 10 ≤ lg ∧ lg ≤ 24 then lg else 20)
      ∧ (n < 2048 → d.radius = w2.extractLsb' 45 3) ∧ (2048 ≤ n → d.radius = 0)
      ∧ d.stage = w2.extractLsb' 37 8 ∧ d.prio = w2.extractLsb' 33 4)

/-- The instructions of the barriers and the handler table (R294, R297, R298, R300): reserved operand bits raise cause 0x01, a failed translation its
own cause, a home outside the thread's regions 0x40, a full outbox 0x33; else the barrier's message takes an outbox slot (that the address is translated as a write
is the model's reading in log 55). HTSET and HTCLR write the
entry of the channel whole, unless a valid entry belongs to another slot, which is 0x40. -/
def Obligations.BarriersAndHandlers : Prop :=
  ∀ (c : Ctl) (a b : BitVec 5),
    let B : Instr → BitVec 8 → Nat → Prop := fun i kind n =>
      let tr : Args → State → Except Fail Nat := fun A s => s.translateAligned A.n (A.ctx s) .amo spaceBank (A.ra s) 8
      let okb : Cond := fun A s => (A.rb s).toNat < 2 ^ n
      Traps i (fun A s => ¬okb A s) (fun _ _ => { cause := 0x01 })
      ∧ (∀ f, Traps i (fun A s => okb A s ∧ tr A s = .error f) fun _ _ => f)
      ∧ (∀ pa h o, Traps i (fun A s => okb A s ∧ tr A s = .ok pa ∧ homeOf pa = some (h, o) ∧ s.inRegions (A.ctx s) h = false) fun _ _ => { cause := 0x40 })
      ∧ (∀ pa h o, Traps i (fun A s => okb A s ∧ tr A s = .ok pa ∧ homeOf pa = some (h, o) ∧ s.inRegions (A.ctx s) h = true
            ∧ (A.th s).outboxRoom 0 = false) fun _ _ => { cause := 0x33 })
      ∧ (∀ pa h o, Does i (fun A s => okb A s ∧ tr A s = .ok pa ∧ homeOf pa = some (h, o) ∧ s.inRegions (A.ctx s) h = true ∧ (A.th s).outboxRoom 0 = true)
          fun A s => s.push A.n A.t { kind := kind, dst := h, opa := BitVec.ofNat 64 o, opb := A.rb s, va := some (A.ra s), lvl := s.lvlOf A.n (A.ctx s) (A.ra s) })
    let H : Instr → Nat → Cond → (Args → State → Word) → Prop := fun i n ok entry =>
      let ch : Args → State → Nat := fun A s => (A.ra s).toNat % 64
      let okb : Cond := fun A s => (A.ra s).toNat < 2 ^ n ∧ ok A s
      let other : Cond := fun A s => (vget (s.cell A.n).sched.handlers (ch A s)).getLsbD 63 = true
        ∧ (vget (s.cell A.n).sched.handlers (ch A s)).extractLsb' 61 2 ≠ A.slot s
      Traps i (fun A s => ¬okb A s) (fun _ _ => { cause := 0x01 })
      ∧ Traps i (fun A s => okb A s ∧ other A s) (fun _ _ => { cause := 0x40 })
      ∧ Does i (fun A s => okb A s ∧ ¬other A s) fun A s =>
          s.modSched A.n fun x => { x with handlers := vset x.handlers (ch A s) (entry A s) }
    B (.bara c a b) 0x0B 7 ∧ B (.barx c a b) 0x0C 1
    ∧ H (.htset c a b) 10 (fun A s => canonical (A.rb s) = true)
        (fun A s => 1#1 ++ A.slot s ++ (A.ra s).extractLsb' 6 4 ++ 0#1 ++ (A.rb s).extractLsb' 2 56)
    ∧ H (.htclr c a) 6 always (fun _ _ => 0)

/-- CSRR and CSRW (R340): a number that names no register raises 0x01, a supervisor register without privilege 0x40, save the context's own
port's LNK_CTL; a write of a device register 0x40 and of a read-only cell register 0x01. A read gives the register's value at the issue with a
variable latency; a write takes effect at the issue, and one beyond the thread's own registers clears RESTART.

TLBI (R341, R342): its limits raise 0x01, another context or a whole TLB without privilege 0x40; else the translations in scope are removed, and the
thread waits at the instruction while a message that used one is in flight. -/
def Obligations.ControlRegisters : Prop :=
  (
    ∀ (c : Ctl) (d a : BitVec 5) (i : BitVec 10),
      let num := i.toNat
      let known : Args → Prop := fun A => csrKnown A.n num = true
      let may : Cond := fun A s => num < 0x200 ∨ s.priv (A.ctx s) = true ∨ (0x240 ≤ num ∧ num < 0x248 ∧ s.ownsPort (A.ctx s) (num - 0x240) = true)
      let ro1 := 0x100 ≤ num ∧ num < 0x200
      let ro2 := (0x40 ≤ num ∧ num < 0x100) ∨ num = 0x283 ∨ num = 0x2F0
      (Traps (.csrr c d i) (fun A _ => ¬known A) (fun _ _ => { cause := 0x01 }) ∧ Traps (.csrw c a i) (fun A _ => ¬known A) fun _ _ => { cause := 0x01 })
      ∧ (Traps (.csrr c d i) (fun A s => known A ∧ ¬may A s) (fun _ _ => { cause := 0x40 }) ∧ Traps (.csrw c a i) (fun A s => known A ∧ ¬may A s) fun _ _ => { cause := 0x40 })
      ∧ WritesVar (.csrr c d i) (fun A s => known A ∧ may A s) (fun A s v => v = s.csrValue A num)
      ∧ (ro1 → Traps (.csrw c a i) (fun A s => known A ∧ may A s) fun _ _ => { cause := 0x40 })
      ∧ (¬ro1 → ro2 → Traps (.csrw c a i) (fun A s => known A ∧ may A s) fun _ _ => { cause := 0x01 })
      ∧ (num < 0x40 → Does (.csrw c a i) (fun A s => known A ∧ may A s) fun A s =>
          s.modThread A.n A.t fun th => (th.setCsr (s.now A.n A.t) num (A.ra s) false).healed (.csr num))
      ∧ (0x40 ≤ num → ¬ro1 → ¬ro2 → Does (.csrw c a i) (fun A s => known A ∧ may A s) fun A s =>
          (if devCsrs num then s.setDevCsr false num (A.ra s) else s.setCellCsr A.n num (A.ra s)).noRestart A.n A.t))
  ∧ (
    ∀ (c : Ctl) (a b : BitVec 5),
      let idle : Cond := fun A s => (A.th s).run.fence = none ∧ tlbiFail A s = none
      let dies : Args → State → List Nat := fun A s => s.tlbiDies A.n (bitsOf (A.rb s).toNat 8 6) (bitsOf (A.rb s).toNat 0 3)
      let x : Args → State → Tlbi := fun A s => { what := bitsOf (A.rb s).toNat 4 2, ctx := bitsOf (A.rb s).toNat 8 6, va := A.ra s, dies := dies A s }
      let scope : Args → State → Nat → Bool := fun A s n => if bitsOf (A.rb s).toNat 0 3 = 2 then decide (n = A.n) else (dies A s).contains (s.dieOf n)
      let cut : Args → State → State := fun A s => s.tlbi (x A s) (scope A s)
      (∀ f, Traps (.tlbi c a b) (fun A s => (A.th s).run.fence = none ∧ tlbiFail A s = some f) fun _ _ => f)
      ∧ Does (.tlbi c a b) (fun A s => idle A s ∧ (cut A s).tlbiWaits (x A s) (scope A s) = []) cut
      ∧ (∀ ids, ids ≠ [] → Waits (.tlbi c a b) (fun A s => idle A s ∧ (cut A s).tlbiWaits (x A s) (scope A s) = ids)
          fun A s => (cut A s).modThread A.n A.t fun th => { th with run := { th.run with fence := some ids } })
      ∧ (∀ ids, Waits (.tlbi c a b) (fun A s => (A.th s).run.fence = some ids ∧ s.anyInFlight ids = true) fun _ s => s)
      ∧ (∀ ids, Does (.tlbi c a b) (fun A s => (A.th s).run.fence = some ids ∧ s.anyInFlight ids = false)
          fun A s => s.modThread A.n A.t fun th => { th with run := { th.run with fence := none } })
      ∧ (∀ (A : Args) (s : State), tlbiFail A s =
          if tlbiBad (A.rb s) = true ∨ (A.rb s).toNat % 8 < 2 ∨ 4 < (A.rb s).toNat % 8 then some { cause := 0x01 }
          else if s.priv (A.ctx s) = false ∧ (((A.rb s).extractLsb' 8 6).toNat ≠ A.ctx s ∨ ((A.rb s).extractLsb' 4 2).toNat = 2) then some { cause := 0x40 }
          else none))

/-- END, HALT, BRK and PWRQ (R117, R302, R343, R381): END and HALT leave the thread issuing nothing more of its run, HALT only with privilege, else
0x40; BRK freezes the thread with cause 0x60 and xs1's low half as DETAIL after it has advanced the PC, its STALL counting as any instruction's (R49); PWRQ requests an operating point,
reserved bits and WAKE with a point raise 0x01, and answers the request and the point in force.

A channel core's bulk accesses (R226, R250): HLD reads a doubleword of bulk space, HST writes one, in program order, and both pass the loft; HPF
fetches its line into the loft where the address translates and never faults; HFL, with privilege, checks the first and the last byte of its
range and writes the loft's dirty lines of it back, which changes no byte. Their failing checks trap.

The loft (R9, R24, R226): an access to a line that a layer holds counts HIT; else the line's layer counts MISS and holds the line; a write
leaves the line dirty; a line that is written back counts WBACK. Which line a full layer gives up and which of two layers takes a line are log
19's choices.
That PWRQ's answer is of variable latency is log 124's choice. -/
def Obligations.EndHaltBreakPowerAndBulk : Prop :=
  (
    ∀ (c : Ctl) (d a : BitVec 5),
      let th : (Run → Run) → Args → State → State := fun f A s => s.modThread A.n A.t fun th => { th with run := f th.run }
      let wake : Args → State → Bool := fun A s => (A.ra s).getLsbD 3
      let op : Args → State → Nat := fun A s => (A.ra s).toNat % 8
      let okp : Cond := fun A s => (A.ra s).toNat < 16 ∧ (wake A s = true → op A s = 0)
      Stops (.endTask c) always (th fun r => { r with ending := true })
      ∧ Stops (.halt c) (fun A s => s.priv (A.ctx s) = true) (th fun r => { r with halting := true })
      ∧ Traps (.halt c) (fun A s => s.priv (A.ctx s) = false) (fun _ _ => { cause := 0x40 })
      ∧ (∀ g A s, Issues (.brk c a) g A s →
          exec (.brk c a) s = .next (((s.startIssue.advance A).endIssue A A.gap true).trapAt A { cause := 0x60, detail := (A.ra s.startIssue).setWidth 32 }))
      ∧ Traps (.pwrq c d a) (fun A s => ¬okp A s) (fun _ _ => { cause := 0x01 })
      ∧ (∀ r, Does (.pwrq c d a) (fun A s => okp A s ∧ r = if wake A s then 4 else min (op A s) (s.cell A.n).power.ceil.toNat)
          fun A s => (s.modCore A.n A.t fun k => { k with req := BitVec.ofNat 3 r }).writeVarD A
            (BitVec.ofNat 64 (r + 8 * if isChan A.n then 4 else (s.cell A.n).power.op.toNat))))
  ∧ (
    ∀ (c : Ctl) (d a b : BitVec 5) (i : BitVec 10),
      let va : Args → State → Word := fun A s => A.ra s + c.imm i
      let rd : Args → State → Except Fail Nat := fun A s => s.translateAligned A.n (A.ctx s) .load spaceBulk (va A s) 8
      let wr : Args → State → Except Fail Nat := fun A s => s.translateAligned A.n (A.ctx s) .store spaceBulk (va A s) 8
      let real : Args → Prop := fun A => ¬(A.fd = .x ∧ A.d = 0)
      let len : Args → State → Nat := fun A s => (A.rb s).toNat % 2 ^ 32
      let at_ : Args → State → Word → Except Fail Nat := fun A s v => s.translate A.n (A.ctx s) .load spaceBulk v
      Does (.hld c d a i) (fun A _ => ¬real A) (fun A s => s.touch A.n)
      ∧ (∀ f, Traps (.hld c d a i) (fun A s => real A ∧ rd A s = .error f) fun _ _ => f)
      ∧ (∀ pa, Leaves (.hld c d a i) (fun A s => real A ∧ rd A s = .ok pa ∧ s.poisoned pa = false) fun A s t =>
          ∃ v, (∀ k, k < 8 → v.extractLsb' (8 * k) 8 = s.mem.get (pa + k)) ∧ t = (s.loftAccess pa false).writeVarD A v)
      ∧ (∀ pa, Traps (.hld c d a i) (fun A s => real A ∧ rd A s = .ok pa ∧ s.poisoned pa = true ∧ s.precise A.n (A.slot s) = true)
          fun A s => { cause := 0x50, addr := va A s, detail := s.errSource A.n pa })
      ∧ (∀ pa, Does (.hld c d a i) (fun A s => real A ∧ rd A s = .ok pa ∧ s.poisoned pa = true ∧ s.precise A.n (A.slot s) = false)
          fun A s => ((s.modThread A.n A.t fun th => th.failed (va A s) (s.errSource A.n pa)).loftAccess pa false).writeVarD A (s.readWord pa))
      ∧ (∀ f, Traps (.hst c a b i) (fun A s => wr A s = .error f) fun _ _ => f)
      ∧ (∀ pa, Leaves (.hst c a b i) (fun A s => s.mem.wf = true ∧ wr A s = .ok pa ∧ homeOf pa = none)
          fun A s t => (∀ k, k < 8 → t.mem.get (pa + k) = (A.rb s).extractLsb' (8 * k) 8) ∧ (∀ x, (x < pa ∨ pa + 8 ≤ x) → t.mem.get x = s.mem.get x)
            ∧ (t.thread A.n A.t).run.restart = false ∧ ∀ n k fl r, (t.thread n k).reg fl r = (s.thread n k).reg fl r)
      ∧ (∀ f, Does (.hpf c a i) (fun A s => s.translate A.n (A.ctx s) .load spaceBulk (va A s) = .error f) fun _ s => s)
      ∧ (∀ pa, Does (.hpf c a i) (fun A s => s.translate A.n (A.ctx s) .load spaceBulk (va A s) = .ok pa) fun _ s => s.loftAccess pa false)
      ∧ Traps (.hfl c a b) (fun A s => s.priv (A.ctx s) = false) (fun _ _ => { cause := 0x40 })
      ∧ Does (.hfl c a b) (fun A s => s.priv (A.ctx s) = true ∧ len A s = 0) (fun _ s => s)
      ∧ (∀ p q, Leaves (.hfl c a b) (fun A s => s.priv (A.ctx s) = true ∧ len A s ≠ 0 ∧ at_ A s (A.ra s) = .ok p
            ∧ at_ A s (A.ra s + BitVec.ofNat 64 (len A s - 1)) = .ok q) fun A s t =>
          t.mem = s.mem ∧ (∀ n, t.cell n = s.cell n) ∧ (∀ e ∈ t.misc.loft, ∃ x ∈ s.misc.loft, x.line = e.line ∧ x.layer = e.layer)
            ∧ (∀ y, pageParts (A.ra s) (len A s) = [y] → ∀ x, at_ A s y.1 = .ok x → t = { s with misc := s.misc.loftFlush (lineOf x) (x + y.2) }))
      ∧ (∀ p f, Traps (.hfl c a b) (fun A s => s.priv (A.ctx s) = true ∧ len A s ≠ 0 ∧ (at_ A s (A.ra s) = .error f
            ∨ (at_ A s (A.ra s) = .ok p ∧ at_ A s (A.ra s + BitVec.ofNat 64 (len A s - 1)) = .error f))) fun _ _ => f))
  ∧ (
    ∀ (m : DevMisc) (line : Nat) (w : Bool),
      let u := m.loftUse line w
      let count : DevMisc → Nat → Nat → Word := fun x l k => vget (vget x.loftCnt l) k
      let bump : Nat → Nat → Prop := fun l k => ∀ l' k', l' < 2 → k' < 4 → count u l' k' = if (l', k') = (l, k) then count m l k + 1 else count m l' k'
      (∀ e, m.loft.find? (fun e => e.line = line) = some e → e.layer < 2 →
        bump e.layer 0 ∧ u.loft = m.loft.map fun x => if x.line = line then { x with dirty := x.dirty || w } else x)
      ∧ (∀ k, m.loft.find? (fun e => e.line = line) = none → m.loftLayer line = some k → (m.loft.filter fun e => e.layer = k).length < loftLines →
        bump k 1 ∧ u.loft = m.loft ++ [{ line := line, layer := k, dirty := w }])
      ∧ (m.loft.find? (fun e => e.line = line) = none → m.loftLayer line = none → u = m)
      ∧ (∀ lo hi x, m.loft = [x] → lo ≤ x.line → x.line < hi → x.dirty = true → x.layer < 2 →
        (m.loftFlush lo hi).loft = [{ x with dirty := false }]
        ∧ count (m.loftFlush lo hi) x.layer 2 = count m x.layer 2 + 1))

/-- Enqueueing (R140, R141): each wide-unit instruction is captured as the entry that its fields, its scalar operand and its tile's
configuration make, unless a check fails, which traps and changes nothing, or its core's queue holds 16 that have not started, where the thread
waits (that started ones take no place of the 16 is log 14's choice, and that the checks come before the wait log 57's reading). A short matrix form takes its pair and second word from the tile (R161).

The checks of an enqueue in their order (R141): operand values 0x01; a byte at or above the node's limit 0x25; a misaligned element 0x24;
bytes outside the grant 0x40, then a tile, table or line outside it 0x40; no slot in the table 0x41; no room in the granary 0x13. ADDR is the first
failing element's.

What an enqueue changes (R76, R142): the entry stands last in its core's queue; SRS takes one step where the instruction is of the rounding
set, and its new value is the entry's private state; each q pointer advances by its stride once for every element of every operand that names
it, modulo 2^22, and is otherwise unchanged; the destination of VRSUM and VRMAX turns empty; memory and the other threads stand. -/
def Obligations.WideInstructionsEnqueue : Prop :=
  (
    ∀ (c : Ctl) (t d a b e fn : BitVec 5) (w2 : BitVec 32),
      let E : Instr → (Args → State → WuEnt) → (Args → State → Bool) → Prop := fun i mk bad =>
        let fail : Args → State → Option Fail := fun A s => enqueueFail (bad A s) A s (A.recorded s (mk A s))
        let full : Cond := fun A s => 16 ≤ ((s.core A.n A.t).wuq.filter fun e => e.st = .queued).length
        (∀ f, Traps i (fun A s => fail A s = some f) fun _ _ => f)
        ∧ Waits i (fun A s => fail A s = none ∧ full A s) (fun _ s => s)
        ∧ Does i (fun A s => fail A s = none ∧ ¬full A s) fun A s => s.enqueue A (mk A s)
      let op : Args → WuKind → Nat → BitVec 32 → WuOp := fun A k fn w2 =>
        { kind := k, fn := fn, d := A.d, a := A.a, b := A.b, e := A.e, file := A.fd, w1 := A.word, w2 := w2 }
      let ok : Args → State → Bool := fun _ _ => false
      let V : Instr → WuKind → Nat → (Args → State → Word) → Prop := fun i k ty xs => E i (fun A s => A.entry s (op A k ty 0) (xs A s)) ok
      let zero : Args → State → Word := fun _ _ => 0
      let short : WuKind → Args → State → WuEnt := fun k A s =>
        let cfg := (vget (s.cell A.n).wide.tiles A.d).cfg
        A.entry s (op A k (cfg.extractLsb' 24 4).toNat (impliedWord cfg A.e)) (A.rb s)
      let long : WuKind → BitVec 5 → BitVec 32 → Args → State → WuEnt := fun k fn w2 A s => A.entry s (op A k fn.toNat w2) (A.rb s)
      let S : Instr → WuKind → Prop := fun i k => E i (short k) fun A s => mmaBad true (A.recorded s (short k A s))
      let L : Instr → WuKind → Prop := fun i k => E i (long k fn w2) fun A s => mmaBad false (A.recorded s (long k fn w2 A s))
      let D : Instr → (WuEnt → Bool) → WuKind → Prop := fun i bad k => E i (long k 0 w2) fun A s => bad (A.recorded s (long k 0 w2 A s))
      (E (.tcfg c d a) (fun A s => A.entry s (op A .tcfg 0 0) (A.ra s)) (fun A s => !tcfgOk (A.ra s))
        ∧ V (.tzero c d) .tzero 0 zero ∧ V (.tld c d a) .tld 0 zero ∧ V (.tst c d a) .tst 0 zero
        ∧ D (.tldd c d a b w2) blockBad .tldd ∧ D (.tstd c d a b w2) blockBad .tstd
        ∧ V (.wld c a b) .wld 0 (fun A s => A.rb s)
        ∧ E (.dtld c d a w2) (fun A s => { A.entry s (op A .dtld 0 w2) (A.ra s + c.imm w2) with s1 := { addr := (A.ra s + c.imm w2).setWidth 22 } }) ok)
      ∧ (S (.mma c d a b e) .mma ∧ S (.mmas c d a b e) .mmas ∧ S (.mmao c d a b e) .mmao
        ∧ L (.mmad c fn d a b w2) .mmad ∧ L (.mmasd c fn d a b w2) .mmasd ∧ L (.mmaod c fn d a b w2) .mmaod)
      ∧ (V (.vadd c t d a b) .vadd t.toNat zero ∧ V (.vsub c t d a b) .vsub t.toNat zero ∧ V (.vmul c t d a b) .vmul t.toNat zero
        ∧ V (.vfma c d a b e) .vfma 0 zero ∧ V (.vmax c t d a b) .vmax t.toNat zero ∧ V (.vmin c t d a b) .vmin t.toNat zero
        ∧ V (.vexp2 c t d a) .vexp2 t.toNat zero ∧ V (.vlog2 c t d a) .vlog2 t.toNat zero ∧ V (.vrcp c t d a) .vrcp t.toNat zero
        ∧ V (.vrsq c t d a) .vrsq t.toNat zero ∧ V (.vtanh c t d a) .vtanh t.toNat zero
        ∧ V (.vrsum c t d a) .vrsum t.toNat zero ∧ V (.vrmax c t d a) .vrmax t.toNat zero
        ∧ V (.vcvt c t d a) .vcvt t.toNat zero ∧ V (.vxpose c t d a) .vxpose t.toNat zero
        ∧ V (.vbcast c t d a) .vbcast t.toNat (fun A s => A.ra s) ∧ V (.vscale c t d a b) .vscale t.toNat (fun A s => A.rb s)
        ∧ D (.vcvtd c d a b w2) cvtBad .vcvtd))
  ∧ (
    ∀ (bad : Bool) (A : Args) (s : State) (e : WuEnt),
      let g := s.grant A.n (A.slot s)
      let rs := A.touches s e
      let rec_ := A.records s e
      let c1 := bad = false ∧ (rec_ = true → e.sheafLen ≤ 1023)
      let inLM := ∀ r ∈ rs, r.o.toNat + r.len ≤ nodeLimit A.n
      let even := ∀ r ∈ rs, r.o.toNat % r.align = 0
      let granted := ∀ r ∈ rs, inGrant g (A.slot s) r.o.toNat r.len = true
      let units := e.op.tile.all (grantsTile g) = true ∧ e.op.tabs.all (grantsTab g) = true ∧ e.lines.all (fun p => grantsLines g p.1 p.2) = true
      let slots := ∃ k, k < 16 ∧ (slotV (s.cell A.n).wide.inForce k = false ∨ slotCtxOf (s.cell A.n).wide.inForce k = (A.slot s).toNat)
      let F := enqueueFail bad A s e
      let first : BitVec 8 → (Range → Prop) → Prop := fun c p =>
        ∃ pre r post, rs = pre ++ r :: post ∧ (∀ x ∈ pre, ¬p x) ∧ p r ∧ F = some { cause := c, addr := r.o, detail := BitVec.ofNat 32 (4 * bit r.write) }
      (¬c1 → F = some { cause := 0x01 })
      ∧ (c1 → ¬inLM → first 0x25 fun r => nodeLimit A.n < r.o.toNat + r.len)
      ∧ (c1 → inLM → ¬even → first 0x24 fun r => r.o.toNat % r.align ≠ 0)
      ∧ (c1 → inLM → even → ¬granted → first 0x40 fun r => inGrant g (A.slot s) r.o.toNat r.len = false)
      ∧ (c1 → inLM → even → granted → ¬units → F = some { cause := 0x40 })
      ∧ (c1 → inLM → even → granted → units → ¬slots → F = some { cause := 0x41 })
      ∧ (c1 → inLM → even → granted → units → slots → F = if rec_ then (A.th s).ctrl.granFail e.sheafLen else none))
  ∧ (
    ∀ (s : State) (A : Args) (e : WuEnt),
      let t := s.capture A e
      let th := s.thread A.n A.t
      ((t.core A.n A.t).wuq = (s.core A.n A.t).wuq ++ [if e.op.rounds then { e with seed := (srStep th.ctrl.srs).1 } else e] ∨ 4 ≤ coreIx A.n A.t)
      ∧ (t.thread A.n A.t).ctrl = (if e.op.rounds then { th.ctrl with srs := (srStep th.ctrl.srs).1 } else th.ctrl)
      ∧ (∀ fl r, fl ≠ .q → (t.thread A.n A.t).reg fl r = th.reg fl r)
      ∧ (∀ r, r < 8 →
          let w := th.reg .q r
          let w' := (t.thread A.n A.t).reg .q r
          let k := ((e.uses.filter fun u => u.q = some r).map Use.count).sum
          w'.extractLsb' 22 42 = w.extractLsb' 22 42
            ∧ w'.extractLsb' 0 22 = w.extractLsb' 0 22 + BitVec.ofNat 22 k * (w.extractLsb' 32 16).signExtend 22)
      ∧ ((e.op.kind = .vrsum ∨ e.op.kind = .vrmax) → (A.fd = .x ∧ A.d ≠ 0 ∨ A.fd = .f) → A.d < 32 → (t.thread A.n A.t).full A.fd A.d = false)
      ∧ t.mem = s.mem ∧ (∀ n k, (n, k) ≠ (A.n, A.t) → t.thread n k = s.thread n k)
      ∧ (e.op.rounds = true ↔ ((e.op.kind = .vadd ∨ e.op.kind = .vsub ∨ e.op.kind = .vmul ∨ e.op.kind = .vexp2 ∨ e.op.kind = .vlog2 ∨ e.op.kind = .vrcp
          ∨ e.op.kind = .vrsq ∨ e.op.kind = .vtanh ∨ e.op.kind = .vrsum ∨ e.op.kind = .vscale) ∧ e.op.fn < 3)
          ∨ e.op.kind = .vfma ∨ e.op.kind = .vcvt ∨ e.op.kind = .vcvtd ∨ (e.op.kind = .vbcast ∧ (e.op.fn = 1 ∨ e.op.fn = 2))))

/-- What the vector instructions compute (R165 to R172): element by element the sum, difference, product, fused product and sum, pick, scaling,
conversion or unary function of their sources, each rounded once into the element type; integers fitted to their width by SAT; the exact sum
of all elements rounded once; the greatest element, the first of equal ones, and NaN where any element is NaN; one value, converted once,
in every element; the transposition, whose element k is source element (k mod 8) × c + k / 8 of c columns; a subnormal source reads as
zero.

The special cases of the unary functions (R167): infinities, zeros and negative operands give what its table says, with DZ or NV; a power
of two with an integer exponent is exact.

Element-wise rounding of the wide unit (R76, R83): each result is delivered from its own exact value, with one step of the private generator per
inexact element under SR, in increasing index, and the flags of all are set; a tiny result is a zero of its sign with UF and NX. -/
def Obligations.VectorElements : Prop :=
  (
    ∀ (op : WuOp) (rm : BitVec 3) (sat : BitVec 2) (g xs free : Word) (src : Nat → List Byte),
      let ty := op.fn
      let out := vecEval op rm sat g xs free src
      let fl : (Val → Val → Op) → VecOut := fun f =>
        let r := roundAll (elFmt ty) rm g (List.zipWith f (elVals ty (src 1)) (elVals ty (src 2)))
        { dest := elBytes ty r.1, flags := r.2 }
      let all : Nat → List Op → VecOut := fun ty os => { dest := elBytes ty (roundAll (elFmt ty) rm g os).1, flags := (roundAll (elFmt ty) rm g os).2 }
      let conv : Val → Op := fun v => { v := v, flags := if v.sNan then 16 else 0 }
      let int : (Int → Int → Int) → Prop := fun f => out.flags = 0 ∧
        ∃ vs : List Nat, out.dest = elBytes ty vs ∧ vs.length = (List.zipWith f (elInts ty (src 1)) (elInts ty (src 2))).length
          ∧ ∀ (k : Nat) (i : Int), (List.zipWith f (elInts ty (src 1)) (elInts ty (src 2)))[k]? = some i → ∃ v : BitVec (elBits ty), Fitted sat (elBits ty) i v ∧ vs[k]? = some v.toNat
      (op.kind = .vadd → (ty < 3 → out = fl (opAdd rm)) ∧ (3 ≤ ty → int (· + ·)))
      ∧ (op.kind = .vsub → (ty < 3 → out = fl fun x y => opAdd rm x y.negate) ∧ (3 ≤ ty → int (· - ·)))
      ∧ (op.kind = .vmul → (ty < 3 → out = fl fun x y => opMul x y) ∧ (3 ≤ ty → int (· * ·)))
      ∧ (op.kind = .vmax → 3 ≤ ty → int max) ∧ (op.kind = .vmin → 3 ≤ ty → int min)
      ∧ (op.kind = .vmax → ty < 3 → out.dest = (fl (opPick true)).dest ∧ out.flags = (fl (opPick true)).flags)
      ∧ (op.kind = .vmin → ty < 3 → out.dest = (fl (opPick false)).dest ∧ out.flags = (fl (opPick false)).flags)
      ∧ (op.kind = .vfma → out = all 0 (List.zipWith (fun p c => opFma rm p.1 p.2 c) ((elVals 0 (src 1)).zip (elVals 0 (src 2))) (elVals 0 (src 3))))
      ∧ (ty < 3 →
          let one : (Val → Op) → VecOut := fun f => all ty ((elVals ty (src 1)).map f)
          (op.kind = .vexp2 → out = one opExp2) ∧ (op.kind = .vlog2 → out = one opLog2)
            ∧ (op.kind = .vrcp → out = one fun x => opDiv (.num { m := 1 }) x) ∧ (op.kind = .vrsq → out = one opRsq) ∧ (op.kind = .vtanh → out = one opTanh)
            ∧ (op.kind = .vscale → out = one fun x => opMul x (binary32.value true true (xs.toNat % 2 ^ 32))))
      ∧ (op.kind = .vcvt → ty < 3 → out = all ty ((elVals 0 (src 1)).map conv))
      ∧ (op.kind = .vcvt → 3 ≤ ty → out = { dest := elBytes ty (toIntAll (elBits ty) rm g (elVals 0 (src 1))).1, flags := (toIntAll (elBits ty) rm g (elVals 0 (src 1))).2 })
      ∧ (op.kind = .vbcast → (ty = 1 ∨ ty = 2) →
          let o := conv (binary32.value true true (xs.toNat % 2 ^ 32))
          let r := (elFmt ty).deliver true rm (srStep g).2 o.v
          out = { dest := elBytes ty (List.replicate (vecLen ty) r.bits), flags := r.flags ||| o.flags })
      ∧ (op.kind = .vbcast → 3 ≤ ty →
          ∃ v : BitVec (elBits ty), Fitted sat (elBits ty) xs.toInt v ∧ out = { dest := elBytes ty (List.replicate (vecLen ty) v.toNat) })
      ∧ (op.kind = .vrmax → 3 ≤ ty → elInts ty (src 1) ≠ [] →
          ∃ m ∈ elInts ty (src 1), (∀ i ∈ elInts ty (src 1), i ≤ m) ∧ out = { reg := BitVec.ofInt 64 m })
      ∧ (op.kind = .vrmax → ty < 3 →
          let vs := elVals ty (src 1)
          ((∃ v ∈ vs, v.isNan = true) → out.reg = 0xFFFFFFFF#32 ++ BitVec.ofNat 32 binary32.nan
              ∧ out.flags = (if vs.any Val.sNan then 16 else 0))
          ∧ ((∀ v ∈ vs, v.isNan = false) → vs ≠ [] → ∃ k v, vs[k]? = some v
              ∧ (∀ w ∈ vs, belowVal v w = false) ∧ (∀ j w, j < k → vs[j]? = some w → belowVal w v = true)
              ∧ out.reg = 0xFFFFFFFF#32 ++ BitVec.ofNat 32 (binary32.deliver true 0 0 v).bits ∧ out.flags = 0 ∧ out.extra = natBytes 4 k))
      ∧ (op.kind = .vxpose → (src 1).length = 256 → ty ≤ 8 → ∀ k, k < vecLen ty →
          let w := elWidth ty
          (out.dest.drop (w * k)).take w = ((src 1).drop (w * (k % 8 * (vecLen ty / 8) + k / 8))).take w)
      ∧ (op.kind = .vrsum → 3 ≤ ty → out.reg = BitVec.ofInt 64 (elInts ty (src 1)).sum ∧ out.flags = 0)
      ∧ (op.kind = .vrsum → ty < 3 →
          out.reg = 0xFFFFFFFF#32 ++ BitVec.ofNat 32 (binary32.deliver true rm (srStep g).2 (opSum rm (elVals ty (src 1))).v).bits
            ∧ out.flags = (binary32.deliver true rm (srStep g).2 (opSum rm (elVals ty (src 1))).v).flags ||| (opSum rm (elVals ty (src 1))).flags)
      ∧ (op.kind = .vxpose → out.flags = 0)
      ∧ (op.kind = .vbcast → ty = 0 → out.dest = elBytes 0 (List.replicate 64 (xs.toNat % 2 ^ 32)) ∧ out.flags = 0)
      ∧ (∀ (F : Fmt) (ieee : Bool) (b : Nat), b / 2 ^ F.fb % 2 ^ F.eb = 0 → 0 < F.eb → ∃ n e, F.value ieee true b = .num { neg := n, m := 0, e := e }))
  ∧ (
    ∀ (F : Fmt) (mode : BitVec 3) (g : Word) (o : Op) (os : List Op),
      let r := F.deliver true mode (srStep g).2 o.v
      let t := roundAll F mode (if r.step = true ∧ mode = 6 then (srStep g).1 else g) os
      roundAll F mode g [] = ([], 0)
      ∧ roundAll F mode g (o :: os) = (r.bits :: t.1, r.flags ||| o.flags ||| t.2)
      ∧ (∀ x : Ex, 0 < x.m → (roundTo F.p mode (srStep g).2 x).1.top < F.emin →
          (F.deliver true mode (srStep g).2 (.num x)).bits = F.zeroBits x.neg ∧ (F.deliver true mode (srStep g).2 (.num x)).flags = 3))
  ∧ (
    ∀ (n : Nat) (mode : BitVec 3) (g : Word) (v : Val) (vs : List Val),
      let r := toInteger (-(2 ^ (n - 1) : Int)) (2 ^ (n - 1) - 1) mode (srStep g).2 v
      let t := toIntAll n mode (if r.2.2 = true ∧ mode = 6 then (srStep g).1 else g) vs
      toIntAll n mode g (v :: vs) = ((BitVec.ofInt n r.1).toNat :: t.1, r.2.1 ||| t.2))
  ∧ (
    ∀ (a b : Val) (greatest : Bool),
      let p := opPick greatest a b
      (p.flags = if a.sNan = true ∨ b.sNan = true then 16 else 0)
      ∧ (p.v = a ∨ p.v = b)
      ∧ (a.isNan = true → b.isNan = false → p.v = b) ∧ (b.isNan = true → p.v = a)
      ∧ (a.isNan = false → b.isNan = false → cmpVal a b < 0 → p.v = if greatest then b else a)
      ∧ (a.isNan = false → b.isNan = false → cmpVal b a < 0 → p.v = if greatest then a else b)
      ∧ (a.isNan = false → b.isNan = false → cmpVal a b = 0 → a.neg? = true → b.neg? = false → p.v = if greatest then b else a)
      ∧ (a.isNan = false → b.isNan = false → cmpVal a b = 0 → a.neg? = false → b.neg? = true → p.v = if greatest then a else b)
      ∧ (belowVal a b = true ↔ cmpVal a b < 0 ∨ (cmpVal a b = 0 ∧ a.neg? = true ∧ b.neg? = false)))
  ∧ (
    ∀ (x : Ex) (s : Bool),
      let zero : Bool → Val := fun n => .num { neg := n }
      (opExp2 (.inf true) = { v := zero false } ∧ opExp2 (.inf false) = { v := .inf false } ∧ (x.m = 0 → opExp2 (.num x) = { v := .num { m := 1 } })
        ∧ (0 < x.m → 0 ≤ x.e → opExp2 (.num x) = { v := .num { m := 1, e := (if x.neg then -1 else 1) * (x.m * 2 ^ x.e.toNat : Nat) } }))
      ∧ ((x.m = 0 → opLog2 (.num x) = { v := .inf true, flags := 8 }) ∧ (0 < x.m → x.neg = true → (opLog2 (.num x)).v.isNan = true ∧ (opLog2 (.num x)).flags = 16)
        ∧ (opLog2 (.inf false) = { v := .inf false }) ∧ ((opLog2 (.inf true)).v.isNan = true ∧ (opLog2 (.inf true)).flags = 16)
        ∧ (∀ e, opLog2 (.num { m := 1, e := e }) = { v := .num (Ex.ofUnits e 0) }))
      ∧ ((x.m = 0 → opRsq (.num x) = { v := .inf x.neg, flags := 8 }) ∧ (0 < x.m → x.neg = true → (opRsq (.num x)).v.isNan = true ∧ (opRsq (.num x)).flags = 16)
        ∧ opRsq (.inf false) = { v := zero false })
      ∧ ((x.m = 0 → opTanh (.num x) = { v := .num x }) ∧ opTanh (.inf s) = { v := .num { neg := s, m := 1 } }))

/-- The order in which a matrix element is summed (R94): groups of 8 products, or of all of them where there are fewer, are summed exactly, and the
accumulator takes each group's sum with one rounding to A48 to nearest even (R93).

Encoding into a table's codes (R89): in a table that is not well formed every value gives code 0 with NV; in a well-formed one a NaN gives the least NaN code
or the zero code with NV; a number between the least and greatest entries a code of the sequence whose entry is nearest, with NX where it
differs; among the nearest, a zero prefers the entries of its own sign, then the even codes stand before the odd ones, and the least stands
first; a number beyond them is an outlier, with the zero code and the code that it saturates to: the least even one with the greatest or the least
entry, or else the least; an infinity is the least code with that infinity, or an outlier. -/
def Obligations.MatrixSumOrder : Prop :=
  (
    ∀ (c : Nat) (ps rest : List Op),
      let step : Nat → Op → Nat × BitVec 5 := fun c g =>
        let o := opAdd 0 (a48.value false true c) g.v
        let r := a48.deliver true 0 0 o.v
        (r.bits, g.flags ||| o.flags ||| r.flags)
      (ps ≠ [] → ps.length ≤ 8 → sumOrder c ps = step c (groupSum ps))
      ∧ (ps.length = 8 → rest ≠ [] → rest.length % 8 = 0 →
          sumOrder c (ps ++ rest) = ((sumOrder (step c (groupSum ps)).1 rest).1, (step c (groupSum ps)).2 ||| (sumOrder (step c (groupSum ps)).1 rest).2))
      ∧ (∀ (a b : Op), (prodOp a b).v = (opMul a.v b.v).v ∧ (prodOp a b).flags = (opMul a.v b.v).flags ||| a.flags ||| b.flags)
      ∧ (groupSum ps).v = (opSum 0 (ps.map Op.v)).v)
  ∧ (
    ∀ (t : DTab) (code4 : Bool) (v : Val) (x : Ex),
      let seq := codeSeq t.mode code4
      let num : Nat → Prop := fun c => c ∈ seq ∧ ∃ y, t.value c = .num y
      let dist : Nat → Nat := fun c => (x.units (min x.e (-400)) - (t.value c).ex.units (min x.e (-400))).natAbs
      let cand : Nat → Prop := fun c => num c ∧ ∀ k, num k → dist c ≤ dist k
      let kept : Nat → Prop := fun c => cand c ∧ (x.zero = true → (∃ k, cand k ∧ (t.value k).neg? = x.neg) → (t.value c).neg? = x.neg)
      let fav : Nat → Prop := fun c => kept c ∧ ((∃ k, kept k ∧ k % 2 = 0) → c % 2 = 0)
      let edge : Bool → Nat → Prop := fun top c =>
        num c ∧ ∀ k, num k → if top then cmpVal (t.value k) (t.value c) ≤ 0 else cmpVal (t.value c) (t.value k) ≤ 0
      let even : Bool → Nat → Prop := fun top c => edge top c ∧ ((∃ k, edge top k ∧ k % 2 = 0) → c % 2 = 0)
      let satOf : Bool → Nat → Prop := fun top h => even top h ∧ ∀ k, even top k → h ≤ k
      (t.wf code4 = false → t.encode code4 v = .code 0 16)
      ∧ (t.wf code4 = true → (∀ c fl, t.encode code4 (.num x) = .code c fl →
          num c ∧ (∀ k, num k → dist c ≤ dist k) ∧ (fl = 0 ∨ fl = 1) ∧ (fl = 0 ↔ cmpVal (t.value c) (.num x) = 0)
            ∧ fav c ∧ ∀ k, fav k → c ≤ k))
      ∧ (t.wf code4 = true → ∀ z h, t.encode code4 (.num x) = .outlier z h →
          ((∀ k, num k → cmpVal (t.value k) (.num x) < 0) ∧ satOf true h ∨ (∀ k, num k → cmpVal (.num x) (t.value k) < 0) ∧ satOf false h)
            ∧ z = t.zeroCode code4)
      ∧ (t.wf code4 = true → ∀ s,
          ((∃ k ∈ seq, t.value k = .inf s) → ∃ k ∈ seq, t.value k = .inf s ∧ t.encode code4 (.inf s) = .code k 0 ∧ ∀ j ∈ seq, t.value j = .inf s → k ≤ j)
          ∧ ((∀ k ∈ seq, t.value k ≠ .inf s) → ∃ h, t.encode code4 (.inf s) = .outlier (t.zeroCode code4) h ∧ satOf (!s) h))
      ∧ (t.wf code4 = true →
          let zero : Nat → Prop := fun k => k ∈ seq ∧ (t.value k).isZero = true
          let best : Nat → Prop := fun k => zero k ∧ ((∃ j, zero j ∧ (t.value j).neg? = false) → (t.value k).neg? = false)
          best (t.zeroCode code4) ∧ ∀ k, best k → t.zeroCode code4 ≤ k)
      ∧ (t.wf code4 = true → ∀ sn, ((∀ k ∈ seq, (t.value k).isNan = false) → t.encode code4 (.nan sn) = .code (t.zeroCode code4) 16)
          ∧ ((∃ k ∈ seq, (t.value k).isNan = true) → ∃ k ∈ seq, (t.value k).isNan = true ∧ t.encode code4 (.nan sn) = .code k 0
              ∧ ∀ j ∈ seq, (t.value j).isNan = true → k ≤ j)))

/-- Tiles (R150 to R154, R409): TCFG sets the configuration and zeroes the tile unless the new shape and type are the old ones; TZERO zeroes
it. TLD and TLDD put the block's elements, row i at the captured address + i × stride and in it one after the other, into the tile, a zero of its sign
for an A48 element whose EXP is 0, and leave the others; a poisoned row raises 0x50. TST and TSTD write the block's rows at theirs.

The matrix forms (R94, R160 to R164): an element of C becomes sum_order of its products, from itself or, under ZERO, from zero, of the
effective values: an element's own value or its code's, times its block's scale; a sparse panel gives a value for each of the first N set bits of a
mask word and none elsewhere. MMAO then adds the corrections of its list, entry after entry.

VCVTD (R174, R89, R90): the source's values, from a stream or a tile, are converted, each rounded once; or encoded, where an outlier
enters the list while it has room, raises 0x14 under OLT, or saturates with OLF and NX.

TWAIT (R175): it waits while an instruction of the thread other than the youngest n is not yet complete, or, without the completion bit, not yet started;
then it gives the number of the thread's instructions that are not complete, all of them counted (log 117's choice).
That this number is of variable latency is log 124's choice. -/
def Obligations.TileConfiguration : Prop :=
  (
    ∀ (e : WuEnt) (n : Nat) (s : State), e.op.d < 8 →
      let w := (s.cell n).wide
      let old := vget w.tiles e.op.d
      let new := vget (tileEffect e n s).wide.tiles e.op.d
      (e.op.kind = .tcfg → new.cfg = e.xs ∧ (old.cfg.extractLsb' 0 24 = e.xs.extractLsb' 0 24 → new.el = old.el)
          ∧ (old.cfg.extractLsb' 0 24 ≠ e.xs.extractLsb' 0 24 → new.el = []))
      ∧ (e.op.kind = .tzero → new.cfg = old.cfg ∧ new.el = [])
      ∧ (∀ k, k ≠ e.op.d → vget (tileEffect e n s).wide.tiles k = vget w.tiles k)
      ∧ (tileEffect e n s).lm = [] ∧ (tileEffect e n s).flags = 0 ∧ (tileEffect e n s).reg = none
      ∧ (∀ cfg b, (cfg : Word).extractLsb' 20 4 = 0 → b < 2 ^ 48 → b / 2 ^ 38 % 512 = 0 → loadBits cfg b = b / 2 ^ 47 * 2 ^ 47))
  ∧ (
    ∀ (e : WuEnt) (n : Nat) (s : State),
      let w := (s.cell n).wide
      let r0 := e.block.1
      let nr := e.block.2.1
      let c0 := e.block.2.2.1
      let nc := e.block.2.2.2
      let wd := tileWidth e.cfg
      let row : Nat → Nat := fun i => nodeBase n + e.s1.at_ i
      let bad : Nat → Prop := fun i => s.poisonedIn (row i) (nc * wd) = true
      ((e.op.kind = .tld ∨ e.op.kind = .tst) → e.block = (0, tileRows e.cfg, 0, tileCols e.cfg))
      ∧ ((e.op.kind = .tldd ∨ e.op.kind = .tstd) → e.block = ((e.op.w2.extractLsb' 0 10).toNat, (e.op.w2.extractLsb' 10 10).toNat + 1,
          (e.op.w2.extractLsb' 20 10).toNat, (e.xs.extractLsb' 0 10).toNat + 1))
      ∧ ((e.op.kind = .tld ∨ e.op.kind = .tldd) → ∀ i, i < nr → bad i → (∀ j, j < i → ¬bad j) →
          ∃ f, moveEffect e n s = .error f ∧ f.cause = 0x50 ∧ f.addr = BitVec.ofNat 64 (e.s1.at_ i))
      ∧ ((e.op.kind = .tld ∨ e.op.kind = .tldd) → e.op.d < 8 → (∀ i, i < nr → ¬bad i) →
          ∃ E, moveEffect e n s = .ok E ∧ E.lm = [] ∧ E.flags = 0 ∧ E.reg = none
            ∧ (∀ k, k ≠ e.op.d → vget E.wide.tiles k = vget w.tiles k)
            ∧ (vget E.wide.tiles e.op.d).cfg = (vget w.tiles e.op.d).cfg
            ∧ ∀ i j, i < tileRows (vget w.tiles e.op.d).cfg → j < tileCols (vget w.tiles e.op.d).cfg →
                let k := i * tileCols (vget w.tiles e.op.d).cfg + j
                (vget E.wide.tiles e.op.d).el.get k =
                  if r0 ≤ i ∧ i < r0 + nr ∧ c0 ≤ j ∧ j < c0 + nc then
                    BitVec.ofNat 48 (loadBits e.cfg (s.readNat (row (i - r0) + (j - c0) * wd) wd) % 2 ^ tileBits (vget w.tiles e.op.d).cfg)
                  else (vget w.tiles e.op.d).el.get k)
      ∧ ((e.op.kind = .tst ∨ e.op.kind = .tstd) →
          ∃ E, moveEffect e n s = .ok E ∧ E.wide = w ∧ E.flags = 0 ∧ E.reg = none
            ∧ E.lm = (List.range nr).map fun i => (e.sd.at_ i, (List.range nc).flatMap fun j =>
                natBytes wd (((vget w.tiles e.op.a).at_ (r0 + i) (c0 + j)).getD 0 % 2 ^ tileBits e.cfg))))
  ∧ (
    ∀ (e : WuEnt) (n : Nat) (s : State) (src : List (Nat × List Byte)), e.op.kind.isMma = true → e.op.d < 8 →
      s.readSources n e.uses = .ok src →
      let w := (s.cell n).wide
      let t := vget w.tiles e.op.d
      let pr := pairOf e.op.fn
      let K := e.op.depth
      let G := e.op.groups
      let N := sparseN e.xs
      let p := e.panel w
      let z : Val := .num {}
      let sv := elVals 0 (assocGet [] src 4)
      let under : Val → Nat → Op := fun v q => if mmaScl e.op.w2 then opMul v (sv.getD q z) else { v := v }
      let A : Nat → Nat → Op := fun i k =>
        under ((matVals pr.a (vget w.dtabs (mmaDta e.op.w2)) (assocGet [] src 1)).getD (i * K + k) z) (i * (K / 32) + k / 32)
      let B : Nat → Nat → Option Op := fun k j =>
        let packed := matVals pr.b (vget w.dtabs (mmaDtb e.op.w2)) (if e.op.kind.sparse then p.drop (64 * G) else p)
        let q := 16 * (K / 32) + j * (K / 32) + k / 32
        let mask := leNat ((p.drop (4 * (j * G + k / 24))).take 4)
        let rank := ((List.range (k % 24)).filter fun b => mask.testBit b).length
        if e.op.kind.sparse = false then some (under (packed.getD (j * K + k) z) q)
        else if mask.testBit (k % 24) = true ∧ rank < N then some (under (packed.getD ((j * G + k / 24) * N + rank) z) q)
        else none
      let prods : Nat → Nat → List Op := fun i j => (List.range K).map fun k => (B k j).elim { v := z } (prodOp (A i k))
      let dense : Nat → Nat → Nat := fun i j => (sumOrder (if mmaZero e.op.w2 then 0 else (t.el.get (16 * i + j)).toNat) (prods i j)).1
      let fix : List Nat → Nat × Val → List Nat := fun c x =>
        let i := x.1 / K
        let k := x.1 % K
        if 16 * K ≤ x.1 then c
        else c.mapIdx fun q v =>
          if q / 16 ≠ i then v
          else (B k (q % 16)).elim v fun b => (accStep (v, 0) (prodOp (opMul x.2 (scaleA e.op (assocGet [] src 4) i k)) b)).1
      (isAcc t.cfg = false → ∃ E, mmaEffect e n s = .ok E ∧ E.wide = w ∧ E.lm = [] ∧ E.flags = 0)
      ∧ (isAcc t.cfg = true →
          ∃ E, mmaEffect e n s = .ok E ∧ E.lm = [] ∧ E.reg = none ∧ (vget E.wide.tiles e.op.d).cfg = t.cfg
            ∧ (∀ k, k ≠ e.op.d → vget E.wide.tiles k = vget w.tiles k) ∧ E.wide.wb = w.wb ∧ E.wide.dtabs = w.dtabs
            ∧ ∀ q, q < 256 →
                let plain := (List.range 256).map fun q => dense (q / 16) (q % 16)
                let all := if e.op.kind.outlier then (listEntries (assocGet [] src 5)).foldl fix plain else plain
                (vget E.wide.tiles e.op.d).el.get q = BitVec.ofNat 48 (all.getD q 0)))
  ∧ (
    ∀ (e : WuEnt) (n : Nat) (s : State) (src : List (Nat × List Byte)), s.readSources n e.uses = .ok src →
      let w := (s.cell n).wide
      let w2 := e.op.w2
      let tab := vget w.dtabs (cvtTab w2)
      let vs := if cvtTile w2 then ((vget w.tiles e.op.a).captured e.cfg).map (tileVal (cvtS w2)) else srcVals (cvtS w2) tab (assocGet [] src 1)
      let out : List Byte → List (Nat × List Byte) := fun bs => (e.use 0).elim [] fun u => u.writes bs
      let k := listCount (assocGet [] src 5)
      let o := (e.xs.extractLsb' 0 22).toNat
      let olt := fcsrOlt (s.thread n e.thr).ctrl.fcsr
      (cvtD w2 < 3 →
          let r := roundAll (elFmt (cvtD w2)) e.rm e.seed (vs.map fun v => { v := v, flags := if v.sNan then 16 else 0 })
          ∃ E, cvtEffect e n s = .ok E ∧ E.wide = w ∧ E.lm = out (elBytes (cvtD w2) r.1) ∧ E.flags = r.2)
      ∧ (3 ≤ cvtD w2 → cvtD w2 < 6 →
          let r := toIntAll (elBits (cvtD w2)) e.rm e.seed vs
          ∃ E, cvtEffect e n s = .ok E ∧ E.wide = w ∧ E.lm = out (elBytes (cvtD w2) r.1) ∧ E.flags = r.2)
      ∧ (6 ≤ cvtD w2 → ∀ f, encodeAll tab (cvtD w2 == 7) olt e.rm e.seed 0 (64 - k) vs = .error f → cvtEffect e n s = .error f)
      ∧ (6 ≤ cvtD w2 → ∀ c, encodeAll tab (cvtD w2 == 7) olt e.rm e.seed 0 (64 - k) vs = .ok c →
          ∃ E, cvtEffect e n s = .ok E ∧ E.wide = w ∧ E.flags = c.flags ∧ E.olf = c.olf
            ∧ E.lm = out (elBytes (cvtD w2) c.codes)
                ++ (c.list.zipIdx.map fun p => (o + 8 + 8 * (k + p.2), natBytes 8 (p.1.1 * 2 ^ 32 + p.1.2))) ++ [(o, natBytes 8 (k + c.list.length))]))
  ∧ (
    ∀ (tab : DTab) (code4 olt : Bool) (mode : BitVec 3) (g : Word) (i room : Nat) (v : Val) (vs : List Val),
      let nv : BitVec 5 := if v.sNan then 16 else 0
      let go := encodeAll tab code4 olt mode
      let r := binary32.deliver true mode (srStep g).2 v
      let g' := if r.step = true ∧ mode = 6 then (srStep g).1 else g
      go g i room [] = .ok {}
      ∧ (∀ c fl t, tab.encode code4 v = .code c fl → go g (i + 1) room vs = .ok t →
          go g i room (v :: vs) = .ok { t with codes := c :: t.codes, flags := t.flags ||| fl ||| nv })
      ∧ (∀ z h t, tab.encode code4 v = .outlier z h → 0 < room → go g' (i + 1) (room - 1) vs = .ok t →
          go g i room (v :: vs) = .ok { t with codes := z :: t.codes, list := (i, r.bits) :: t.list, flags := t.flags ||| r.flags ||| nv })
      ∧ (∀ z h, tab.encode code4 v = .outlier z h → room = 0 → olt = true → go g i room (v :: vs) = .error { cause := 0x14 })
      ∧ (∀ z h t, tab.encode code4 v = .outlier z h → room = 0 → olt = false → go g (i + 1) 0 vs = .ok t →
          go g i room (v :: vs) = .ok { t with codes := h :: t.codes, flags := t.flags ||| 1 ||| nv, olf := true }))
  ∧ (
    ∀ (c : Ctl) (d a : BitVec 5),
      let mine : Args → State → List WuEnt := fun A s => (s.core A.n A.t).wuq.filter fun e => e.thr = A.t ∧ e.orphan = false
      let older : Args → State → List WuEnt := fun A s => (mine A s).take ((mine A s).length - min 16 ((A.ra s).toNat % 32))
      let done : Cond := fun A s => ∀ e ∈ older A s, (A.ra s).getLsbD 5 = false ∧ e.st = .started
      WritesVar (.twait c d a) done (fun A s v => v = BitVec.ofNat 64 (mine A s).length)
      ∧ Waits (.twait c d a) (fun A s => ¬done A s) (fun _ s => s))

/-- Recording (R178, R190): REC takes its policy and turns recording on, forgetting the producers where it was off, or stops it; a reserved policy
raises 0x01 and a granary out of order 0x13. GMAP replaces the whole gradient map by the table in memory, which must be granted and well
formed.

RVS (R193): while recording it raises 0x01, with a granary out of order 0x13, and it waits until the thread's wide-unit work is done. It ends, with the
number of sheaves it has passed, when the granary is empty or the limit of xs1 is reached; the granary's head then stands where it was. Before, each
turn of its walk looks at the sheaf below GRAN_HEAD: a malformed header raises 0x13 with code 2; a void sheaf and one whose adjoint is none
are passed; the adjoint of another one is checked and enters the core's queue, and the sheaf is passed; where the queue holds 16 RVS waits, and goes on
from GRAN_HEAD later (log 13's choice of turns). Passing a sheaf moves GRAN_HEAD down by its LEN and counts it.

Gradients (R192): a place that no entry of the map holds reads as +0 and discards what is put there; an entry with ACC holds A48 elements
of its staging tile, one without binary32 words of LM; adding reads, adds exactly and puts, which rounds to nearest even.

An element-wise adjoint (R177, R194) reads the gradients of its destination, sets them to +0, and adds the terms of its row of R177 element
by element (log 123's choice where places overlap), each term rounded to binary32 after each operation. A matrix adjoint adds to every element
of A, by sum_order, the products of dC with B, then to every element of B that the forward instruction read those of A with dC, and then sets dC to
+0 only under ZERO. -/
def Obligations.RecordingAndReverse : Prop :=
  (
    ∀ (c : Ctl) (a : BitVec 5),
      let pol : Args → State → BitVec 6 := fun A s => (A.ra s).extractLsb' 0 6
      let okp : Cond := fun A s => (A.ra s).toNat % 4 ≠ 3 ∧ (A.ra s).toNat / 4 % 4 < 2 ∧ (A.ra s).toNat / 16 % 4 < 2
      let gran : Cond := fun A s => let k := (A.th s).ctrl
        k.granBase.toNat ≤ k.granHead.toNat ∧ k.granHead.toNat ≤ k.granLimit.toNat ∧ 32 * k.granLimit.toNat ≤ 0x300000
      let chk : Args → State → Option Fail := fun A s => s.checkLM A.n (A.slot s) (A.ra s) 256 8 0
      let map : Nat → List GEnt := fun v => gmapOf (natBytes 256 v)
      let okm : Nat → Prop := fun v => ∀ g ∈ map v, g.v = true → g.ok = true
      Traps (.recStart c a) (fun A s => ¬okp A s) (fun _ _ => { cause := 0x01 })
      ∧ Traps (.recStart c a) (fun A s => okp A s ∧ ¬gran A s) (fun _ _ => { cause := 0x13, detail := 1 })
      ∧ Does (.recStart c a) (fun A s => okp A s ∧ gran A s) (fun A s => s.modThread A.n A.t fun th =>
          { th with ctrl := { th.ctrl with recPol := pol A s, recd := true }, prods := if th.ctrl.recd then th.prods else [] })
      ∧ Does (.recStop c) always (fun A s => s.modThread A.n A.t fun th => { th with ctrl := { th.ctrl with recd := false } })
      ∧ (∀ f, Traps (.gmap c a) (fun A s => chk A s = some f ∨ (chk A s = none ∧ s.loadUnits A (A.ra s).toNat 256 8 0 = .error f)) fun _ _ => f)
      ∧ (∀ v u, Traps (.gmap c a) (fun A s => chk A s = none ∧ s.loadUnits A (A.ra s).toNat 256 8 0 = .ok (v, u) ∧ ¬okm v) fun _ _ => { cause := 0x01 })
      ∧ (∀ v u, Does (.gmap c a) (fun A s => chk A s = none ∧ s.loadUnits A (A.ra s).toNat 256 8 0 = .ok (v, u) ∧ okm v)
          fun A _ => u.modThread A.n A.t fun th => { th with gmap := map v }))
  ∧ (
    ∀ (c : Ctl) (d a : BitVec 5),
      let gran : Cond := fun A s => let k := (A.th s).ctrl
        k.granBase.toNat ≤ k.granHead.toNat ∧ k.granHead.toNat ≤ k.granLimit.toNat ∧ 32 * k.granLimit.toNat ≤ 0x300000
      let lim : Args → State → Nat := fun A s => (A.ra s).toNat % 2 ^ 32
      let over_ : Cond := fun A s => (A.th s).ctrl.granHead.toNat ≤ (A.th s).ctrl.granBase.toNat ∨ (lim A s ≠ 0 ∧ lim A s ≤ (A.th s).run.rvsDone)
      Traps (.rvs c d a) (fun A s => (A.th s).ctrl.recd = true) (fun _ _ => { cause := 0x01 })
      ∧ Traps (.rvs c d a) (fun A s => (A.th s).ctrl.recd = false ∧ ¬gran A s) (fun _ _ => { cause := 0x13, detail := 1 })
      ∧ Waits (.rvs c d a) (fun A s => (A.th s).ctrl.recd = false ∧ gran A s ∧ (A.th s).run.rvsDone = 0 ∧ s.wuIdle A.n A.t = false) (fun _ s => s)
      ∧ Does (.rvs c d a) (fun A s => (A.th s).ctrl.recd = false ∧ gran A s ∧ ((A.th s).run.rvsDone ≠ 0 ∨ s.wuIdle A.n A.t = true) ∧ over_ A s)
          (fun A s => (s.writeVarD A (BitVec.ofNat 64 (A.th s).run.rvsDone)).modThread A.n A.t fun th => { th with run := { th.run with rvsDone := 0 } })
      ∧ (let goes : Cond := fun A s => (A.th s).ctrl.recd = false ∧ gran A s ∧ ((A.th s).run.rvsDone ≠ 0 ∨ s.wuIdle A.n A.t = true)
        (∀ u, Does (.rvs c d a) (fun A s => goes A s ∧ rvsLoop A 64 s = .done u) fun _ _ => u)
        ∧ (∀ u, Waits (.rvs c d a) (fun A s => goes A s ∧ rvsLoop A 64 s = .wait u) fun _ _ => u)
        ∧ (∀ u f g A s, Issues (.rvs c d a) g A s → goes A s.startIssue → rvsLoop A 64 s.startIssue = .trapIn u f →
            exec (.rvs c d a) s = .next (u.trapAt A f))))
  ∧ (
    ∀ (A : Args) (k : Nat) (s : State),
      let th := A.th s
      let lim := (A.ra s).toNat % 2 ^ 32
      let head := th.ctrl.granHead.toNat
      let base := th.ctrl.granBase.toNat
      let h := s.sheafAt A.n (head - 1)
      let pass : State → State := fun s => s.modThread A.n A.t fun th =>
        { th with ctrl := { th.ctrl with granHead := th.ctrl.granHead - BitVec.ofNat 17 h.len }, run := { th.run with rvsDone := th.run.rvsDone + 1 } }
      base < head → (lim = 0 ∨ th.run.rvsDone < lim) → s.poisonedIn (nodeBase A.n + (32 * head - 32)) 32 = false →
      ((h.len < 2 ∨ head < base + h.len ∨ (h.insn / 2 ^ 10) % 32 ≠ 0 ∨ 32 ≤ h.mode ∨ (h.void = true ∧ h.insn / 2 ^ 16 % 8 ≠ 0)
          ∨ (h.void = false ∧ (h.decode = none ∨ ∃ w ∈ h.words, w.getLsbD 22 = true))) ↔ h.malformed head base = true)
      ∧ (h.malformed head base = true → rvsLoop A (k + 1) s = .trapIn s { cause := 0x13, detail := 2 })
      ∧ (h.malformed head base = false → h.void = true → rvsLoop A (k + 1) s = rvsLoop A k (pass s))
      ∧ (h.malformed head base = false → h.void = false → ∃ e0, h.decode = some e0 ∧
          let e := e0.forRvs A s
          ((e.op.kind = .tcfg ∧ e.clr = false) → rvsLoop A (k + 1) s = rvsLoop A k (pass s))
          ∧ (¬(e.op.kind = .tcfg ∧ e.clr = false) →
              (16 ≤ ((s.core A.n A.t).wuq.filter fun e => e.st = .queued).length → rvsLoop A (k + 1) s = .wait s)
              ∧ (((s.core A.n A.t).wuq.filter fun e => e.st = .queued).length < 16 →
                  (∀ f, s.adjointFail A.n (A.slot s) h.start h.len e = some f → rvsLoop A (k + 1) s = .trapIn s f)
                  ∧ (s.adjointFail A.n (A.slot s) h.start h.len e = none →
                      rvsLoop A (k + 1) s = rvsLoop A k (pass (s.modCore A.n A.t fun c => { c with wuq := c.wuq ++ [e] })))))))
  ∧ (
    ∀ (v : GradEnv) (g : Grad) (l : GLoc) (e : GEnt) (i : Nat) (c : Val),
      let a := e.gstart + 4 * i
      let r := binary32.deliver true 0 0 c
      let q := a48.deliver true 0 0 c
      (gmapFind v.gm l = none → (v.read g l).1 = .num {} ∧ (v.read g l).2 = g ∧ v.put g l c = g)
      ∧ (gmapFind v.gm l = some (e, i) → e.acc = true →
          (v.read g l).1 = a48.value false true ((vget g.wide.tiles e.stile).el.get i).toNat ∧ (v.read g l).2 = g
          ∧ (v.put g l c).mem = g.mem ∧ (v.put g l c).flags = g.flags ||| q.flags
          ∧ (e.stile < 8 → i < tileCount (vget g.wide.tiles e.stile).cfg → (vget g.wide.tiles e.stile).el.wf = true → (vget (v.put g l c).wide.tiles e.stile).el.get i = BitVec.ofNat 48 q.bits)
          ∧ (∀ k, k ≠ e.stile → vget (v.put g l c).wide.tiles k = vget g.wide.tiles k))
      ∧ (gmapFind v.gm l = some (e, i) → e.acc = false →
          (v.read g l).1 = binary32.value true true (leNat (g.mem.slice (v.base + a) 4))
          ∧ (v.put g l c).wide = g.wide ∧ (v.put g l c).flags = g.flags ||| r.flags
          ∧ (v.put g l c).mem = g.mem.fill (v.base + a) (natBytes 4 r.bits) ∧ a ∈ (v.put g l c).wrote)
      ∧ v.add g l c = v.put { (v.read g l).2 with flags := (v.read g l).2.flags ||| (opAdd 0 (v.read g l).1 c).flags } l (opAdd 0 (v.read g l).1 c).v
      ∧ (∀ ls, v.readAll g (l :: ls) = ((v.read g l).1 :: (v.readAll (v.read g l).2 ls).1, (v.readAll (v.read g l).2 ls).2)))
  ∧ (
    ∀ (v : GradEnv) (e : WuEnt) (P : Nat → Array GLoc) (a b y : Array Val) (mask : Array Bool) (dys : Array Val) (g : Grad) (i : Nat),
      let z : Val := .num {}
      let dy := dys.getD i z
      let at_ : Nat → GLoc := fun r => (P r).getD i (.reg 32)
      let rnd : Op → Rounded := fun o => binary32.deliver true 0 0 o.v
      let val : Op → Val := fun o => binary32.value true true (rnd o).bits
      let note : Grad → Op → Grad := fun g o => { g with flags := g.flags ||| o.flags ||| (rnd o).flags }
      let out := addTerms v e P a b y mask dys g i
      (e.op.kind = .vadd → out = v.add (v.add g (at_ 1) dy) (at_ 2) dy)
      ∧ (e.op.kind = .vsub → out = v.add (v.add g (at_ 1) dy) (at_ 2) dy.negate)
      ∧ ((e.op.kind = .vmax ∨ e.op.kind = .vmin) → out = v.add g (at_ (if mask.getD i true then 1 else 2)) dy)
      ∧ ((e.op.kind = .vmul ∨ e.op.kind = .vfma) →
          let p := opMul dy (b.getD i z)
          let q := opMul dy (a.getD i z)
          let g2 := v.add (note (v.add (note g p) (at_ 1) (val p)) q) (at_ 2) (val q)
          out = if e.op.kind = .vfma then v.add g2 (at_ 3) dy else g2)
      ∧ (e.op.kind = .vscale → let p := opMul (binary32.value true true (e.xs.toNat % 2 ^ 32)) dy; out = v.add (note g p) (at_ 1) (val p))
      ∧ (e.op.kind = .vexp2 → let p := opMul dy (y.getD i z); let q := opMul (val p) (binary32.value true true 0x3F317218)
          out = v.add (note (note g p) q) (at_ 1) (val q))
      ∧ (e.op.kind = .vlog2 → let p := opMul (a.getD i z) (binary32.value true true 0x3F317218); let q := opDiv dy (val p)
          out = v.add (note (note g p) q) (at_ 1) (val q))
      ∧ (e.op.kind = .vrcp → let p := opMul dy (y.getD i z); let q := opMul (val p) (y.getD i z)
          out = v.add (note (note g p) q) (at_ 1) (val q).negate)
      ∧ (e.op.kind = .vrsq → let p := opMul (.num { m := 1, e := -1 }) dy; let q := opMul (val p) (y.getD i z)
          let r := opMul (val q) (y.getD i z); let t := opMul (val r) (y.getD i z)
          out = v.add (note (note (note (note g p) q) r) t) (at_ 1) (val t).negate)
      ∧ (e.op.kind = .vtanh → let p := opMul (y.getD i z) (y.getD i z); let q := opSub 0 (.num { m := 1 }) (val p); let r := opMul dy (val q)
          out = v.add (note (note (note g p) q) r) (at_ 1) (val r))
      ∧ ((e.op.kind = .vrsum ∨ e.op.kind = .vrmax) → out = v.add g (at_ 1) (dys.getD 0 z))
      ∧ (e.op.kind = .vxpose → out = v.add g (at_ 1) (dys.getD (i % (vecLen e.op.fn / 8) * 8 + i / (vecLen e.op.fn / 8)) z))
      ∧ ((e.op.kind = .tld ∨ e.op.kind = .tldd ∨ e.op.kind = .tst ∨ e.op.kind = .tstd ∨ e.op.kind = .wld) → out = v.add g (at_ 1) dy))
  ∧ (
    ∀ (v : GradEnv) (e : WuEnt) (vals : Nat → List Byte) (extra : List Byte) (g : Grad),
      let dst := (e.adjPlaces []).1
      let P : Nat → Array GLoc := fun r => (assocGet [] (e.adjPlaces []).2 r).toArray
      let dys := (v.readAll g dst).1
      let g0 := dst.foldl (fun g l => v.put g l (.num {})) (v.readAll g dst).2
      let arr : Nat → Array Val := fun r => (elVals e.op.fn (vals r)).toArray
      let mask := (extra.flatMap fun b => (List.range 8).map b.getLsbD).toArray
      let one : Grad → Nat → Grad := addTerms v e P (arr 1) (arr 2) (arr 0) mask dys.toArray
      (e.op.kind ≠ .vrmax → elementAdjoint v e vals extra g = (List.range (P 1).size).foldl one g0)
      ∧ (e.op.kind = .vrmax → elementAdjoint v e vals extra g = if leNat extra < (P 1).size then one g0 (leNat extra) else g0))
  ∧ (
    ∀ (v : GradEnv) (e : WuEnt) (vals : Nat → List Byte) (g : Grad),
      let m := matsOf e.op e.xs g.wide (vals 1) (vals 2) (vals 4)
      let ma := if e.op.kind.outlier then correctedA e.op (vals 4) m (listEntries (vals 5)) else m.a
      let cs := (List.range 256).map (GLoc.tile e.op.d)
      let dc : Nat → Nat → Op := fun i j => { v := (v.readAll g cs).1.getD (16 * i + j) (.num {}) }
      let z : Op := { v := .num {} }
      let into : GLoc → List Op → Grad → Grad := fun l ps g =>
        let r := sumOrder (a48.deliver true 0 0 (v.read g l).1).bits ps
        v.put { (v.read g l).2 with flags := (v.read g l).2.flags ||| r.2 ||| (if (v.read g l).1.sNan then 16 else 0) } l (a48.value false true r.1)
      let dA : Grad → Grad := fun g => (List.range (16 * m.k)).foldl (fun g q =>
        into (e.placeA (q / m.k) (q % m.k)) ((List.range 16).map fun j =>
          ((m.b.getD (q % m.k * 16 + j) none).elim z fun b => prodOp (dc (q / m.k) j) b)) g) g
      let dB : Grad → Grad := fun g => (List.range (16 * m.k)).foldl (fun g q =>
        (e.placeB (e.masks (vals 2)) (q / 16) (q % 16)).elim g fun l =>
          into l ((List.range 16).map fun i => prodOp (ma.getD (i * m.k + q / 16) z) (dc i (q % 16))) g) g
      matrixAdjoint v e vals g = (if mmaZero e.op.w2 = true then cs.foldl (fun g l => v.put g l (.num {})) (dB (dA (v.readAll g cs).2))
        else dB (dA (v.readAll g cs).2)))

/-- SEND, CPY, CPYM, COLL, ENGP and ENGQ (R240 to R242, R245, R246, R249): their checks in order, then a message in the outbox: SEND's with its payload
from the thread's memory, an engine command's with the register values and the two words. ENGP takes the oldest result of the slot's FIFO, or 0;
ENGQ gives the FIFO's length and the number of the context's commands under way. A command takes the GEN of the port that its destination
names along (R348); COLL wants every page of its two ranges homed in its own cell, and a port's window raises 0x26 (R246, R345). That SEND checks its
payload's range before its region is log 72's reading.

The relayout of ORD = 1 (R244): within each block of 1,024 bytes, with rows of 32 bytes, element (r, c) of the source goes to place 32 c + r of the
destination, byte by byte; the blocks keep their order; no source byte is taken twice. -/
def Obligations.MessagesAndEngineCommands : Prop :=
  (
    ∀ (c : Ctl) (d a b e : BitVec 5) (w2 : BitVec 32),
      let flits := w2.toNat % 128
      let reg : Cond := fun A s => s.inRegions (A.ctx s) (A.ra s).toNat = true
      let okS : Cond := fun A s => w2.extractLsb' 13 19 = 0 ∧ flits ≤ 64 ∧ (A.ra s).toNat < 2 ^ 11 ∧ (A.rb s).toNat < 2 ^ 22
      let chk : Args → State → Option Fail := fun A s => s.checkLM A.n (A.slot s) (A.rb s) (32 * flits) 8 0
      let room : Nat → Bool → Cond := fun k p A s => (A.th s).outboxRoom k = p
      let cmd : BitVec 8 → Nat → BitVec 8 → Args → State → State := fun k len gen A s => s.push A.n A.t (cmdMsg k w2 len gen A s)
      let src : Args → State → Except Fail Nat := fun A s => cpyRange A s .load (spaceCopySrc (isChan A.n)) (A.ra s) (A.rb s).toNat (cpyEsz w2)
      let dst : Bool → Args → State → Except Fail Nat := fun box A s =>
        cpyRange A s .store (if box then spaceCopySrc (isChan A.n) else spaceCopyDst (isChan A.n)) (A.rd s) (A.rb s).toNat (cpyEsz w2)
      let gen : State → Nat → BitVec 8 := fun s pa => match spaceOf pa with | .port p => (vget s.ports p).gen | _ => 0
      let C : Instr → Bool → BitVec 8 → Prop := fun i box k =>
        let ok : Cond := fun A s => cpyBad box w2 (A.ra s) (A.rb s) = false
        let order : Nat → Prop := fun pa => cpyOrd w2 = 1 → spaceOf pa = .bulk
        let last : Nat → Option (Nat × Nat) → Args → State → Option Fail := fun pa ctr A s => if box then boxFail2 A s w2 pa ctr else none
        Traps i (fun A s => ¬ok A s) (fun _ _ => { cause := 0x01 })
        ∧ (∀ f, Traps i (fun A s => ok A s ∧ src A s = .error f) fun _ _ => f)
        ∧ (∀ p f, Traps i (fun A s => ok A s ∧ src A s = .ok p ∧ dst box A s = .error f) fun _ _ => f)
        ∧ (∀ p q, Traps i (fun A s => ok A s ∧ src A s = .ok p ∧ dst box A s = .ok q ∧ ¬order p) fun _ _ => { cause := 0x01 })
        ∧ (∀ p q f, Traps i (fun A s => ok A s ∧ src A s = .ok p ∧ dst box A s = .ok q ∧ order p ∧ counterVa A s = .error f) fun _ _ => f)
        ∧ (∀ p q z f, Traps i (fun A s => ok A s ∧ src A s = .ok p ∧ dst box A s = .ok q ∧ order p ∧ counterVa A s = .ok z ∧ last q z A s = some f) fun _ _ => f)
        ∧ (∀ p q z, Traps i (fun A s => ok A s ∧ src A s = .ok p ∧ dst box A s = .ok q ∧ order p ∧ counterVa A s = .ok z ∧ last q z A s = none
              ∧ room 0 false A s) fun _ _ => { cause := 0x33 })
        ∧ (∀ p q z, Does i (fun A s => ok A s ∧ src A s = .ok p ∧ dst box A s = .ok q ∧ order p ∧ counterVa A s = .ok z ∧ last q z A s = none
              ∧ room 0 true A s) fun A s => cmd k (A.rb s).toNat (gen s q) A s)
      let sz := collSize (collType w2)
      let okL : Cond := fun A s => collBad w2 (A.rb s).toNat (s.regionOf (A.th s).launch) = false ∧ (A.ra s).toNat % sz = 0 ∧ (A.rd s).toNat % sz = 0
      let own : Word → Cond := fun va A s => ∀ p ∈ pageParts va ((A.rb s).toNat * sz), ∀ l e, s.leafFor (s.dieOf A.n) (A.ctx s) p.1 = .ok (l, e) →
        leafHashed e = false ∧ spaceOf (leafPa l e p.1) = .cell A.n
      let any : Space → Bool := fun p => match p with | .none | .port _ => false | _ => true
      let rl : Args → State → Except Fail Nat := fun A s => rangeVa A s .load any (A.ra s) ((A.rb s).toNat * sz)
      let rs : Args → State → Except Fail Nat := fun A s => rangeVa A s .store any (A.rd s) ((A.rb s).toNat * sz)
      let okq : Args → Prop := fun A => w2.toNat ≤ 1 ∧ (isChan A.n = true → w2 = 0)
      let fifo : Args → State → List Word := fun A s =>
        if w2 = 1 then vget (s.cell A.n).mem.fifoL (A.slot s).toNat else vget (s.cell A.n).mem.fifoC (A.slot s).toNat
      (Traps (.send c a b w2) (fun A s => ¬okS A s) (fun _ _ => { cause := 0x01 })
        ∧ (∀ f, Traps (.send c a b w2) (fun A s => okS A s ∧ chk A s = some f) fun _ _ => f)
        ∧ Traps (.send c a b w2) (fun A s => okS A s ∧ chk A s = none ∧ ¬reg A s) (fun _ _ => { cause := 0x40 })
        ∧ Traps (.send c a b w2) (fun A s => okS A s ∧ chk A s = none ∧ reg A s ∧ room (32 * flits) false A s) (fun _ _ => { cause := 0x33 })
        ∧ (∀ v u, Does (.send c a b w2) (fun A s => okS A s ∧ chk A s = none ∧ reg A s ∧ room (32 * flits) true A s
              ∧ s.loadUnits A (A.rb s).toNat (32 * flits) 8 0 = .ok (v, u)) fun A s =>
            u.push A.n A.t { kind := 0x05, dst := (A.ra s).toNat, aux := w2.extractLsb' 7 6, bytes := 32 * flits,
                             payload := (List.range (4 * flits)).map fun i => BitVec.ofNat 64 (v / 2 ^ (64 * i)) })
        ∧ (∀ f, Traps (.send c a b w2) (fun A s => okS A s ∧ chk A s = none ∧ reg A s ∧ room (32 * flits) true A s
              ∧ s.loadUnits A (A.rb s).toNat (32 * flits) 8 0 = .error f) fun _ _ => f))
      ∧ (C (.cpy c d a b e w2) false 0x06 ∧ C (.cpym c d a b e w2) true 0x07)
      ∧ (Traps (.coll c d a b e w2) (fun A s => ¬okL A s) (fun _ _ => { cause := 0x01 })
        ∧ (∀ f, Traps (.coll c d a b e w2) (fun A s => okL A s ∧ (rl A s = .error f ∨ (∃ p, rl A s = .ok p) ∧ rs A s = .error f)) fun _ _ => f)
        ∧ (∀ p q, Traps (.coll c d a b e w2) (fun A s => okL A s ∧ rl A s = .ok p ∧ rs A s = .ok q ∧ ¬(own (A.ra s) A s ∧ own (A.rd s) A s)) fun _ _ => { cause := 0x01 })
        ∧ (∀ p q f, Traps (.coll c d a b e w2) (fun A s => okL A s ∧ rl A s = .ok p ∧ rs A s = .ok q ∧ own (A.ra s) A s ∧ own (A.rd s) A s
              ∧ counterVa A s = .error f) fun _ _ => f)
        ∧ (∀ p q z, Traps (.coll c d a b e w2) (fun A s => okL A s ∧ rl A s = .ok p ∧ rs A s = .ok q ∧ own (A.ra s) A s ∧ own (A.rd s) A s
              ∧ counterVa A s = .ok z ∧ room 0 false A s) fun _ _ => { cause := 0x33 })
        ∧ (∀ p q z, Does (.coll c d a b e w2) (fun A s => okL A s ∧ rl A s = .ok p ∧ rs A s = .ok q ∧ own (A.ra s) A s ∧ own (A.rd s) A s
              ∧ counterVa A s = .ok z ∧ room 0 true A s) fun A s => cmd 0x08 (A.rb s).toNat 0 A s))
      ∧ (Traps (.engp c d w2) (fun A _ => ¬okq A) (fun _ _ => { cause := 0x01 }) ∧ Traps (.engq c d w2) (fun A _ => ¬okq A) (fun _ _ => { cause := 0x01 })
        ∧ Does (.engp c d w2) (fun A _ => okq A) (fun A s =>
            (s.modMem A.n fun m => m.setFifo (decide (w2 = 1)) (A.slot s).toNat (fifo A s).tail).writeVarD A ((fifo A s).headD 0))
        ∧ WritesVar (.engq c d w2) (fun A _ => okq A) (fun A s v => v.extractLsb' 16 48 = 0 ∧ (v.extractLsb' 0 8).toNat = (fifo A s).length % 256
            ∧ (v.extractLsb' 8 8).toNat = ((s.cell A.n).mem.engines.filter fun x => x.ctx = A.ctx s ∧ (x.kind = 0x08 ↔ w2 = 1)).length % 256)))
  ∧ (
    ∀ (esz r c j blk i k : Nat), esz ≤ 2 → r < 32 → c < 32 / 2 ^ esz → j < 2 ^ esz →
      srcOffset 1 esz (1024 * blk + 2 ^ esz * (32 * c + r) + j) = 1024 * blk + 32 * r + 2 ^ esz * c + j
      ∧ (srcOffset 1 esz i = srcOffset 1 esz k → i = k) ∧ srcOffset 0 esz i = i)

/-- Taking a trap (R373, R374): the thread freezes with the cause; results of fixed latency that are on their way are written; the budget stops at the
cycle; the PC, the other threads and memory outside the fault rings stand; the packet that is kept holds cause, flags, repeat index, thread and slot, cell,
context and stage, then PC, ADDR, DETAIL with the packet number, and the task's entry, argument and x11.

An END or HALT under way is executed again after a RESUME, and no repeat is under way any more.

Faults of a thread's turn (R51, R269, R382): a decode fault, a fetch fault and an expired budget freeze the thread at its PC and change no register; the budget
does so in step 1 of END too, but not from step 3 on, nor while the cell moves (R321). REP tells whether the instruction at the PC is a repeated one, as
far as its words can be fetched (log 31's reading).

Where a fault packet goes (R376, R377): as a MNT message of KIND 0x20 to the supervisor of the task's launch; to the cox cores where the launch has none, where
the run is a supervisor's, or where the supervisor's cell is fenced. They write it to the host fault ring and signal vector 1, or count it
as lost while the ring is full, with vector 1, or no ring is set up. The sender keeps a packet until it is answered. At the supervisor's cell a packet enters the ring behind its tail and takes one from the ring's counter; a full ring
refuses it, and without a ring it goes to the cox cores. -/
def Obligations.TrapsFreezeTheThread : Prop :=
  (
    ∀ (s : State) (n t : Nat) (cause : BitVec 8) (imprecise rep : Bool) (pc addr : Word) (detail : BitVec 32),
      let u := s.takeTrap n t cause imprecise rep pc addr detail
      let old := s.thread n t
      let new := u.thread n t
      new.run.st = .frozen ∧ new.run.cause = cause ∧ new.run.stepping = false ∧ new.pc = old.pc ∧ new.pend = []
      ∧ new.run.outbox = old.run.outbox ∧ new.run.pendErr = old.run.pendErr ∧ new.run.desc = old.run.desc
      ∧ new.run.ending = false ∧ new.run.halting = false ∧ new.run.chain = none ∧ new.run.fence = none
      ∧ new.ctrl = { old.ctrl with remain := old.remainAt (s.now n t), chargedAt := s.now n t }
      ∧ (old.pend = [] → ∀ fl r, new.reg fl r = old.reg fl r)
      ∧ (∀ k j, (k, j) ≠ (n, t) → u.thread k j = s.thread k j)
      ∧ (u.cell n).err.seq = (s.cell n).err.seq + 1
      ∧ (∃ w0, new.run.packet[0]? = some w0 ∧ w0.extractLsb' 0 8 = cause ∧ w0.getLsbD 8 = true ∧ w0.getLsbD 9 = imprecise
          ∧ w0.getLsbD 10 = old.run.restart ∧ w0.getLsbD 11 = rep
          ∧ w0.extractLsb' 16 8 = old.ctrl.repIdx ∧ (t < 16 → (w0.extractLsb' 24 8).toNat = t + 16 * old.slot.toNat)
          ∧ (t < 16 → n < 2048 → (w0.extractLsb' 32 16).toNat = n))
      ∧ new.run.packet[1]? = some pc ∧ new.run.packet[2]? = some addr ∧ new.run.packet[3]? = some ((s.cell n).err.seq ++ detail)
      ∧ new.run.packet.length = 8)
  ∧ (
    ∀ (s : State) (cause : BitVec 8) (va : Word) (detail : BitVec 32) (n t : Nat),
      let th := s.thread s.cur.1 s.cur.2
      let u : State := { s with blocked := false }
      (th.run.st = .running → exec (.decodeFault cause) s = .next (u.takeTrap s.cur.1 s.cur.2 cause false false (vaOf th.pc) 0 0))
      ∧ (th.run.st = .running → exec (.instructionFetchFault cause va detail) s =
          .next (u.takeTrap s.cur.1 s.cur.2 cause false (s.repAt s.cur.1 s.cur.2) (vaOf th.pc) va detail))
      ∧ (let r := (s.thread n t).run
        let due := r.st = .running ∧ (s.thread n t).remainAt (s.now n t) = 0 ∧ r.leaving = false ∧ r.rolling = false ∧ (s.cell n).paused = false
        (due → exec (.budgetExpiry n t) s = .next (u.takeTrap n t 0x30 false (s.repAt n t) (vaOf (s.thread n t).pc) 0 0))
        ∧ (¬due → exec (.budgetExpiry n t) s = .next s))
      ∧ ((s.thread n t).run.chain ≠ none → s.repAt n t = true))
  ∧ (
    ∀ (s : State) (n ctx l : Nat) (super : Bool) (p : List Word) (d : Nat),
      let lost := { s with cox := { s.cox with hfqLost := if s.cox.hfqLost = BitVec.allOnes 32 then s.cox.hfqLost else s.cox.hfqLost + 1 } }
      let size := 2 ^ (s.cox.hfqBase.toNat % 32)
      let room := ringOk s.cox.hfqBase 64 = true ∧ (s.cox.hfqTail - s.cox.hfqHead).toNat < size
      ((s.launchOf l).bind Launch.sup = none → s.report n ctx (some l) super p = s.toHost p)
      ∧ ((s.launchOf l).bind Launch.sup = some d → (super = true ∨ lptState (s.lptEntry 0 d) = 2) → s.report n ctx (some l) super p = s.toHost p)
      ∧ ((s.launchOf l).bind Launch.sup = some d → super = false → lptState (s.lptEntry 0 d) ≠ 2 →
          ∃ m : Msg, (s.report n ctx (some l) super p).net = s.net ++ [m] ∧ m.cls = 5 ∧ m.kind = 0x20 ∧ m.src = n ∧ m.dst = d ∧ m.payload = p
            ∧ (∃ e ∈ ((s.report n ctx (some l) super p).cell n).mem.fwd, e.msg.id = m.id ∧ e.st = .sent)
            ∧ (s.report n ctx (some l) super p).mem = s.mem ∧ (s.report n ctx (some l) super p).cox = s.cox)
      ∧ (ringOk s.cox.hfqBase 64 = false → s.toHost p = lost)
      ∧ (ringOk s.cox.hfqBase 64 = true → size ≤ (s.cox.hfqTail - s.cox.hfqHead).toNat →
          s.toHost p = { lost with cox := { lost.cox with msix := s.cox.msix ++ [1] } })
      ∧ (room → (s.toHost p).cox.hfqTail = s.cox.hfqTail + 1 ∧ (s.toHost p).cox.msix = s.cox.msix ++ [1]
          ∧ (s.toHost p).mem = s.mem.fill (s.cox.hfqBase.toNat / 64 * 64 + 64 * (s.cox.hfqTail.toNat % size)) (wordBytes p))
      ∧ (∀ (k : Nat) (m : Msg) (u : State), s.arrived k 5 0x20 = some (m, u) →
          let w := s.faultRing m
          let n := m.dst
          let size := 2 ^ fqLog w
          let base := nodeBase n + fqBase w
          let used := (s.fqTail n w + 2 ^ 32 - s.fqHead n w) % 2 ^ 32
          u.turnedAway m = none →
          (fqLog w = 0 → Gives (.msgFault k) s fun t => t.cox = (u.toHost m.payload).cox ∧ t.mem = (u.toHost m.payload).mem)
          ∧ (fqLog w ≠ 0 → size ≤ used → Gives (.msgFault k) s fun t => t.mem = s.mem ∧ t.cox = s.cox)
          ∧ (fqLog w ≠ 0 → used < size → n < 2048 → s.mem.wf = true → s.quietBanks n → s.poisoned (nodeBase n + fqCtr w) = false → m.payload.length = 8 →
              fqBase w + 64 + 64 * size ≤ 0x300000 → (fqCtr w + 4 ≤ fqBase w ∨ fqBase w + 64 + 64 * size ≤ fqCtr w) → fqCtr w + 4 ≤ 0x300000 →
              Gives (.msgFault k) s fun t => (∀ j, j < 8 → t.readWord (base + 64 + 64 * (s.fqTail n w % size) + 8 * j) = m.payload.getD j 0)
                ∧ t.readNat base 4 = (s.fqTail n w + 1) % 2 ^ 32 ∧ t.readNat (nodeBase n + fqCtr w) 4 = s.readNat (nodeBase n + fqCtr w) 4 - 1
                ∧ t.cox = s.cox)))

/-- The debug commands (R147, R380): RESUME, RETRY, SKIP and STEP return a frozen thread to its PC, RESUME and STEP with its pending error
cleared, RETRY and SKIP so only where no instruction is held; STEP freezes it again after one instruction; a held wide-unit instruction is
queued again, but under SKIP discarded, its destinations as they stood. ABANDON ends the task: the outbox, the reservations in it, the
landing slot and the held instructions go. REDELIVER rolls back a run that may restart (R369): the outbox is dropped, the undo restores
memory, and the descriptor waits in the thread as fired with one rollback more; it waits for invalidations as every write does. FREEZE stops a running thread
with cause 0x62, whose packet's PC is the thread's (log 30's reading). A command in any other state, and one with reserved bits, is
ignored and sets IGN; a fenced cell ignores all.

A debug window's writes (R378): of a frozen and settled thread a register takes the value under its own write rule, the PC without its low bits and with REP_IDX 0; of
another thread the write is ignored and sets IGN; before the thread has settled it is held; DBG_STAT clears IGN; a fenced cell ignores all. -/
def Obligations.DebugCommands : Prop :=
  (
    ∀ (s : State) (n t : Nat), threadOk n t = true → s.fencedNode n = false → (s.thread n t).run.rolling = false →
      let r := (s.thread n t).run
      let ign := s.modThread n t fun th => { th with run := { th.run with ign := true } }
      let held := ∃ e ∈ (s.core n t).wuq, e.thr = t ∧ e.orphan = false ∧ e.st = .held
      let on : Bool → Bool → State → State := fun clear step u => u.modThread n t fun th =>
        { th with ctrl := { th.ctrl with chargedAt := u.now n t }
                  run := { th.run with st := .running, cause := 0, pendErr := if clear then none else th.run.pendErr, stepping := step } }
      let go : Bool → State → State := on true
      let roll := s.modThread n t fun th => { th with run := { th.run with rolling := true } }
      (r.st = .frozen →
        exec (.dbgResume n t) s = .next (go false (s.retryHeld n t)) ∧ exec (.dbgStep n t) s = .next (go true (s.retryHeld n t))
        ∧ (¬held → exec (.dbgRetry n t) s = .next (go false (s.retryHeld n t)) ∧ exec (.dbgSkip n t) s = .next (go false (s.skipHeld n t)))
        ∧ (held → exec (.dbgRetry n t) s = .next (on false false (s.retryHeld n t)) ∧ exec (.dbgSkip n t) s = .next (on false false (s.skipHeld n t)))
        ∧ exec (.dbgAbandon n t) s = .next (s.abandon n t)
        ∧ (r.restart = true → roll.mayWrite n t (roll.thread n t).undoLines → exec (.dbgRedeliver n t) s = .next ((roll.unclaim n t).rollback n t))
        ∧ (r.restart = true → ¬roll.mayWrite n t (roll.thread n t).undoLines → Gives (.dbgRedeliver n t) s fun u =>
            (u.thread n t).run.rolling = true ∧ u.mem = s.mem)
        ∧ (r.restart = false → exec (.dbgRedeliver n t) s = .next ign) ∧ exec (.dbgFreeze n t) s = .next ign)
      ∧ (r.st ≠ .frozen → ∀ i ∈ [Instr.dbgResume n t, .dbgRetry n t, .dbgSkip n t, .dbgStep n t, .dbgAbandon n t, .dbgRedeliver n t], exec i s = .next ign)
      ∧ (r.st = .running → r.leaving = false → ∃ u, exec (.dbgFreeze n t) s = .next u ∧ (u.thread n t).run.st = .frozen ∧ (u.thread n t).run.cause = 0x62
          ∧ (u.thread n t).pc = (s.thread n t).pc ∧ (u.thread n t).run.packet[1]? = some (vaOf (s.thread n t).pc))
      ∧ (r.st ≠ .running ∨ r.leaving = true → exec (.dbgFreeze n t) s = .next ign)
      ∧ (∀ v : Word, v &&& ~~~15 ≠ 0 → s.dbgCommand n t v = ign))
  ∧ (
    ∀ (s : State) (n t : Nat), threadOk n t = true →
      let cmds : List Instr := [.dbgResume n t, .dbgRetry n t, .dbgSkip n t, .dbgStep n t, .dbgAbandon n t, .dbgRedeliver n t, .dbgFreeze n t]
      (s.fencedNode n = true → (∀ i ∈ cmds, exec i s = .next s) ∧ ∀ off v, s.windowWrite n t off v = .done s)
      ∧ (s.fencedNode n = false → (s.thread n t).run.rolling = true → ∀ i ∈ cmds,
          exec i s = .next (s.modThread n t fun th => { th with run := { th.run with ign := true } })))
  ∧ (
    ∀ (s : State) (n t : Nat), threadOk n t = true →
      let q := (s.core n t).wuq
      let mine : WuEnt → Prop := fun e => e.thr = t ∧ e.orphan = false
      let box := (s.thread n t).run.outbox.map Msg.id
      let freed : State → Prop := fun u => ∀ a ∈ (u.cell n).sched.arms, ¬(a.st = .reserved ∧ a.msg ∈ box)
      (((s.retryHeld n t).core n t).wuq = q.map fun e => if e.thr = t ∧ e.orphan = false ∧ e.st = .held then { e with st := .queued } else e)
      ∧ (s.retryHeld n t).mem = s.mem
      ∧ ((∀ e ∈ q, ¬(mine e ∧ e.st = .held)) → s.skipHeld n t = s)
      ∧ (∀ pre e post, q = pre ++ e :: post → (∀ x ∈ pre, ¬(mine x ∧ x.st = .held) ∧ x ≠ e) → mine e → e.st = .held →
          let u := s.skipHeld n t
          (u.core n t).wuq = pre ++ post
            ∧ ((e.op.kind = .vrsum ∨ e.op.kind = .vrmax) → e.op.d < 32 → (u.thread n t).full e.op.file e.op.d = true)
            ∧ (e.sheaf = none → u.mem = s.mem) ∧ ∀ fl r, (u.thread n t).reg fl r = (s.thread n t).reg fl r)
      ∧ (let u := s.abandon n t
        ((u.thread n t).run.st = if (s.cell n).sched.park.getLsbD t then .parked else .free)
          ∧ (u.thread n t).run.outbox = [] ∧ (u.thread n t).run.desc = none ∧ freed u
          ∧ (∀ d k, (s.thread n t).run.desc = some d → d.landing = some k → k ∉ (u.cell n).sched.landing)
          ∧ (∀ e ∈ (u.core n t).wuq, ¬mine e) ∧ (∀ e ∈ q, ¬mine e → e ∈ (u.core n t).wuq)
          ∧ ((∀ e ∈ q, mine e → e.stuck = false) → u.mem = s.mem))
      ∧ (let u := s.rollback n t
        let th := s.thread n t
        (u.thread n t).run.st = .free ∧ (u.thread n t).run.outbox = [] ∧ (u.thread n t).run.pendErr = none ∧ (u.thread n t).run.undo = [] ∧ freed u
          ∧ (u.cell n).err.rollback = sat16 (s.cell n).err.rollback 1
          ∧ (∀ d, th.run.desc = some d → (u.cell n).sched.fired = (s.cell n).sched.fired ++ [{ desc := { d with rollbacks := d.rollbacks + 1 }, place := .thread t }])
          ∧ (s.mem.wf = true → (s.cell n).mem.dir = [] → (th.run.undo.map Undo.line).Nodup →
              (∀ x ∈ th.run.undo, x.line % 64 = 0 ∧ x.bytes.length = 64 ∧ ∃ o, homeOf x.line = some (n, o)) →
              ∀ x ∈ th.run.undo, ∀ k, k < 64 →
                u.mem.get (x.line + k) = if x.mask.getLsbD k then x.bytes.getD k 0 else s.mem.get (x.line + k))))
  ∧ (
    ∀ (s : State) (n t off : Nat) (v : Word), threadOk n t = true → s.fencedNode n = false →
      let th := s.thread n t
      let reg := windowWritable (isChan n) off = true
      let set : Thread → State := fun x => s.modThread n t fun _ => x
      (off = 0x408 → s.windowWrite n t off v = .done (s.dbgCommand n t v))
      ∧ (off = 0x400 → v.getLsbD 19 = true → s.windowWrite n t off v = .done (s.modThread n t fun th => { th with run := { th.run with ign := false } }))
      ∧ (off ≠ 0x408 → off ≠ 0x400 → reg → th.run.st ≠ .frozen → s.windowWrite n t off v = .done (s.modThread n t fun th => { th with run := { th.run with ign := true } }))
      ∧ (off ≠ 0x408 → off ≠ 0x400 → reg → th.run.st = .frozen → s.settled n t = false → s.windowWrite n t off v = .held)
      ∧ (∀ k, k < 32 → off = 8 * k → th.run.st = .frozen → s.settled n t = true →
          ∃ x, s.windowWrite n t off v = .done (set x) ∧ x.reg .x k = (if k = 0 then 0 else v) ∧ ∀ j, j ≠ k → x.reg .x j = th.reg .x j)
      ∧ (off = 0x3A0 → th.run.st = .frozen → s.settled n t = true →
          ∃ x, s.windowWrite n t off v = .done (set x) ∧ x.pc = v.extractLsb' 0 58 &&& ~~~3#58 ∧ x.ctrl.repIdx = 0 ∧ ∀ fl j, x.reg fl j = th.reg fl j)
      ∧ (∀ pa : BitVec 48, pa.toNat % 8 = 0 → windowOf pa.toNat = some (n, t) → s.misc.dbgHeld = [] →
          (∀ u, s.windowWrite n t (pa.toNat % 0x1000) v = .done u → exec (.debugWindowWrite pa v) s = .next u)
          ∧ (s.windowWrite n t (pa.toNat % 0x1000) v = .held →
              exec (.debugWindowWrite pa v) s = .next { s with misc := { s.misc with dbgHeld := [(pa, v)] } })))

/-- The wide unit's events (R144, R145, R147 to R149): an instruction that wins the issue cycle starts on memory as it stands, and its entry holds its
effects, or its fault (WU_INSTRUCTION_START); a core that does not win starts nothing. WU_INSTRUCTION_COMPLETE writes the effects and takes the entry
out, once no cell shares a line that it writes (R213; until then it waits, and nothing else has changed). WU_FAULT freezes the thread that enqueued the
instruction, with the instruction's address, and the entry is held. At WU_SLOT_BOUNDARY the rotation moves on by 256 cycles and the slot table last
written comes into force; in retention, and in the pause of a migration, the rotation holds. (Log 14 is the model's choice of the order of one queue;
log 10 of the invalidations.)

BALLAST_WINDOW and BALLAST_START (R322, R323; where and when a ballast start goes is log 91's choice): a window that closes keeps its count of starts; a rise above twice the last window's starts and 16 limits the next window to that
window's starts and a twentieth of the full rate more, and the limit stands until a window stays below it; a fall below half sets the target to the last window's
starts, from which twenty windows fade it out; with ballast switched off the target is 0. An issue cycle with nothing ready and starts missing to the
target takes one ballast start. -/
def Obligations.WideUnitEvents : Prop :=
  (
    ∀ (s : State) (n core : Nat) (e : WuEnt),
      let c := s.cell n
      let q : State → List WuEnt := fun t => (vget (t.cell n).cores core).wuq
      (∀ ctx rr, c.winner = some (core, ctx, rr) → c.readyHead core = some e → isChan n = false → c.net.frozen = false → c.paused = false →
        e.unitError c.wide = false → c.wide.mismatch = 0 →
        ∃ u : State, u.mem = s.mem ∧ (∀ j k, u.thread j k = s.thread j k) ∧ (u.cell n).wide.tiles = c.wide.tiles ∧ (u.cell n).wide.wb = c.wide.wb
          ∧ (u.cell n).wide.dtabs = c.wide.dtabs ∧ (u.cell n).wide.starts = c.wide.starts + (if e.matrix then 1 else 0)
          ∧ (∀ f, e.effect n u = .ok f → Gives (.wuInstructionStart n core) s fun t =>
              q t = modFirst (fun x => x == e) (fun x => x.begun f) (q s) ∧ t.mem = s.mem
                ∧ ∀ j k fl r, (t.thread j k).reg fl r = (s.thread j k).reg fl r)
          ∧ (e.op.rvs = none → e.op.kind = .tzero ∨ e.op.kind = .tcfg → e.effect n u = .ok (tileEffect e n u))
          ∧ (∀ f, e.orphan = false → e.effect n u = .error f → Gives (.wuInstructionStart n core) s fun t =>
              q t = modFirst (fun x => x == e) (fun x => { x with st := .faulted f.cause f.addr f.detail }) (q s) ∧ t.mem = s.mem
                ∧ ∀ j k, t.thread j k = s.thread j k))
      ∧ ((∀ ctx rr, c.winner ≠ some (core, ctx, rr)) → exec (.wuInstructionStart n core) s = .next s)
      ∧ ((q s).find? (fun x => x.st = .started) = some e → ¬s.mayWrite n (16 + core) (e.writeLines n) → Gives (.wuInstructionComplete n core) s fun t =>
          q t = q s ∧ t.mem = s.mem ∧ ∀ j k, t.thread j k = s.thread j k)
      ∧ ((q s).find? (fun x => x.st = .started) = none → exec (.wuInstructionComplete n core) s = .next s)
      ∧ ((q s).find? (fun x => x.st = .started) = some e → s.mayWrite n (16 + core) (e.writeLines n) → e.orphan = false → Gives (.wuInstructionComplete n core) s fun t =>
          q t = dropFirst (fun x => x == e) (q s)
          ∧ (t.thread n e.thr).ctrl.fcsr = (s.thread n e.thr).ctrl.fcsr ||| (e.eff.flags.setWidth 64 <<< 11) ||| (if e.eff.olf then 0x10000 else 0)
          ∧ (∀ fl r v, e.eff.reg = some (fl, r, v) → (fl = .x ∧ r ≠ 0 ∨ fl = .f) → r < 32 →
              (t.thread n e.thr).reg fl r = v ∧ (t.thread n e.thr).full fl r = true)
          ∧ (∀ o bs, e.eff.lm ++ e.eff.sheaf = [(o, bs)] → s.mem.wf = true → n < 2048 → o + bs.length ≤ 0x300000 → (∀ x ∈ c.mem.dir, x.ovf = false) →
              (∀ k, k < bs.length → t.mem.get (nodeBase n + o + k) = bs.getD k 0)
                ∧ ∀ a, (a < nodeBase n + o ∨ nodeBase n + o + bs.length ≤ a) → t.mem.get a = s.mem.get a))
      ∧ (∀ l r cause addr detail, q s = l ++ e :: r → (∀ x ∈ l, ∀ a b d, x.st ≠ .faulted a b d) → e.st = .faulted cause addr detail →
          (s.thread n e.thr).run.st = .running → Gives (.wuFault n core) s fun t =>
            q t = l ++ { e with st := .held } :: r ∧ (t.thread n e.thr).run.st = .frozen ∧ (t.thread n e.thr).run.cause = cause
              ∧ (t.thread n e.thr).run.packet[1]? = some e.pc ∧ (t.thread n e.thr).run.packet[2]? = some addr ∧ (t.thread n e.thr).pc = (s.thread n e.thr).pc)
      ∧ (c.power.ret = true ∨ c.paused = true → exec (.wuSlotBoundary n) s = .next s)
      ∧ (c.power.ret = false → c.paused = false → Gives (.wuSlotBoundary n) s fun t =>
          (t.cell n).wide = { c.wide with rotation := (c.wide.rotation + 256) % 4096, inForce := c.wide.slots } ∧ t.mem = s.mem
            ∧ (∀ j, j ≠ n → t.cell j = s.cell j) ∧ ∀ j k, t.thread j k = s.thread j k))
  ∧ (
    ∀ (s : State) (n : Nat), n < 2048 →
      let w := (s.cell n).wide
      let on := s.power.pmCtl.getLsbD 2
      let more := ([40, 50, 60, 70, 80, 85, 92, 100].getD (s.cell n).power.op.toNat 80 + 19) / 20
      let fell := 16 ≤ w.lastWin ∧ 2 * w.starts < w.lastWin
      (Gives (.ballastWindow n) s fun t =>
        let v := (t.cell n).wide
        v.lastWin = w.starts ∧ v.starts = 0 ∧ v.ballasts = 0
        ∧ (w.limit = none → 2 * w.lastWin + 16 < w.starts → v.limit = some (w.lastWin + more))
        ∧ (w.limit = none → w.starts ≤ 2 * w.lastWin + 16 → v.limit = none)
        ∧ (∀ l, w.limit = some l → w.starts < l → v.limit = none) ∧ (∀ l, w.limit = some l → l ≤ w.starts → v.limit = some (w.starts + more))
        ∧ (on = false → v.target = 0) ∧ (on = true → fell → w.fade = 0 → v.target = w.lastWin)
        ∧ (on = true → ¬fell → v.target = w.peak * (w.fade - 1) / 20))
      ∧ (on = true → (s.cell n).winner = none → w.starts + w.ballasts < w.target → Gives (.ballastStart n) s fun t =>
          (t.cell n).wide = { w with ballasts := w.ballasts + 1 } ∧ t.mem = s.mem ∧ ∀ j k, t.thread j k = s.thread j k)
      ∧ (on = false ∨ (s.cell n).winner ≠ none ∨ w.target ≤ w.starts + w.ballasts → exec (.ballastStart n) s = .next s))

/-- Insertion, pop and context slots (R261 to R264, R270, R271): at DESCRIPTOR_INSERT the descriptor that fired first enters a ready bank that has a place, as
its newest entry, and its arm entry is free again; one that a supervisor's counter started is a supervisor run (R375). POP gives the entry that the
generator chooses to the thread that has been free longest, which starts at ENTRY with its argument, HOME, CTR and STAGE in x10 to x12, a full budget
and RESTART, and the entry leaves its bank; one that balance has sent to a neighbour waits for the answer (log 115). CTX_SLOT_DRAIN, CTX_SLOT_IN and
CTX_SLOT_OUT put a slot in DRAIN, in IN, and from DRAIN with no thread running in OUT, the other slots standing as they were and the banks too, but for
the PASS of heads that the change displaces.

RUN_END (R267, R343, R366): a thread that has issued END or HALT keeps waiting until every register is full and its wide-unit work is done; a pending error then rolls the
run back, once its undo may be written (R213), or drops the outbox and freezes the thread; otherwise the undo entries go, the outbox is released,
which is not undone by a later error, and when all of it has gone the thread is free, or parked after HALT, and its landing slot returns; a slot that no
longer translates traps.

Balance and barrier timeouts (R277, R278, R280, R321): BALANCE_EXCHANGE only marks entries for neighbours; it moves none where BAL_CTL has balance off. At
BALANCE_MOVE_SEND a marked move whose writes are performed goes to its neighbour as a TASKMOVE with RADIUS reduced by 1; at MSG_TASKMOVE it is a fired
descriptor there, unless the fired places are full, which is answered with NACK BUSY, or the cell turns it away. At BARRIER_TIMEOUT a timer that has run
for its ticks stops and is reported; one that has not, or that stands still, stays. (Where a TASKMOVE's sender keeps it until it is answered is log 100's choice.) -/
def Obligations.TasksRun : Prop :=
  (
    ∀ (s : State) (n : Nat),
      let c := s.cell n
      (∀ f fs b, c.sched.fired = f :: fs → b < readyBanks n → (vget c.sched.ready b).length < 32 → Gives (.descriptorInsert n) s fun t =>
        (t.cell n).sched.fired = fs ∧ (t.cell n).sched.ages = c.sched.ages + 1
          ∧ (∃ k e, k < readyBanks n ∧ e ∈ vget (t.cell n).sched.ready k ∧ e.age = c.sched.ages ∧ e.desc = { f.desc with super := e.desc.super }
              ∧ (f.place ≠ .arm → e.desc.super = f.desc.super)
              ∧ (f.place = .arm → (e.desc.super = true ↔ f.desc.ctr.toNat = fqCtr (vget c.err.faultQ f.desc.slot.toNat)
                  ∧ ∃ l ∈ s.cox.launches, l.ctx = f.desc.ctx ∧ l.sup = some n)))
          ∧ (f.place = .arm → (t.cell n).sched.arms = dropFirst (fun a => decide (a.st = .fired) && decide (a.ctr = f.desc.ctr)) c.sched.arms))
      ∧ (c.sched.fired = [] → exec (.descriptorInsert n) s = .next s)
      ∧ ((∃ f fs, c.sched.fired = f :: fs) → (∀ b, b < readyBanks n → 32 ≤ (vget c.sched.ready b).length) → exec (.descriptorInsert n) s = .next s)
      ∧ (∀ k, c.popper n = some k →
          let waits : Nat → Prop := fun j => j < threadsOf n ∧ (s.thread n j).run.st = .free ∧ c.sched.park.getLsbD j = false
            ∧ ∀ f ∈ c.sched.fired, f.place ≠ .thread j
          waits k ∧ ∀ j, waits j → (s.thread n k).run.freeAt ≤ (s.thread n j).run.freeAt
            ∧ ((s.thread n k).run.freeAt = (s.thread n j).run.freeAt → k ≤ j))
      ∧ (∀ k e v, c.popper n = some k → c.sched.take = some e → c.sched.moveOf e = some v → v.msg ≠ none → exec (.pop n) s = .next s)
      ∧ (∀ k e, s.mayPop n = true → c.popper n = some k → c.sched.take = some e → (∀ v ∈ c.sched.moves, v.age = e.age → v.msg = none) → Gives (.pop n) s fun t =>
          let th := t.thread n k
          th.run.st = .running ∧ th.pc = e.desc.entry ∧ th.ctrl.remain = 1#32 <<< e.desc.budget.toNat ∧ th.run.restart = true ∧ th.ctrl.fcsr = 0
            ∧ th.reg .x 12 = e.desc.stage.setWidth 64
            ∧ (e.desc.handler = none → th.reg .x 10 = e.desc.arg.setWidth 64 ∧ th.reg .x 11 = 0#21 ++ e.desc.home ++ 0#10 ++ e.desc.ctr)
            ∧ (∀ a b, e.desc.handler = some (a, b) → th.reg .x 10 = a ∧ th.reg .x 11 = b)
            ∧ (∀ r, r < 32 → r < 10 ∨ 12 < r → th.reg .x r = 0) ∧ (∀ fl r, th.full fl r = true ∨ 32 ≤ r)
            ∧ (∀ b x, x ∈ vget (t.cell n).sched.ready b → x.age ≠ e.age) ∧ (t.cell n).sched.gen = popGen c.sched.gen ∧ t.mem = s.mem)
      ∧ (c.popper n = none ∨ c.sched.take = none ∨ s.mayPop n = false → exec (.pop n) s = .next s)
      ∧ (∀ k, k < 4 →
          let goes : Instr → Nat → Prop := fun i v => Gives i s fun t => (t.cell n).sched.slotState (BitVec.ofNat 2 k) = v
            ∧ (∀ j, j < 4 → j ≠ k → (t.cell n).sched.slotState (BitVec.ofNat 2 j) = c.sched.slotState (BitVec.ofNat 2 j))
            ∧ (∀ b, (vget (t.cell n).sched.ready b).map (fun x => { x with pass := 0 }) = (vget c.sched.ready b).map fun x => { x with pass := 0 })
            ∧ t.mem = s.mem ∧ ∀ j i, t.thread j i = s.thread j i
          goes (.ctxSlotDrain n k) 1 ∧ goes (.ctxSlotIn n k) 0
          ∧ (c.sched.slotState (BitVec.ofNat 2 k) = 1 → c.runCount (BitVec.ofNat 2 k) = 0 → goes (.ctxSlotOut n k) 2)
          ∧ (c.sched.slotState (BitVec.ofNat 2 k) ≠ 1 ∨ c.runCount (BitVec.ofNat 2 k) ≠ 0 → exec (.ctxSlotOut n k) s = .next s)))
  ∧ (
    ∀ (s : State) (n t : Nat),
      let th := s.thread n t
      let going := th.run.st = .running ∧ (th.run.ending = true ∨ th.run.halting = true)
      let quiet := th.allFull = true ∧ s.wuIdle n t = true
      let left : State := s.modThread n t fun th => { th with run := { th.run with leaving := true, undo := [] } }
      let passed := th.run.leaving = true ∨ (quiet ∧ th.run.pendErr = none)
      (going → th.run.leaving = false → ¬quiet → exec (.runEnd n t) s = .next s)
      ∧ (going → th.run.leaving = false → quiet → ∀ p, th.run.pendErr = some p → s.mayRetry n t = true → s.mayWrite n t th.undoLines →
          exec (.runEnd n t) s = .next { (s.unclaim n t).rollback n t with blocked := false })
      ∧ (going → th.run.leaving = false → quiet → ∀ p, th.run.pendErr = some p → s.mayRetry n t = true → ¬s.mayWrite n t th.undoLines →
          Gives (.runEnd n t) s fun u => u.mem = s.mem ∧ ∀ j k, u.thread j k = s.thread j k)
      ∧ (going → th.run.leaving = false → quiet → ∀ p, th.run.pendErr = some p → s.mayRetry n t = false →
          exec (.runEnd n t) s = .next ((s.dropOutbox n t).freezeError n t p))
      ∧ (going → passed → ∀ u, left.releaseAll n t = (u, .full) → exec (.runEnd n t) s = .next u)
      ∧ (going → passed → ∀ u f, left.releaseAll n t = (u, .fault f) → exec (.runEnd n t) s =
          .next ({ u.modThread n t (fun th => { th with run := { th.run with leaving := false } }) with blocked := false }.takeTrap n t f.cause false false
            (vaOf th.pc) f.addr f.detail))
      ∧ (¬going → exec (.runEnd n t) s = .next s)
      ∧ (going → passed → ∀ u, left.releaseAll n t = (u, .all) →
          exec (.runEnd n t) s = .next { (u.modSched n fun c => c.freeLanding (th.run.desc.bind Desc.landing)).freeThread n t th.run.halting with blocked := false })
      ∧ (∀ u : State, (((u.freeThread n t false).thread n t).run.st = .free ∨ ((u.freeThread n t false).thread n t).run.st = .parked)
          ∧ ((u.freeThread n t false).thread n t).run.desc = none ∧ (t < 16 → ((u.freeThread n t true).thread n t).run.st = .parked)))
  ∧ (
    ∀ (s : State) (n : Nat),
      let c := s.cell n
      (isChan n = true → exec (.balanceExchange n) s = .next s)
      ∧ (Gives (.balanceExchange n) s fun t =>
        (∃ new, (t.cell n).sched.moves = c.sched.moves ++ new ∧ ∀ v ∈ new, v.msg = none ∧ ∃ d, d < 6 ∧ v.dst = neighbour n d)
          ∧ (c.sched.balCtl.getLsbD 12 = false → t = s) ∧ t.mem = s.mem ∧ t.net = s.net ∧ ∀ j k, t.thread j k = s.thread j k)
      ∧ (∀ v vs e, s.portsOpen → c.sched.moves = v :: vs → v.msg = none → (∀ i ∈ v.needs, ∀ x ∈ c.mem.fwd, x.msg.id ≠ i) →
          (c.sched.ready.toList.flatMap id).find? (fun x => decide (x.age = v.age)) = some e → Gives (.balanceMoveSend n) s fun t =>
            Sends s t fun m => m.cls = 4 ∧ m.kind = 0x10 ∧ m.src = n ∧ m.dst = v.dst ∧ m.desc = some { e.desc with radius := e.desc.radius - 1 })
      ∧ (∀ k m u d, s.arrived k 4 0x10 = some (m, u) → m.desc = some d → u.turnedAway m = none →
          (u.cell m.dst).sched.placesUsed < firedPlaces m.dst → Gives (.msgTaskmove k) s fun t =>
            (t.cell m.dst).sched.fired = (u.cell m.dst).sched.fired ++ [{ desc := d, place := .place }] ∧ t.mem = s.mem)
      ∧ (∀ k m u d, s.portsOpen → s.arrived k 4 0x10 = some (m, u) → m.desc = some d → u.turnedAway m = none →
          firedPlaces m.dst ≤ (u.cell m.dst).sched.placesUsed → Gives (.msgTaskmove k) s fun t =>
            (t.cell m.dst).sched.fired = (u.cell m.dst).sched.fired ∧ t.mem = s.mem
              ∧ Sends u t fun a => a.cls = 1 ∧ a.kind = 3 ∧ a.id = k ∧ a.src = m.dst ∧ a.dst = m.src ∧ a.aux = 0)
      ∧ (∀ k m u r who, s.portsOpen → s.arrived k 4 0x10 = some (m, u) → u.turnedAway m = some (r, who) → Gives (.msgTaskmove k) s fun t =>
            (t.cell m.dst).sched.fired = (u.cell m.dst).sched.fired ∧ t.mem = s.mem
              ∧ Sends u t fun a => a.cls = 1 ∧ a.kind = 3 ∧ a.id = k ∧ a.src = who ∧ a.dst = m.src ∧ a.aux = BitVec.ofNat 6 r)
      ∧ (∀ k, s.arrived k 4 0x10 = none → exec (.msgTaskmove k) s = .next s)
      ∧ (∀ k x, c.sched.timers[k]? = some x →
          let w := s.readNat (nodeBase n + x.off) 8
          (c.sched.barTmo ≠ 0 → x.suspended = false → c.sched.barTmo.toNat ≤ s.fab - x.started → w / 2 ^ 24 % 4096 = 0 → c.paused = false →
            Gives (.barrierTimeout n k) s fun t => (t.cell n).sched.timers = c.sched.timers.filter (fun y => decide (y ≠ x))
              ∧ (t.cell n).err.seq = c.err.seq + 1)
          ∧ (c.sched.barTmo = 0 ∨ x.suspended = true ∨ s.fab - x.started < c.sched.barTmo.toNat ∨ w / 2 ^ 24 % 4096 ≠ 0 ∨ c.paused = true →
              exec (.barrierTimeout n k) s = .next s)))

/-- Loads, stores and atomics at their home (R208, R212, R213, R233, R234, R254, R255, R365): at MSG_LOAD a LOAD is answered with the eight words of its line and
changes no memory; at MSG_STORE a STORE writes exactly its bytes and is acknowledged; at MSG_AMO and MSG_CAS an AMO and an AMO.CAS answer the old value
and write the new one, but on a poisoned line answer it as poisoned and write nothing. A request that is turned away on its way is answered NACK with the
reason, by its home or by the router that has fenced it, and memory stands.

A write to a line that other cells share takes a pending slot of its bank and sends each of them an invalidation; a request to a line at which
another waits takes one too; with the sixteen slots full it is answered NACK BUSY (R213). (What AUX of a message codes is log 10's choice.)

Counters and barriers at their home (R235, R236, R260, R279, R280, R293, R365; MSG_DECN, MSG_ARM, MSG_BARA, MSG_BARX): on a poisoned line none is
performed, and the region supervisor is told; a decrement subtracts and stops at 0, where the armed descriptor fires with its counter in CTR, and an
overshoot is recorded in CTR_ERR; ARM arms the reserved entry, or fires it where the counter reads 0; an arrival at a barrier takes one from LEFT, the last of a
generation opens the next with LEFT = MEMBERS and decrements the barrier's counter; ABSENT counts up and down. (HOME of a fired descriptor in a channel core is log 9's choice.) -/
def Obligations.RequestsAtTheirBank : Prop :=
  (
    ∀ (s u : State) (k : Nat) (m : Msg), s.portsOpen →
      let on : BitVec 8 → Prop := fun kind => s.arrived k 0 kind.toNat = some (m, u) ∧ u.turnedAway m = none ∧ u.quietBanks m.dst
        ∧ homeOf m.pa = some (m.dst, m.opa.toNat) ∧ s.mem.wf = true
      let back : State → BitVec 8 → (Msg → Prop) → Prop := fun t kind p =>
        Sends u t fun a => a.cls = 1 ∧ a.kind = kind ∧ a.id = m.id ∧ a.src = m.dst ∧ a.dst = m.src ∧ p a
      let rest : State → Nat → Prop := fun t n => ∀ a, (a < m.pa ∨ m.pa + n ≤ a) → t.mem.get a = s.mem.get a
      (on 0x00 → Gives (.msgLoad k) s fun t => back t 0 (fun a => a.payload = (List.range 8).map (fun j => s.readWord (m.pa / 64 * 64 + 8 * j))
          ∧ (a.aux.getLsbD 0 = true ↔ s.poisoned m.pa = true)) ∧ t.mem = s.mem)
      ∧ (on 0x01 → Gives (.msgStore k) s fun t => back t 1 (fun _ => True) ∧ rest t m.storeLen
          ∧ ∀ j, j < m.storeLen → t.mem.get (m.pa + j) = BitVec.ofNat 8 (m.opb.toNat / 256 ^ j))
      ∧ (on 0x02 → s.poisoned m.pa = false →
          let n := amoBytes m.aux.toNat
          Gives (.msgAmo k) s fun t => back t 0 (fun a => a.opb.toNat = s.readNat m.pa n ∧ a.payload = []) ∧ rest t n
            ∧ t.readNat m.pa n = amoNew (m.aux.toNat % 16) m.sat n (s.readNat m.pa n) m.opb.toNat % 2 ^ (8 * n))
      ∧ (on 0x03 → s.poisoned m.pa = false → Gives (.msgCas k) s fun t => back t 0 (fun a => a.opb.toNat = s.readNat m.pa 8 ∧ a.payload = []) ∧ rest t 8
            ∧ t.readNat m.pa 8 = if s.readNat m.pa 8 = (m.payload.headD 0).toNat then m.opb.toNat else s.readNat m.pa 8)
      ∧ (on 0x02 → s.poisoned m.pa = true → Gives (.msgAmo k) s fun t => back t 0 (fun a => a.aux.getLsbD 0 = true) ∧ t.mem = s.mem)
      ∧ (on 0x03 → s.poisoned m.pa = true → Gives (.msgCas k) s fun t => back t 0 (fun a => a.aux.getLsbD 0 = true) ∧ t.mem = s.mem)
      ∧ (let line := m.pa / 64 * 64
         let mem := (u.cell m.dst).mem
         let taken := (mem.pending.filter fun r => decide (r.owner = none) && decide (r.msg.cls ≠ 7)
           && decide (bankOf m.dst r.msg.opa.toNat = bankOf m.dst m.opa.toNat)).length
         let waited := ∃ r ∈ mem.pending, r.line = line
         let here : BitVec 8 → Prop := fun kind => s.arrived k 0 kind.toNat = some (m, u) ∧ u.turnedAway m = none
         let W : BitVec 8 → Prop → Instr → Prop := fun kind writes i => here kind →
           (taken < 16 → waited → Gives i s fun t => t.mem = s.mem
              ∧ (t.cell m.dst).mem.pending = mem.pending ++ [{ msg := m, line := line, left := [] }])
           ∧ (taken < 16 → ¬waited → writes → u.sharersOf m.dst line ≠ [] → Gives i s fun t => t.mem = s.mem
              ∧ (t.cell m.dst).mem.pending = mem.pending ++ [{ msg := m, line := line, left := u.sharersOf m.dst line }]
              ∧ ∀ j ∈ u.sharersOf m.dst line, ∃ a ∈ t.net, a.cls = 4 ∧ a.kind = 0 ∧ a.src = m.dst ∧ a.dst = j ∧ a.opa = BitVec.ofNat 64 line)
           ∧ (16 ≤ taken → waited ∨ (writes ∧ u.sharersOf m.dst line ≠ []) → Gives i s fun t => back t 3 (fun a => a.aux = 0) ∧ t.mem = s.mem
              ∧ (t.cell m.dst).mem.pending = mem.pending)
         W 0x00 False (.msgLoad k) ∧ W 0x01 True (.msgStore k) ∧ W 0x02 True (.msgAmo k)
           ∧ W 0x03 (s.poisoned m.pa = false ∧ s.readNat m.pa 8 = (m.payload.headD 0).toNat) (.msgCas k)
           ∧ W 0x04 (m.opb ≠ 0) (.msgDecn k) ∧ W 0x0B True (.msgBara k) ∧ W 0x0C True (.msgBarx k) ∧ W 0x0D False (.msgArm k))
      ∧ (∀ r who, u.turnedAway m = some (r, who) →
          let no : BitVec 8 → Instr → Prop := fun kind i => s.arrived k 0 kind.toNat = some (m, u) →
            Gives i s fun t => (Sends u t fun a => a.cls = 1 ∧ a.kind = 3 ∧ a.id = m.id ∧ a.src = who ∧ a.dst = m.src ∧ a.aux = BitVec.ofNat 6 r) ∧ t.mem = s.mem ∧ ∀ n j, t.thread n j = s.thread n j
          no 0x00 (.msgLoad k) ∧ no 0x01 (.msgStore k) ∧ no 0x02 (.msgAmo k) ∧ no 0x03 (.msgCas k) ∧ no 0x04 (.msgDecn k) ∧ no 0x05 (.msgSend k)
            ∧ no 0x06 (.msgCpy k) ∧ no 0x07 (.msgCpym k) ∧ no 0x08 (.msgColl k) ∧ no 0x0A (.msgSpawn k) ∧ no 0x0B (.msgBara k) ∧ no 0x0C (.msgBarx k)
            ∧ no 0x0D (.msgArm k)))
  ∧ (
    ∀ (s u : State) (k : Nat) (m : Msg), s.portsOpen →
      let on : BitVec 8 → Prop := fun kind => s.arrived k 0 kind.toNat = some (m, u) ∧ u.turnedAway m = none ∧ u.quietBanks m.dst
        ∧ homeOf m.pa = some (m.dst, m.opa.toNat) ∧ s.mem.wf = true ∧ s.poisoned m.pa = false ∧ m.opa.toNat < 2 ^ 22
      let acked : State → Prop := fun t => ∃ a ∈ t.net, a.cls = 1 ∧ a.kind = 1 ∧ a.id = m.id ∧ a.dst = m.src
      let rest : State → Nat → Prop := fun t n => ∀ a, (a < m.pa ∨ m.pa + n ≤ a) → t.mem.get a = s.mem.get a
      let c := (s.cell m.dst).sched
      let old := s.readNat m.pa 4
      let x := m.opb.toNat
      let w := s.readNat m.pa 8
      let armed : ArmEnt → Bool := fun a => decide (a.ctr.toNat = m.opa.toNat) && decide (a.st = .armed)
      (let P : BitVec 8 → Instr → Prop := fun kind i => s.arrived k 0 kind.toNat = some (m, u) → u.turnedAway m = none → u.quietBanks m.dst →
          s.mem.wf = true → s.poisoned m.pa = true → Gives i s fun t => acked t ∧ (t.cell m.dst).sched = c ∧ (t.cell m.dst).mem.ctrErr = (s.cell m.dst).mem.ctrErr
            ∧ (t.cell m.dst).err.seq = (s.cell m.dst).err.seq + 1 ∧ (∀ a, spaceOf a = .cell m.dst → t.mem.get a = s.mem.get a)
       P 0x04 (.msgDecn k) ∧ P 0x0B (.msgBara k) ∧ P 0x0C (.msgBarx k))
      ∧ (on 0x04 → Gives (.msgDecn k) s fun t => acked t ∧ rest t 4 ∧ t.readNat m.pa 4 = old - x
          ∧ (t.cell m.dst).mem.ctrErr = (if x ≠ 0 ∧ (old = 0 ∨ old < x) then ctrErrNext (s.cell m.dst).mem.ctrErr m.opa.toNat else (s.cell m.dst).mem.ctrErr)
          ∧ (x = 0 ∨ old = 0 ∨ x < old → (t.cell m.dst).sched = c)
          ∧ (∀ a, 0 < old → old ≤ x → c.arms.find? armed = some a → ∃ f, (t.cell m.dst).sched.fired = c.fired ++ [f] ∧ f.place = .arm ∧ f.desc.ctr = a.ctr
              ∧ f.desc.entry = a.desc.entry ∧ f.desc.arg = a.desc.arg ∧ f.desc.home = homeField m.dst))
      ∧ (∀ a, c.arms.find? (fun a => decide (a.ctr.toNat = m.opa.toNat) && decide (a.st = .reserved)) = some a → on 0x0D → Gives (.msgArm k) s fun t =>
          acked t ∧ t.mem = s.mem
          ∧ (old ≠ 0 → (t.cell m.dst).sched.fired = c.fired ∧ ∃ e ∈ (t.cell m.dst).sched.arms, e.ctr = a.ctr ∧ e.st = .armed ∧ e.desc = a.desc)
          ∧ (old = 0 → ∃ f, (t.cell m.dst).sched.fired = c.fired ++ [f] ∧ f.place = .arm ∧ f.desc.ctr = a.ctr))
      ∧ (on 0x0B → w < 2 ^ 63 → barMembers w ≠ 0 → x = barGen w → 1 < barLeft w → Gives (.msgBara k) s fun t => acked t ∧ rest t 8 ∧ t.readNat m.pa 8 = w - 1)
      ∧ (on 0x0B → w < 2 ^ 63 → barMembers w ≠ 0 → x = barGen w → barLeft w = 1 →
          let o := barCtr w
          (o + 4 ≤ m.opa.toNat ∨ m.opa.toNat + 8 ≤ o) → s.poisoned (nodeBase m.dst + o) = false → homeOf (nodeBase m.dst + o) = some (m.dst, o) → Gives (.msgBara k) s fun t => acked t
            ∧ barGen (t.readNat m.pa 8) = (barGen w + 1) % 128 ∧ barLeft (t.readNat m.pa 8) = barMembers w ∧ barMembers (t.readNat m.pa 8) = barMembers w
            ∧ barAbs (t.readNat m.pa 8) = barAbs w ∧ barCtr (t.readNat m.pa 8) = barCtr w
            ∧ t.readNat (nodeBase m.dst + o) 4 = s.readNat (nodeBase m.dst + o) 4 - 1)
      ∧ (on 0x0B → (2 ^ 63 ≤ w ∨ barMembers w = 0 ∨ x ≠ barGen w) → Gives (.msgBara k) s fun t => acked t ∧ t.mem = s.mem
            ∧ (t.cell m.dst).mem.ctrErr = ctrErrNext (s.cell m.dst).mem.ctrErr m.opa.toNat)
      ∧ (on 0x0C → x = 1 → barAbs w ≠ 0 → Gives (.msgBarx k) s fun t => acked t ∧ rest t 8 ∧ t.readNat m.pa 8 = w - 2 ^ 24)
      ∧ (on 0x0C → x = 0 → barAbs w ≠ 4095 → Gives (.msgBarx k) s fun t => acked t ∧ rest t 8 ∧ t.readNat m.pa 8 = w + 2 ^ 24))

/-- SEND, SPAWN and engine commands on arrival (R224, R251, R258, R274, R297): at MSG_SEND a SEND needs a slot of its context, a valid handler of that slot, and, where
it carries data, a landing slot, in which the data come to lie once no cell shares their lines (R213; until then it waits); its handler run is fired with
the landing offset in x10 and the sender, channel, length and thread in x11, STAGE 0, RADIUS 0 and BUDGET 20. At MSG_SPAWN a SPAWN's descriptor is
fired, with the fields of its payload, BUDGET read as 20 outside 10 to 24 and RADIUS as 0 by a channel core, and with the slot of its context, the
sender's id in HOME and a CTR that names no counter. At MSG_CPY, MSG_CPYM and MSG_COLL a command stands in its engine with its operands.

Bulk writes and reports (R208, R213, R225, R226, R345, R374 to R377): at MSG_LINE an engine's line is written at its home bank, in bulk space or in host
memory, and acknowledged; one for a port's window stands in the port's transmit queue, and nothing answers it yet. At MSG_FAULT a packet goes to the
host's ring where the supervisor's cell has set none up, and is turned away with NACK BUSY where its ring is full. (HOME and channel ids are log 9's
choice, what the header of a line codes logs 10 and 114.) -/
def Obligations.RunsAndCommandsArrive : Prop :=
  ∀ (s u : State) (k : Nat) (m : Msg), s.portsOpen →
    let on : BitVec 8 → Prop := fun kind => s.arrived k 0 kind.toNat = some (m, u) ∧ u.turnedAway m = none
    let acked : State → Prop := fun t => Sends u t fun a => a.cls = 1 ∧ a.kind = 1 ∧ a.id = m.id ∧ a.dst = m.src
    let nacked : Nat → State → Prop := fun r t => Sends u t (fun a => a.cls = 1 ∧ a.kind = 3 ∧ a.aux = BitVec.ofNat 6 r ∧ a.id = m.id ∧ a.dst = m.src) ∧ t.mem = s.mem
    let c := (s.cell m.dst).sched
    let e := vget c.handlers m.aux.toNat
    let room := c.placesUsed < firedPlaces m.dst
    let good : BitVec 2 → Prop := fun slot => s.slotOf m.dst m.ctx = some slot ∧ e.getLsbD 63 = true ∧ e.extractLsb' 61 2 = slot
    let src := if isChan m.src then chanOf m.src else m.src
    let run : Desc → Word → Prop := fun d x10 => d.entry = e.extractLsb' 0 56 ++ 0#2 ∧ d.prio = e.extractLsb' 57 4 ∧ d.ctx = m.ctx
      ∧ d.stage = 0 ∧ d.radius = 0 ∧ d.budget = 20
      ∧ d.handler = some (x10, BitVec.ofNat 64 (src + m.aux.toNat * 2 ^ 12 + m.payload.length / 4 * 2 ^ 20 + m.thr * 2 ^ 32))
    (on 0x05 → s.slotOf m.dst m.ctx = none → Gives (.msgSend k) s (nacked 1))
    ∧ (∀ slot, on 0x05 → s.slotOf m.dst m.ctx = some slot → (e.getLsbD 63 = false ∨ e.extractLsb' 61 2 ≠ slot) → Gives (.msgSend k) s (nacked 3))
    ∧ (∀ slot, on 0x05 → good slot → (¬room ∨ (4 ≤ m.payload.length ∧ c.freeSlot = none)) → Gives (.msgSend k) s (nacked 0))
    ∧ (∀ slot, on 0x05 → good slot → room → m.payload = [] → Gives (.msgSend k) s fun t => acked t ∧ t.mem = s.mem
        ∧ ∃ d, (t.cell m.dst).sched.fired = c.fired ++ [{ desc := d, place := .place }] ∧ run d 0 ∧ d.slot = slot ∧ d.landing = none)
    ∧ (∀ slot i, on 0x05 → good slot → room → 4 ≤ m.payload.length → c.freeSlot = some i → s.mem.wf = true → u.quietBanks m.dst → nodeOk m.dst = true →
        let o := 2048 * (c.inbox.toNat / 2 ^ 11 % 2 ^ 11 + i)
        o + 8 * m.payload.length ≤ nodeLimit m.dst → Gives (.msgSend k) s fun t => acked t ∧ (t.cell m.dst).sched.landing = c.landing ++ [i]
        ∧ (∀ j, j < m.payload.length → t.readWord (nodeBase m.dst + o + 8 * j) = m.payload.getD j 0)
        ∧ (∀ a, (a < nodeBase m.dst + o ∨ nodeBase m.dst + o + 8 * m.payload.length ≤ a) → t.mem.get a = s.mem.get a)
        ∧ ∃ d, (t.cell m.dst).sched.fired = c.fired ++ [{ desc := d, place := .place }] ∧ run d (BitVec.ofNat 64 o) ∧ d.slot = slot ∧ d.landing = some i)
    ∧ (∀ slot i, on 0x05 → good slot → room → 4 ≤ m.payload.length → c.freeSlot = some i →
        ¬u.mayWrite m.dst (32 + m.id) (linesOf (nodeBase m.dst + inboxSlot c.inbox i) (8 * m.payload.length)) →
        Gives (.msgSend k) s fun t => m ∈ t.net ∧ t.mem = s.mem ∧ (t.cell m.dst).sched = c)
    ∧ (∀ slot, on 0x0A → s.slotOf m.dst m.ctx = some slot → room → Gives (.msgSpawn k) s fun t => acked t ∧ t.mem = s.mem
        ∧ ∃ d, (t.cell m.dst).sched.fired = c.fired ++ [{ desc := d, place := .place }] ∧ d.entry = (m.payload.getD 0 0).extractLsb' 0 58 &&& ~~~3#58
          ∧ d.arg = (m.payload.getD 1 0).extractLsb' 0 58 ∧ d.slot = slot ∧ d.ctx = m.ctx ∧ d.handler = none ∧ d.ctr = 0x3fffff
          ∧ d.home = BitVec.ofNat 11 src ∧ d.prio = (m.payload.getD 2 0).extractLsb' 33 4 ∧ d.stage = (m.payload.getD 2 0).extractLsb' 37 8
          ∧ d.radius = (if isChan m.dst then 0 else (m.payload.getD 2 0).extractLsb' 45 3)
          ∧ (let b := (m.payload.getD 2 0).toNat / 2 ^ 48 % 32
             d.budget.toNat = if 10 ≤ b ∧ b ≤ 24 then b else 20))
    ∧ (∀ slot, on 0x0A → s.slotOf m.dst m.ctx = some slot → ¬room → Gives (.msgSpawn k) s (nacked 0))
    ∧ (on 0x0A → s.slotOf m.dst m.ctx = none → Gives (.msgSpawn k) s (nacked 1))
    ∧ (let C : BitVec 8 → Instr → Prop := fun kind i => on kind → Gives i s fun t => acked t ∧ t.mem = s.mem
        ∧ ∃ x, (t.cell m.dst).mem.engines = (s.cell m.dst).mem.engines ++ [x] ∧ x.id = m.id ∧ x.kind = kind ∧ x.ctx = m.ctx ∧ x.thr = m.thr ∧ x.dst = m.opa
          ∧ x.src = m.opb ∧ x.len = (m.payload.getD 0 0).toNat ∧ x.ctr = m.payload.getD 1 0 ∧ x.w2 = (m.payload.getD 2 0).extractLsb' 32 32
          ∧ x.w1 = (m.payload.getD 2 0).setWidth 32 ∧ x.hasCtr = (m.payload.getD 3 0).getLsbD 0 ∧ x.gen = (m.payload.getD 3 0).extractLsb' 8 8
          ∧ x.scope = m.scope ∧ x.launch = m.launch ∧ x.begun = false ∧ x.stopped = false ∧ x.pos = 0 ∧ x.rpos = 0 ∧ x.lines = []
       C 0x06 (.msgCpy k) ∧ C 0x07 (.msgCpym k) ∧ C 0x08 (.msgColl k))
    ∧ (let line := s.arrived k 2 0 = some (m, u) ∧ u.turnedAway m = none ∧ s.mem.wf = true ∧ m.bytes ≤ 8 * m.payload.length
       let put : Nat → State → Prop := fun a t => acked t
        ∧ (∀ j, j < m.bytes → t.mem.get (a + j) = BitVec.ofNat 8 ((m.payload.getD (j / 8) 0).toNat / 256 ^ (j % 8)))
        ∧ ∀ b, (b < a ∨ a + m.bytes ≤ b) → t.mem.get b = s.mem.get b
       (line → portAt m.dst = none → m.dst ≠ coxNode → u.quietBanks m.dst → homeOf m.pa = some (m.dst, m.opa.toNat) → Gives (.msgLine m.dst k) s (put m.pa))
       ∧ (line → m.dst = coxNode → spaceOf m.opa.toNat = .bulk ∨ spaceOf m.opa.toNat = .host → Gives (.msgLine m.dst k) s (put m.opa.toNat))
       ∧ (∀ p, line → portAt m.dst = some p → Gives (.msgLine m.dst k) s fun t => t.mem = s.mem ∧ t.net = u.net
          ∧ (vget t.ports p).away = (vget s.ports p).away ++ [m]
          ∧ (vget t.ports p).queue = (vget s.ports p).queue ++ m.header m.pdst :: (List.range ((m.payload.length + 3) / 4)).map fun i =>
              (m.payload.drop (4 * i)).take 4)
       ∧ (∀ r who, s.arrived k 2 0 = some (m, u) → u.turnedAway m = some (r, who) → Gives (.msgLine m.dst k) s fun t => t.mem = s.mem
          ∧ Sends u t fun a => a.cls = 1 ∧ a.kind = 3 ∧ a.aux = BitVec.ofNat 6 r ∧ a.id = m.id ∧ a.src = who ∧ a.dst = m.src))
    ∧ (let w := s.faultRing m
       s.arrived k 5 0x20 = some (m, u) → u.turnedAway m = none →
        (fqLog w = 0 → Gives (.msgFault k) s fun t => t.mem = (u.toHost m.payload).mem ∧ t.cox = (u.toHost m.payload).cox ∧ acked t)
        ∧ (fqLog w ≠ 0 → 2 ^ fqLog w ≤ (s.fqTail m.dst w + 2 ^ 32 - s.fqHead m.dst w) % 2 ^ 32 → Gives (.msgFault k) s (nacked 0)))

/-- The way of a message (R207, R211, R221, R254, R275): at SLOT_INJECT a released slot whose condition holds, with no earlier slot of its destination and class
waiting, is injected, stamped with its sequence number, the dimension order of its class and its sender's stroke. At RETRY_TIMER a NACKed message goes out
again once its back-off has passed and nothing injected before it is still to be retried; a release is sent with the wider of the scope that it met and
the one that scope_of gives now, and where that grew to region scope it waits first for the writes ahead of it (R223). An arrival is the oldest of its
source, destination and class; while a message injected before it is still to be retried it is turned away as BUSY.

Answers (R209 to R213, R232, R248, R275 to R277, R345, R366, R376): MSG_DATA fills the load's register and ends its entry, and the L1D takes the line unless it
was invalidated since; a poisoned one marks a pending error. MSG_ACK ends the entry, and a move of balance. MSG_NACK counts and backs off 256 cycles,
twice as long each time up to 2^10; a TASKMOVE is not sent again. At the sixteenth the message is UNDELIVERABLE: a load freezes its thread at the load
with cause 0x31, a packet goes to the cox cores, and anything else is reported with its header, with cause 0x34 for NO_HANDLER and 0x31 otherwise
(ADDR is a free value, log 24). MSG_INVAL drops the line from every L1D of the cell and is acknowledged; at MSG_INVACK the last acknowledgement
lets the write that waited for it be performed, or gives a write of the home's own its turn. (What a message of a fenced cell meets is log 18's choice,
the answers of an optical port log 114's.)

MALFORMED_MESSAGE (R255): a message of an unknown class or kind, or with a reserved bit set, is dropped and counted against the port that it came
through. -/
def Obligations.MessagesAndTheirAnswers : Prop :=
  (
    ∀ (s : State) (n k : Nat) (e : FwdEnt),
      let fwd : State → List FwdEnt := fun t => (t.cell n).mem.fwd
      let mine := (fwd s).find? (fun x => decide (x.msg.id = k)) = some e
      let unfrozen := (s.cell n).net.frozen = false ∨ e.msg.cls = 5
      let same : Msg → Prop := fun a => a.id = k ∧ a.cls = e.msg.cls ∧ a.kind = e.msg.kind ∧ a.dst = e.msg.dst ∧ a.opa = e.msg.opa ∧ a.opb = e.msg.opb
        ∧ a.payload = e.msg.payload
        ∧ (e.msg.src = n → nodeOk n = true → a.seq = assocGet 0 (s.cell n).mem.seqs (8 * a.dst + a.cls.toNat) ∧ a.dor = vget s.misc.dord a.cls.toNat
            ∧ (e.msg.tellsStroke = false → a.stroke = (s.cell n).net.stroke - 1))
      let out : Msg → State → Prop := fun a t => t.net = s.net ++ [a] ∧ same a ∧ t.mem = s.mem
        ∧ fwd t = (fwd s).map fun x => if x.msg.id = k then { x with msg := a, st := .sent, inj := if x.inj = 0 then s.nextId + 1 else x.inj } else x
      let older := ((fwd s).takeWhile fun x => x.msg.id ≠ k).filter fun x => x.msg.writes
      let wider := e.msg.releases = true ∧ e.msg.command = false
      let sc := if wider then max e.msg.scope.toNat (s.scopeOf e.msg.src e.msg.dst e.msg.launch).toNat else e.msg.scope.toNat
      let grew := e.msg.releases = true ∧ e.msg.scope.toNat < 3 ∧ 3 ≤ sc
      (s.portsOpen → mine → s.canInject n e = true → Gives (.slotInject n k) s fun t => ∃ a, out a t ∧ a.scope = e.msg.scope)
      ∧ (mine → s.canInject n e = false → exec (.slotInject n k) s = .next s)
      ∧ (∀ l r, fwd s = l ++ e :: r → (∀ x ∈ l, x.msg.id ≠ e.msg.id) → (s.canInject n e = true ↔ e.st = .queued ∧ (∀ i ∈ e.needs, ∀ x ∈ fwd s, x.msg.id ≠ i)
          ∧ (∀ x ∈ l, x.st = .queued → x.msg.dst = e.msg.dst → x.msg.cls ≠ e.msg.cls) ∧ unfrozen))
      ∧ (s.portsOpen → mine → s.canRetry n e = true → ¬(grew ∧ older ≠ []) → Gives (.retryTimer n k) s fun t => ∃ a, out a t ∧ a.scope.toNat = sc)
      ∧ (mine → s.canRetry n e = true → grew → older ≠ [] → Gives (.retryTimer n k) s fun t => t.net = s.net ∧ t.mem = s.mem
          ∧ ∃ x ∈ fwd t, x.msg.id = k ∧ x.st = .queued ∧ x.msg.scope.toNat = sc ∧ x.nacks = e.nacks ∧ x.needs = older.map fun y => y.msg.id)
      ∧ (mine → s.canRetry n e = false → exec (.retryTimer n k) s = .next s)
      ∧ (mine → (s.canRetry n e = true ↔ (∃ due, e.st = .wait due ∧ due ≤ s.fab) ∧ unfrozen
          ∧ ∀ x ∈ fwd s, 0 < x.inj → x.inj < e.inj → x.msg.dst = e.msg.dst → x.msg.cls = e.msg.cls →
              (∀ d, x.st ≠ .wait d) ∧ ¬(x.st = .queued ∧ 0 < x.nacks))))
  ∧ (
    ∀ (s u : State) (k c kd : Nat) (m : Msg),
      (s.arrived k c kd = some (m, u) → m ∈ s.net ∧ m.id = k ∧ m.cls.toNat = c ∧ m.kind.toNat = kd ∧ m.rsv = 0
        ∧ u = { s with net := dropFirst (fun x => x == m) s.net }
        ∧ (∀ l r, s.net = l ++ m :: r → m ∉ l → ∀ x ∈ l, x.src = m.src → x.dst = m.dst → x.cls ≠ m.cls)
        ∧ (m.nackable = false → s.crossesLost m = false))
      ∧ (∀ r, s.net = m :: r → m.rsv = 0 → (m.nackable = true ∨ s.crossesLost m = false) → s.arrived m.id m.cls.toNat m.kind.toNat = some (m, { s with net := r }))
      ∧ (∀ x y, (s.cell m.src).mem.fwd.find? (fun e => decide (e.msg.id = m.id)) = some y → x ∈ (s.cell m.src).mem.fwd → 0 < x.inj → x.inj < y.inj →
          x.msg.dst = y.msg.dst → x.msg.cls = y.msg.cls → x.toRetry = true → s.turnedAway m = some (0, m.dst))
      ∧ (s.crossesLost m = true → s.turnedAway m = some (0, m.dst))
      ∧ (∀ who, s.behindNack m = false → s.crossesLost m = false → s.fencedBy m = some who → s.turnedAway m = some (2, who))
      ∧ (s.behindNack m = false → s.crossesLost m = false → s.fencedBy m = none → m.dst < 2048 → m.cls.toNat < 4 → lptState (s.seenEntry m.src m.dst) = 1 →
          s.turnedAway m = some (1, m.dst))
      ∧ (∀ p, m.dst < 2048 → s.exitPort m = some p → (s.vote p.1 p.2).closed = true → s.fencedBy m = some p.1))
  ∧ (
    ∀ (s u : State) (n k : Nat) (m : Msg) (e : FwdEnt),
      let fwd : State → List FwdEnt := fun t => (t.cell n).mem.fwd
      let mine := (fwd s).find? (fun x => decide (x.msg.id = k)) = some e
      let takes : Nat → Prop := fun kd => s.arrived k 1 kd = some (m, u) ∧ m.dst = n
      let heard : Nat → Prop := fun kd => takes kd ∧ u.fencedBy m = none
      let reason := m.aux.toNat
      let gone : State → Prop := fun t => fwd t = (fwd s).filter fun x => decide (x.msg.id ≠ k)
      let v : Option Move := (s.cell n).sched.moves.find? fun v => v.msg = some k
      (heard 0 → ∀ o, (s.thread n m.thr).outs.find? (fun x => decide (x.wait = some m.id)) = some o → Gives (.msgData k) s fun t => gone t ∧ t.mem = s.mem
        ∧ (o.held = false → (o.file = .x ∧ o.reg ≠ 0 ∨ o.file = .f) → o.reg < 32 →
            (t.thread n m.thr).full o.file o.reg = true ∧ (t.thread n m.thr).outs = dropFirst (fun x => x == o) (s.thread n m.thr).outs
            ∧ (m.payload ≠ [] → o.laid = [] → o.size = 8 → m.payload.length = 8 → m.opa.toNat % 8 = 0 →
                (t.thread n m.thr).reg o.file o.reg = m.payload.getD (m.opa.toNat / 8 % 8) 0)
            ∧ (m.aux.getLsbD 0 = true → ∃ p, (t.thread n m.thr).run.pendErr = some p ∧ p.ord ≤ o.ord
                ∧ ((s.thread n m.thr).run.pendErr = none → p.addr = o.addr))
            ∧ (m.aux.getLsbD 0 = false → (t.thread n m.thr).run.pendErr = (s.thread n m.thr).run.pendErr))
        ∧ (o.held = true → (∀ fl r, (t.thread n m.thr).full fl r = (s.thread n m.thr).full fl r)
            ∧ ∃ x ∈ (t.thread n m.thr).outs, x.held = true ∧ x.wait = none ∧ x.addr = o.addr ∧ x.poison = m.aux.getLsbD 0)
        ∧ (m.thr < 16 →
            let fills := m.aux.getLsbD 1 = true ∧ ∃ x ∈ fwd s, x.msg.id = k ∧ x.load = true ∧ x.nofill = false
            let line := lineOf (nodeBase m.src + m.opa.toNat)
            (fills → ∃ l ∈ (t.core n m.thr).l1d, l.line = line ∧ l.bytes = wordBytes m.payload) ∧ (¬fills → (t.core n m.thr).l1d = (s.core n m.thr).l1d)))
      ∧ (heard 1 → Gives (.msgAck k) s fun t => gone t ∧ t.mem = s.mem ∧ (t.cell n).mem.engines = (s.cell n).mem.engines.map (fun c => c.heard k)
          ∧ ∀ x, v = some x → (t.cell n).sched.moves = (s.cell n).sched.moves.filter (fun y => decide (y ≠ x))
              ∧ ∀ b, ∀ y ∈ vget (t.cell n).sched.ready b, y.age ≠ x.age)
      ∧ (takes 3 → mine → reason < 8 → e.nacks < 15 → e.msg.cls ≠ 4 → ¬(e.msg.cls = 5 ∧ reason = 2) → Gives (.msgNack k) s fun t => t.mem = s.mem
          ∧ fwd t = (fwd s).map fun x => if x.msg.id = k then { x with nacks := x.nacks + 1, st := .wait (s.fab + 256 * 2 ^ min x.nacks 10) } else x)
      ∧ (takes 3 → mine → reason < 8 → e.msg.cls = 4 → s.nackWaits n e = false → Gives (.msgNack k) s fun t => gone t ∧ t.mem = s.mem
          ∧ ∀ x, v = some x → (t.cell n).sched.moves = (s.cell n).sched.moves.filter (fun y => decide (y ≠ x))
              ∧ ∀ b, ∀ y ∈ vget (t.cell n).sched.ready b, y.age = x.age → y.moving = false)
      ∧ (takes 3 → mine → reason < 8 → e.msg.cls = 5 → e.load = false → reason = 2 ∨ 15 ≤ e.nacks → Gives (.msgNack k) s fun t => gone t
          ∧ t.mem = (u.toHost e.msg.payload).mem ∧ t.cox = (u.toHost e.msg.payload).cox)
      ∧ (takes 3 → mine → reason < 8 → 15 ≤ e.nacks → e.msg.cls ≠ 4 → e.msg.cls ≠ 5 → e.load = false → ∃ p : List Word,
          let t0 := u.modMem n fun x => { x with fwd := x.fwd.filter fun y => y.msg.id ≠ k }
          exec (.msgNack k) s = .next (({ t0 with draws := s.draws + 1 }.nextSeq n).report n e.msg.ctx (some e.msg.launch) false p)
          ∧ (p.getD 0 0).toNat % 256 = (if reason = 3 then 0x34 else 0x31) ∧ (p.getD 2 0 = 0 ∨ e.msg.va = some (p.getD 2 0))
          ∧ p.drop 4 = e.msg.header e.msg.pdst)
      ∧ (takes 3 → mine → reason < 8 → 15 ≤ e.nacks → e.msg.cls = 0 → e.load = true → (s.thread n e.msg.thr).run.st ≠ .frozen →
          ∀ o, (s.thread n e.msg.thr).outs.find? (fun x => decide (x.wait = some k)) = some o → o.reg < 32 → Gives (.msgNack k) s fun t =>
            let th := t.thread n e.msg.thr
            th.run.st = .frozen ∧ th.run.cause = 0x31 ∧ th.pc = e.msg.pc.setWidth 58 ∧ th.full o.file o.reg = true ∧ th.ctrl.repIdx = o.idx
              ∧ th.run.packet[1]? = some e.msg.pc ∧ th.run.packet[2]? = some (e.msg.va.getD 0))
      ∧ (takes 3 → mine → reason < 8 → s.nackWaits n e = true → exec (.msgNack k) s = .next s)
      ∧ (takes 3 → mine → 8 ≤ reason → Gives (.msgNack k) s fun t => gone t ∧ t.mem = s.mem
          ∧ ∀ c ∈ (s.cell n).mem.engines, (∃ l ∈ c.lines, l.1 = e.msg.id) → c.stopped = false →
              ∃ x ∈ (t.cell n).mem.engines, x.id = c.id ∧ x.stopped = true ∧ x.status.toNat = reason - 8 ∧ x.fail = e.msg.va.getD 0)
      ∧ (s.portsOpen → s.arrived k 4 0 = some (m, u) → u.fencedBy m = none → Gives (.msgInval k) s fun t => t.mem = s.mem
          ∧ Sends u t (fun a => a.cls = 1 ∧ a.kind = 2 ∧ a.src = m.dst ∧ a.dst = m.src ∧ a.opa = m.opa ∧ a.opb = BitVec.ofNat 64 m.dst)
          ∧ (∀ j, ∀ l ∈ (vget (t.cell m.dst).cores j).l1d, l.line ≠ m.opa.toNat)
          ∧ ∀ x ∈ (t.cell m.dst).mem.fwd, x.loads m.opa.toNat = true → x.nofill = true)
      ∧ (∀ who, s.portsOpen → s.arrived k 4 0 = some (m, u) → u.fencedBy m = some who → Gives (.msgInval k) s fun t => t.mem = s.mem
          ∧ Sends u t (fun a => a.cls = 1 ∧ a.kind = 2 ∧ a.src = who ∧ a.dst = m.src ∧ a.opa = m.opa ∧ a.opb = BitVec.ofNat 64 m.dst))
      ∧ (heard 2 → ∀ r, (s.cell n).mem.pending = [r] → r.line = m.opa.toNat → r.left = [m.opb.toNat] →
          (∀ x ∈ (s.cell n).mem.dir, x.line = r.line ∧ x.ovf = false) →
          (r.owner = none → r.msg.cls = 0 → r.msg.kind = 1 → r.msg.dst = n → homeOf r.msg.pa = some (n, r.msg.opa.toNat) → lineOf r.msg.pa = r.line →
            s.mem.wf = true → Gives (.msgInvack k) s fun t => (t.cell n).mem.pending = [] ∧ (t.cell n).mem.dir = []
              ∧ ∀ j, j < r.msg.storeLen → t.mem.get (r.msg.pa + j) = BitVec.ofNat 8 (r.msg.opb.toNat / 256 ^ j))
          ∧ (r.owner ≠ none → Gives (.msgInvack k) s fun t => (t.cell n).mem.pending = [{ r with left := [] }] ∧ (t.cell n).mem.dir = [] ∧ t.mem = s.mem))
      ∧ (heard 2 → ∀ r, (s.cell n).mem.pending = [r] → r.line = m.opa.toNat → r.left.filter (fun i => decide (i ≠ m.opb.toNat)) ≠ [] →
          Gives (.msgInvack k) s fun t => (t.cell n).mem.pending = [{ r with left := r.left.filter fun i => decide (i ≠ m.opb.toNat) }] ∧ t.mem = s.mem)
      ∧ (∀ kd, kd ≤ 2 → takes kd → u.fencedBy m ≠ none →
          let i : Instr := if kd = 0 then .msgData k else if kd = 1 then .msgAck k else .msgInvack k
          exec i s = .next u)
      ∧ (s.net.find? (fun x => decide (x.id = k) && (!kindOk x.cls.toNat x.kind.toNat || decide (x.rsv ≠ 0))) = some m → Gives (.malformedMessage k) s fun t =>
          t.net = dropFirst (fun x => x == m) s.net ∧ t.mem = s.mem ∧ (∀ j i, t.thread j i = s.thread j i)
            ∧ (∀ p, s.exitPort m = some p → p.2 < 6 → (t.vote (neighbour p.1 p.2) (backDir p.2)).malf = (s.vote (neighbour p.1 p.2) (backDir p.2)).malf + 1)))

/-- Commands in their engines (R224, R225, R241, R243 to R245, R248, R345, R348): at ENGINE_COMMAND_BEGIN a command begins once nothing holds it back; one whose port has
left the state that it was issued for stops with STATUS 4, one whose port is still being set up waits. A copy that has begun then takes one step at each
ENGINE_COMMAND_BEGIN (log 112): it reads the source's next line, once, or in column order the next block of 1 KiB, or sends the destination's next line
to its home, to every cell of a CPYM's box, through the sill to bulk space or host memory, or to a port's peer; a fault, or an uncorrectable error in what
it reads, stops it at that address. At CPY_COMPLETE, CPYM_COMPLETE and COLL_COMPLETE a command all of whose writes are performed leaves the engine with
its element in the result FIFO and a decrement of 1 at device scope for its counter, a CPYM's at each cell whose own copy is performed; with the FIFO
full, or writes still on their way, it stays. At ENGINE_FAULT a command that a fault stopped leaves with its status in the element, is reported with
cause 0x27, its words and the failing address, and decrements nothing.

Collectives (R247): a participant sends its pieces to the root, the root writes its own into its destination. At MSG_CONTRIB a contribution of the root's
command is combined into its piece by the operation, element by element, once, and counted; one that comes before the command is held, and one that
finds the 16 holding places full is answered NACK BUSY. SUM wraps for int32 and int64, rounds each addition to nearest even for binary32, and is held
exactly and rounded once for bfloat16; MAX and MIN are signed, or follow FMAX and FMIN. A root that has combined all sends results, and at MSG_RESULT a
result is performed in the participant's destination. A write to a line that other cells share waits for them (R213). (Logs 10, 17 and 69 are the model's choices
of message details, of regions and of what a held contribution waits for.) -/
def Obligations.EngineCommandsRun : Prop :=
  (
    ∀ (s : State) (n k : Nat) (c : EngCmd), s.engCmd n k = some c →
      let now : State → EngCmd → Prop := fun t x => t.engCmd n k = some x ∧ t.mem = s.mem
      let others : State → Prop := fun t => ∀ j i, (t.thread j i).pc = (s.thread j i).pc ∧ ∀ fl r, (t.thread j i).reg fl r = (s.thread j i).reg fl r
      let wrote : State → Nat → List Byte → Prop := fun t pa bs =>
        (∀ j, j < bs.length → t.mem.get (pa + j) = bs.getD j 0) ∧ ∀ a, (a < pa ∨ pa + bs.length ≤ a) → t.mem.get a = s.mem.get a
      let alone : Nat → Prop := fun pa => s.mem.wf = true ∧ ∃ h o, homeOf pa = some (h, o) ∧ (s.cell h).mem.dir = []
      let red : State → BitVec 8 → Nat → Nat → List Byte → Prop := fun t kind dst j bs => ∃ m ∈ t.net, m.cls = 3 ∧ m.kind = kind ∧ m.src = n ∧ m.dst = dst
        ∧ m.opa = BitVec.ofNat 64 j ∧ m.opb = c.terms ∧ m.payload = flitWords bs
      let runs := (s.cell n).net.frozen = false ∧ c.held = false ∧ c.stopped = false
      let fresh := runs ∧ c.begun = false
      let clear := c.port = none ∨ ∃ p, c.port = some p ∧ (vget s.ports p).st = 2 ∧ (vget s.ports p).gen = c.gen
      let root := s.cmdRoot n c
      (c.begun = false → ¬runs → exec (.engineCommandBegin n k) s = .next s)
      ∧ (fresh → c.isColl = false → clear → Gives (.engineCommandBegin n k) s fun t => now t { c with begun := true })
      ∧ (fresh → ∀ p, c.port = some p → ((vget s.ports p).st = 1 ∨ (vget s.ports p).st = 3 ∨ (vget s.ports p).st = 4) → exec (.engineCommandBegin n k) s = .next s)
      ∧ (fresh → ∀ p, c.port = some p → ((vget s.ports p).st = 0 ∨ (vget s.ports p).st = 5 ∨ (vget s.ports p).st = 6
            ∨ ((vget s.ports p).st = 2 ∧ (vget s.ports p).gen ≠ c.gen)) → Gives (.engineCommandBegin n k) s fun t => now t { c with stopped := true, status := 4, fail := c.dst })
      ∧ (fresh → c.isColl = true → clear → root ≠ n → collMode c.w2 = 2 →
          Gives (.engineCommandBegin n k) s fun t => now t { c with begun := true, done := c.len, pos := 0, target := 0 })
      ∧ (fresh → c.isColl = true → clear → root ≠ n → collMode c.w2 < 2 → s.portsOpen → ∀ bs : Nat → List Byte,
          (∀ j, j < c.pieces → s.getPiece n c c.src j = .ok (bs j)) → Gives (.engineCommandBegin n k) s fun t => t.mem = s.mem
            ∧ (∃ x, t.engCmd n k = some x ∧ x.begun = true ∧ x.stopped = false ∧ x.done = c.len) ∧ ∀ j, j < c.pieces → red t 0 root j (bs j))
      ∧ (fresh → c.isColl = true → clear → root = n → ¬s.mayWrite n (cmdOwner k) (s.pieceLines n c (List.range c.pieces)) →
          Gives (.engineCommandBegin n k) s fun t => now t c)
      ∧ (fresh → c.isColl = true → clear → root = n → s.mayWrite n (cmdOwner k) (s.pieceLines n c (List.range c.pieces)) → c.pieces = 1 →
          ∀ bs pa, s.getPiece n c c.src 0 = .ok bs → s.pieceAt n c 0 = .ok [(pa, c.dst, 0, bs.length)] → alone pa →
          Gives (.engineCommandBegin n k) s fun t => wrote t pa bs
            ∧ ∃ x, t.engCmd n k = some x ∧ x.begun = true ∧ x.pos = 0 ∧ x.target = if collMode c.w2 < 2 then (s.cmdLine n c).length - 1 else 0)
      ∧ (let chunk := min (c.len - c.pos) ((if c.port.isSome then 2048 else 64) - (c.dst + BitVec.ofNat 64 c.pos).toNat % if c.port.isSome then 2048 else 64)
         let copying := runs ∧ c.begun = true ∧ c.isColl = false ∧ c.pos < c.len
         let reads := copying ∧ c.buf.length < chunk ∧ c.rpos < c.len
         let writes := copying ∧ chunk ≤ c.buf.length
         let rva := c.src + BitVec.ofNat 64 c.rpos
         let wva := c.dst + BitVec.ofNat 64 c.pos
         let from_ := s.translate n c.ctx .load (spaceCopySrc (isChan n)) rva
         let lands := s.translate n c.ctx .store (if c.isBox then spaceBank else spaceCopyDst (isChan n)) wva
         let bs := c.buf.take chunk
         let stops : Fail → Prop := fun f => Gives (.engineCommandBegin n k) s fun t => now t { c with stopped := true, status := statusOf f.cause, fail := f.addr }
         let line : Msg → Nat → Nat → Prop := fun m dst off => m.cls = 2 ∧ m.kind = 0 ∧ m.src = n ∧ m.dst = dst ∧ m.opa = BitVec.ofNat 64 off
           ∧ m.bytes = bs.length ∧ m.payload = flitWords bs
         let one : Nat → Nat → Prop := fun dst off => Gives (.engineCommandBegin n k) s fun t => Sends s t (fun m => line m dst off)
           ∧ now t { c with pos := c.pos + chunk, buf := c.buf.drop chunk, lines := c.lines ++ [(s.nextId, dst, bs.length)] }
         (runs → c.begun = true → c.isColl = true ∨ c.len ≤ c.pos → exec (.engineCommandBegin n k) s = .next s)
         ∧ (∀ pa, reads → cpyOrd c.w2 ≠ 1 → from_ = .ok pa → s.poisoned pa = false →
            let len := min (c.len - c.rpos) (64 - rva.toNat % 64)
            Gives (.engineCommandBegin n k) s fun t => now t { c with rpos := c.rpos + len, buf := c.buf ++ s.bytes pa len })
         ∧ (∀ pa, reads → cpyOrd c.w2 ≠ 1 → from_ = .ok pa → s.poisoned pa = true → stops { cause := 0x50, addr := rva })
         ∧ (∀ f, reads → cpyOrd c.w2 ≠ 1 → from_ = .error f → stops f)
         ∧ (∀ u b, reads → cpyOrd c.w2 = 1 → s.readLines n c.ctx (spaceCopySrc (isChan n)) rva 1024 16 = .ok (u, b) →
            Gives (.engineCommandBegin n k) s fun t => now t { c with rpos := c.rpos + 1024
                                                                      buf := c.buf ++ (List.range b.length).map fun i => b.getD (srcOffset 1 (cpyEsz c.w2) i) 0 })
         ∧ (∀ f, reads → cpyOrd c.w2 = 1 → s.readLines n c.ctx (spaceCopySrc (isChan n)) rva 1024 16 = .error f → stops f)
         ∧ (∀ f, writes → lands = .error f → stops f)
         ∧ (∀ pa h o, writes → s.portsOpen → lands = .ok pa → homeOf pa = some (h, o) → c.isBox = false → one h o)
         ∧ (∀ pa, writes → s.portsOpen → lands = .ok pa → spaceOf pa = .bulk ∨ spaceOf pa = .host → c.isBox = false → one coxNode pa)
         ∧ (∀ pa p, writes → s.portsOpen → lands = .ok pa → spaceOf pa = .port p → c.isBox = false → one (portNode p) (pa % 2 ^ 42))
         ∧ (∀ pa h o, writes → s.portsOpen → lands = .ok pa → homeOf pa = some (h, o) → c.isBox = true → Gives (.engineCommandBegin n k) s fun t => t.mem = s.mem
            ∧ (∀ x ∈ boxCells (s.boxHome n c) c.w2, ∃ m ∈ t.net, line m x o)
            ∧ ∃ x, t.engCmd n k = some x ∧ x.pos = c.pos + chunk ∧ x.buf = c.buf.drop chunk
                ∧ x.lines.length = c.lines.length + (boxCells (s.boxHome n c) c.w2).length))
      ∧ (let leaves : State → List (Nat × Nat) → Prop := fun t dec =>
           (t.cell n).mem.engines = (s.cell n).mem.engines.filter (fun x => decide (x.id ≠ k))
            ∧ (c.res = true → ∃ w, (t.cell n).mem.fifo c.isColl c.slot.toNat = (s.cell n).mem.fifo c.isColl c.slot.toNat ++ [w] ∧ w.getLsbD 63 = true
                ∧ w.extractLsb' 40 8 = c.status ∧ (w.extractLsb' 32 8).toNat = c.tag ∧ (w.extractLsb' 0 32).toNat = c.done % 2 ^ 32)
            ∧ (c.res = false → (t.cell n).mem.fifo c.isColl c.slot.toNat = (s.cell n).mem.fifo c.isColl c.slot.toNat)
            ∧ (∀ h o, (h, o) ∈ dec → ∃ x ∈ (t.cell n).mem.fwd, x.msg.kind = 4 ∧ x.msg.dst = h ∧ x.msg.opa = BitVec.ofNat 64 o ∧ x.msg.opb = 1
                ∧ x.msg.scope = 4 ∧ x.st = .queued) ∧ others t
         let room := c.res = true → ((s.cell n).mem.fifo c.isColl c.slot.toNat).length < 64
         let fits : List (Nat × Nat) → Prop := fun d => room ∧ (s.cell n).mem.fwdUsed + d.length ≤ fwdPlaces n
         let left : Except Fail (List (Nat × Nat)) := if c.closing then .ok c.todo else s.cmdCounters n c
         let copied := c.begun = true ∧ c.stopped = false ∧ c.isColl = false ∧ c.len ≤ c.pos
         let quiet := (s.cell n).mem.held = []
         (∀ d, copied → c.isBox = false → c.lines = [] → left = .ok d → fits d → Gives (.cpyComplete n k) s fun t => leaves t d)
          ∧ (∀ d, copied → c.isBox = true → c.lines = [] → left = .ok d → fits d → Gives (.cpymComplete n k) s fun t => leaves t d)
          ∧ (∀ d, copied → c.isBox = true → c.lines ≠ [] → left = .ok d → fits d → Gives (.cpymComplete n k) s fun t => now t { c with
                closing := true, todo := d.filter fun p => c.lines.any fun l => decide (l.2.1 = p.1) }
              ∧ ∀ p ∈ d, (∀ l ∈ c.lines, l.2.1 ≠ p.1) → ∃ x ∈ (t.cell n).mem.fwd, x.msg.kind = 4 ∧ x.msg.dst = p.1 ∧ x.msg.opa = BitVec.ofNat 64 p.2 ∧ x.msg.opb = 1)
          ∧ (∀ f, copied → room → c.lines = [] → left = .error f →
              let goes : State → Prop := fun t => now t { c with stopped := true, status := statusOf f.cause, fail := f.addr }
              (c.isBox = false → Gives (.cpyComplete n k) s goes) ∧ (c.isBox = true → Gives (.cpymComplete n k) s goes))
          ∧ (copied → c.isBox = false → c.lines ≠ [] ∨ ¬room → exec (.cpyComplete n k) s = .next s)
          ∧ (copied → c.isBox = true → ¬room → exec (.cpymComplete n k) s = .next s)
          ∧ (c.begun = false ∨ c.pos < c.len → exec (.cpyComplete n k) s = .next s ∧ exec (.cpymComplete n k) s = .next s)
          ∧ (let done := c.isColl = true ∧ c.begun = true ∧ c.stopped = false ∧ c.lines = []
             (∀ d, quiet → done → root ≠ n → collMode c.w2 = 0 ∨ c.pieces ≤ c.pos → left = .ok d → fits d → Gives (.collComplete n k) s fun t => leaves t d)
             ∧ (∀ d, quiet → done → root = n → c.sent = true → left = .ok d → fits d → Gives (.collComplete n k) s fun t => leaves t d)
             ∧ (∀ d, quiet → done → root = n → c.sent = false → c.target ≤ c.pos → c.exact = false → collMode c.w2 = 0 → left = .ok d → fits d →
                Gives (.collComplete n k) s fun t => leaves t d ∧ t.mem = s.mem)
             ∧ (quiet → done → root = n → c.sent = false → c.pos < c.target → exec (.collComplete n k) s = .next s)
             ∧ (∀ bs : Nat → List Byte, quiet → done → root = n → c.sent = false → c.target ≤ c.pos → c.exact = false → collMode c.w2 ≠ 0 → s.portsOpen →
                (∀ j, j < c.pieces → s.getPiece n c c.dst j = .ok (bs j)) → Gives (.collComplete n k) s fun t => t.mem = s.mem
                  ∧ ∀ h ∈ s.cmdLine n c, h ≠ n → ∀ j, j < c.pieces → red t 1 h j (bs j))
             ∧ (∀ pa, quiet → done → root = n → c.sent = false → c.target ≤ c.pos → c.exact = true → collMode c.w2 = 0 → c.pieces = 1 →
                s.mayWrite n (cmdOwner k) (s.pieceLines n c [0]) → s.pieceAt n c 0 = .ok [(pa, c.dst, 0, (c.rounded 0).length)] → alone pa →
                Gives (.collComplete n k) s fun t => wrote t pa (c.rounded 0)))
          ∧ (quiet → c.stopped = true → c.isColl = true ∨ c.lines = [] → room → Gives (.engineFault n k) s fun t => leaves t []
              ∧ (t.cell n).err.seq = (s.cell n).err.seq + 1
              ∧ (s.launchOf c.launch = none → ∃ p : List Word, t.mem = (s.toHost p).mem ∧ t.cox = (s.toHost p).cox ∧ (p.getD 0 0).toNat % 256 = 0x27
                  ∧ p.getD 2 0 = c.fail ∧ p.getD 4 0 = c.w2 ++ c.w1))
          ∧ (quiet → c.stopped = true → (c.isColl = false ∧ c.lines ≠ []) ∨ ¬room → Gives (.engineFault n k) s fun t => now t c)
          ∧ (c.stopped = false → exec (.engineFault n k) s = .next s)))
  ∧ (
    ∀ (s u : State) (k : Nat) (m : Msg),
      let n := m.dst
      let j := m.opa.toNat
      let on : Nat → Prop := fun kind => s.arrived k 3 kind = some (m, u) ∧ u.turnedAway m = none
      let acked : State → Prop := fun t => Sends u t fun a => a.cls = 1 ∧ a.kind = 1 ∧ a.id = m.id ∧ a.src = n ∧ a.dst = m.src
      let wrote : State → Nat → List Byte → Prop := fun t pa bs =>
        (∀ i, i < bs.length → t.mem.get (pa + i) = bs.getD i 0) ∧ ∀ a, (a < pa ∨ pa + bs.length ≤ a) → t.mem.get a = s.mem.get a
      let alone : Nat → Prop := fun pa => s.mem.wf = true ∧ ∃ h o, homeOf pa = some (h, o) ∧ (s.cell h).mem.dir = []
      let mine : EngCmd → Prop := fun c => u.engCmd n c.id = some c ∧ j < c.pieces ∧ s.portsOpen
      let free : EngCmd → Prop := fun c => u.mayWrite n (msgOwner m.id) (u.pieceLines n c [j])
      let waiting := ((s.cell n).mem.held.filter fun h => h.msg.kind = 0).length
      (on 0 → u.rootFor m = none → waiting < 16 → Gives (.msgContrib k) s fun t => (t.cell n).mem.held = (s.cell n).mem.held ++ [{ msg := m }] ∧ t.net = u.net ∧ t.mem = s.mem)
      ∧ (s.portsOpen → on 0 → u.rootFor m = none → 16 ≤ waiting → Gives (.msgContrib k) s fun t => (t.cell n).mem.held = (s.cell n).mem.held ∧ t.mem = s.mem
          ∧ Sends u t fun a => a.cls = 1 ∧ a.kind = 3 ∧ a.aux = 0 ∧ a.id = m.id ∧ a.src = n ∧ a.dst = m.src)
      ∧ (∀ c, u.rootFor m = some c → c ∈ (s.cell n).mem.engines ∧ c.isColl = true ∧ c.begun = true ∧ c.stopped = false ∧ c.sent = false ∧ c.ctx = m.ctx
          ∧ c.tag = m.opb.toNat / 2 ^ 49 % 2 ^ 8 ∧ s.cmdRoot n c = n ∧ m.src ∈ s.cmdLine n c ∧ c.got.count m.src < c.pieces)
      ∧ (∀ c old pa, on 0 → u.rootFor m = some c → mine c → free c → m.opb = c.terms → c.exact = false → u.getPiece n c c.dst j = .ok old →
          let sz := collSize (collType c.w2)
          let new := bytesOfElems sz (((elemsOf sz old).zip (elemsOf sz ((wordBytes m.payload).take (c.pieceLen j)))).map fun p =>
            collComb (collOp c.w2) (collType c.w2) p.1 p.2)
          u.pieceAt n c j = .ok [(pa, c.dst + BitVec.ofNat 64 (64 * j), 0, new.length)] → alone pa → Gives (.msgContrib k) s fun t => wrote t pa new ∧ acked t
            ∧ ∃ x, t.engCmd n c.id = some x ∧ x.pos = c.pos + 1 ∧ x.got = m.src :: c.got)
      ∧ (∀ c, on 0 → u.rootFor m = some c → mine c → m.opb = c.terms → c.exact = true → Gives (.msgContrib k) s fun t => t.mem = s.mem ∧ acked t
          ∧ ∃ x, t.engCmd n c.id = some x ∧ x.pos = c.pos + 1 ∧ x.got = m.src :: c.got ∧ x.acc = c.addExact m)
      ∧ (∀ c, on 0 → u.rootFor m = some c → mine c → ¬free c → (m.opb = c.terms → c.exact = false) → Gives (.msgContrib k) s fun t => t.mem = s.mem
          ∧ (t.cell n).mem.held = (s.cell n).mem.held ++ [{ msg := m }] ∧ t.engCmd n c.id = some c)
      ∧ (on 1 → u.partFor m = none → Gives (.msgResult k) s fun t => (t.cell n).mem.held = (s.cell n).mem.held ++ [{ msg := m }] ∧ t.net = u.net ∧ t.mem = s.mem)
      ∧ (∀ c, u.partFor m = some c → c ∈ (s.cell n).mem.engines ∧ c.isColl = true ∧ c.begun = true ∧ c.stopped = false ∧ c.ctx = m.ctx
          ∧ c.tag = m.opb.toNat / 2 ^ 49 % 2 ^ 8 ∧ s.cmdRoot n c = m.src ∧ c.pos < c.pieces)
      ∧ (∀ c pa, on 1 → u.partFor m = some c → mine c → free c → m.opb = c.terms →
          let bs := (wordBytes m.payload).take (c.pieceLen j)
          u.pieceAt n c j = .ok [(pa, c.dst + BitVec.ofNat 64 (64 * j), 0, bs.length)] → alone pa → Gives (.msgResult k) s fun t => wrote t pa bs ∧ acked t
            ∧ ∃ x, t.engCmd n c.id = some x ∧ x.pos = c.pos + 1)
      ∧ (∀ r who, s.portsOpen → u.turnedAway m = some (r, who) →
          let no : State → Prop := fun t => t.mem = s.mem ∧ Sends u t fun a => a.cls = 1 ∧ a.kind = 3 ∧ a.aux = BitVec.ofNat 6 r ∧ a.src = who ∧ a.dst = m.src
          (s.arrived k 3 0 = some (m, u) → Gives (.msgContrib k) s no) ∧ (s.arrived k 3 1 = some (m, u) → Gives (.msgResult k) s no)))
  ∧ (
    (∀ (ty N a b : Nat), (ty = 2 ∧ N = 32) ∨ (ty = 3 ∧ N = 64) → a < 2 ^ N → b < 2 ^ N →
      let g : Nat → Int := fun v => (BitVec.ofNat N v).toInt
      collComb 0 ty a b = (a + b) % 2 ^ N ∧ (BitVec.ofNat N (collComb 1 ty a b)).toInt = max (g a) (g b)
        ∧ (BitVec.ofNat N (collComb 2 ty a b)).toInt = min (g a) (g b))
    ∧ (∀ (ty a b : Nat) (F : Fmt), (ty = 0 ∧ F = binary32) ∨ (ty = 1 ∧ F = bfloat16) →
        let x := F.value true false a
        let y := F.value true false b
        let is : Nat → Val → Prop := fun op v => collComb op ty a b = (F.deliver false 0 0 v).bits
        let below := cmpVal x y < 0 ∨ (cmpVal x y = 0 ∧ x.neg? = true ∧ y.neg? = false)
        let above := 0 < cmpVal x y ∨ (cmpVal x y = 0 ∧ x.neg? = false ∧ y.neg? = true)
        (x.isNan = true → y.isNan = true → collComb 1 ty a b = F.nan ∧ collComb 2 ty a b = F.nan)
          ∧ (x.isNan = true → y.isNan = false → is 1 y ∧ is 2 y) ∧ (x.isNan = false → y.isNan = true → is 1 x ∧ is 2 x)
          ∧ (x.isNan = false → y.isNan = false → (below → is 1 y ∧ is 2 x) ∧ (above → is 1 x ∧ is 2 y)))
    ∧ (∀ a b : Nat, collComb 0 0 a b = (binary32.deliver true 0 0 (opAdd 0 (binary32.value true true a) (binary32.value true true b)).v).bits)
    ∧ (∀ x : Ex, x.st = false → x.m ≠ 0 → openSum (packSum (.num x)) = .num x)
    ∧ (∀ sg : Bool, openSum (packSum (.num { neg := sg })) = .num { neg := sg } ∧ openSum (packSum (.inf sg)) = .inf sg ∧ openSum (packSum (.nan sg)) = .nan false)
    ∧ (∀ (c : EngCmd) (j : Nat), c.rounded j = ((c.acc.drop (32 * j)).take 32).flatMap fun p => natBytes 2 (bfloat16.deliver true 0 0 (openSum p)).bits)
    ∧ (∀ (esz e blk row col b : Nat), esz ≤ 2 → e = 2 ^ esz → row < 32 → col < 32 / e → b < e →
        srcOffset 1 esz (1024 * blk + e * (32 * col + row) + b) = 1024 * blk + 32 * row + e * col + b))

/-- Strokes and the crew vote (R383 to R388, R394): at STROKE_PERIOD a cell's fabric die sends its numbered stroke to each of its six neighbours, while its
transmitter works, and its router counts what was missing; a frozen cell only numbers them. At MSG_STROKE a stroke that comes at least 2,048 cycles after
the one before it, if there was one, numbered above LAST and with CF and CD 0, is good: it sets LAST and MISSED, and ends a judgement and the router's own
accusation where no limit of the period is exceeded (log 98); one that comes too early, a fifth one of a period, and one with CF or CD raise an
accusation, with codes 1 to 3. The boundary judges silence at MISSED 3, and more messages or malformed ones than FENCE_CTL allows, with codes 4 and 5; a judge
that holds its judgement resends its ACCUSE to the suspect's other neighbours, with its LAST. At MSG_ACCUSE the accuser's bit is set, the first of a round sets
ROUND to 8, and a quorum of max(3, L/2 + 1), L being at least 3, fences. At MSG_FENCE, and at a quorum, a TRUSTED or ACCUSING neighbour is FENCED: the port closes,
what it sent after LAST and has not passed the router is discarded, FENCE and FREEZE go out, and the router of the lowest direction tells the cox cores. At
MSG_FREEZE every thread of the cell that it was sent to freezes, and its fabric die injects MNT traffic alone. A vote message enters no router of the suspect.

Fenced cells and spares (R13, R15, R321, R388, R392 to R396): at MSG_FENCED the cox cores write STATE FENCED in all eight copies, and the physical cell is fenced; where
a migration was being switched in, the cell is written back to the source, NORMAL, and the target is fenced. At REMAP_TO_SPARE a free spare of its column, the
spare row's first, takes the coordinate, with NORMAL state and open ports, and one spare fewer is left, and TEST goes to the fenced cell under the limit
of its appeals; where none is free, or the crew is smaller than 3, the coordinate stays as it is, and the former is counted. At LPT_ENTRY_FENCED a SENT
entry to the fenced cell is treated as NACKed. After MSG_TEST, SELF_TEST_COMPLETE lets a cell that passes appeal to each live neighbour of its old place and
stroke on MNT for 16 periods; MSG_APPEAL puts the neighbour's closed port in APPEAL, where a stroke that is not good or a babbling judgement answers REFUSE and
16 periods with good strokes answer ADMIT; at MSG_ADMIT the cell is a free spare again once each of them has admitted it, and REOPEN goes out, at
MSG_REOPEN the port is TRUSTED; it stays out at MSG_REFUSE, at APPEAL_ANSWER_TIMEOUT, or when its test fails. (Logs 18, 84, 87 and 98 are the model's choices of
who sends for whom, of where a vote and an appeal stand, and of the first stroke.) -/
def Obligations.StrokesVotesAndAppeals : Prop :=
  (
    ∀ (s u : State) (k n d : Nat) (m : Msg), n < 2048 → d < 6 →
      let v := s.vote n d
      let sus := neighbour n d
      let live : Nat → Bool := fun j => decide (lptState (s.seenEntry n (neighbour sus j)) ≠ 2)
      let l := ((List.range 6).filter live).length
      let count : BitVec 6 → Nat := fun a => ((List.range 6).filter fun j => a.getLsbD j).length
      let own := 1#6 <<< backDir d
      let rate := s.misc.fenceCtl.toNat / 2 ^ 16 % 2 ^ 16
      let mal := s.misc.fenceCtl.toNat / 2 ^ 8 % 2 ^ 8
      let comes := s.arrived k 4 0x11 = some (m, u) ∧ m.dst = n ∧ dirOf n m.src = some d
      let early := v.lastAt ≠ 0 ∧ s.fab - v.lastAt < 2048
      let sick := m.opa.getLsbD 16 = true ∨ m.opa.getLsbD 17 = true
      let newer := 2 ^ 31 ≤ (v.last - m.stroke).toNat
      let counted : Vote := { v with seen := true, lastAt := s.fab, strokes := v.strokes + 1, depth := m.opb.toNat % 512 }
      let accused : BitVec 4 → State → Prop := fun code t => (t.vote n d).judge = code ∧ (t.vote n d).acc &&& own ≠ 0 ∧ 1 ≤ (t.vote n d).st.toNat
      let tells : State → Nat → Nat → (Msg → Prop) → Prop := fun t kind dst p => ∃ a ∈ t.net, a.kind = BitVec.ofNat 8 kind ∧ a.src = n ∧ a.dst = dst ∧ p a
      let fenced : State → Prop := fun t => (t.vote n d).st = 2 ∧ (t.vote n d).closed = true ∧ t.mem = s.mem ∧ (∀ j i, t.thread j i = s.thread j i)
        ∧ (tells t 0x27 sus fun a => a.cls = 5 ∧ a.opa = BitVec.ofNat 64 sus)
        ∧ (∀ j, j < 6 → j ≠ backDir d → live j = true → tells t 0x13 (neighbour sus j) fun a => a.cls = 4 ∧ a.opa = BitVec.ofNat 64 sus)
        ∧ ((∀ j, j < backDir d → live j = false) → tells t 0x21 coxNode fun a => a.cls = 5 ∧ a.opa = BitVec.ofNat 64 sus)
        ∧ (∀ x ∈ t.net, x.src = sus → x.cls ≠ 5 → u.entryPort x = some (n, d) → (v.last - x.stroke).toNat < 2 ^ 31)
        ∧ ∀ x ∈ u.net, (v.last - x.stroke).toNat < 2 ^ 31 → x ∈ t.net
      (s.portsOpen → Gives (.strokePeriod n) s fun t => (t.cell n).net.stroke = (s.cell n).net.stroke + 1 ∧ (t.cell n).net.cf = false
        ∧ ((s.cell n).net.mute = false → ∀ j, j < 6 → tells t 0x11 (neighbour n j) fun a => a.cls = 4 ∧ a.stroke = (s.cell n).net.stroke
            ∧ a.opa.toNat = (s.cell n).err.chkm.toNat + (if (s.cell n).net.cf then 2 ^ 16 else 0) + (if (s.cell n).net.cd then 2 ^ 17 else 0)
            ∧ a.opb = BitVec.ofNat 64 (s.cell n).sched.depth)
        ∧ (v.st.toNat < 2 → lptState (s.seenEntry n sus) ≠ 2 →
            let missed := if v.seen then v.missed.toNat else min 3 (v.missed.toNat + 1)
            let judge : BitVec 4 := if v.judge ≠ 0 then v.judge else if missed = 3 then 1 else if rate < v.msgs then 5 else if mal < v.malf then 6 else 0
            let closes := v.round = 1 ∧ (l < 3 ∨ count v.acc < max 3 (l / 2 + 1))
            let w := t.vote n d
            w.missed.toNat = missed ∧ w.judge = judge ∧ w.seen = false ∧ w.strokes = 0 ∧ w.malf = 0 ∧ w.last = v.last
            ∧ (judge = 0 → w.round.toNat = v.round.toNat - 1 ∧ w.acc = (if closes then 0 else v.acc) ∧ w.st = v.st ∧ w.closed = v.closed)
            ∧ (judge ≠ 0 → accused judge t ∧ ∀ j, j < 6 → j ≠ backDir d → tells t 0x12 (neighbour sus j) fun a => a.cls = 4 ∧ a.stroke = v.last
                ∧ a.opa.toNat = sus + backDir d * 2 ^ 11 + (judge.toNat - 1) * 2 ^ 14)
            ∧ (judge ≠ 0 → l < 3 → (w.st.toNat = 1 ∧ ((if closes then 0 else v.acc) &&& own = 0 → tells t 0x21 coxNode fun a => a.cls = 5)))))
      ∧ ((s.cell n).net.frozen = true → Gives (.strokePeriod n) s fun t => (t.cell n).net.stroke = (s.cell n).net.stroke + 1 ∧ t.net = s.net ∧ t.mem = s.mem)
      ∧ (comes → v.st.toNat < 2 → ¬early → ¬sick → newer → v.strokes < 4 → v.msgs ≤ rate → v.malf ≤ mal → Gives (.msgStroke k) s fun t =>
          t.vote n d = { counted with last := m.stroke, missed := 0, judge := 0, acc := v.acc &&& ~~~own, st := 0 } ∧ t.net = u.net ∧ t.mem = s.mem)
      ∧ (comes → v.st.toNat < 2 → ¬early → ¬sick → newer → v.strokes < 4 → rate < v.msgs ∨ mal < v.malf → Gives (.msgStroke k) s fun t =>
          (t.vote n d).last = m.stroke ∧ (t.vote n d).missed = 0 ∧ (t.vote n d).judge = v.judge ∧ v.st.toNat ≤ (t.vote n d).st.toNat
            ∧ (v.acc &&& own ≠ 0 → (t.vote n d).acc &&& own ≠ 0))
      ∧ (comes → v.st.toNat < 2 → ¬early → ¬sick → ¬newer → v.strokes < 4 → v.judge = 0 → Gives (.msgStroke k) s fun t =>
          t.vote n d = counted ∧ t.net = u.net ∧ t.mem = s.mem)
      ∧ (comes → v.st.toNat < 2 → early → Gives (.msgStroke k) s fun t => accused 2 t ∧ (t.vote n d).last = v.last)
      ∧ (comes → v.st.toNat < 2 → ¬early → 4 ≤ v.strokes → Gives (.msgStroke k) s (accused 3))
      ∧ (comes → v.st.toNat < 2 → ¬early → v.strokes < 4 → sick → Gives (.msgStroke k) s fun t => accused 4 t ∧ (t.vote n d).last = v.last)
      ∧ (comes → 2 ≤ v.st.toNat → exec (.msgStroke k) s = .next u)
      ∧ (s.arrived k 4 0x12 = some (m, u) → m.dst = n → dirOf n (m.opa.toNat % 2 ^ 11) = some d → v.st.toNat < 2 →
          let j := m.opa.toNat / 2 ^ 11 % 8
          let acc := v.acc ||| 1#6 <<< j
          let enough := 3 ≤ l ∧ max 3 (l / 2 + 1) ≤ count acc
          (j < 6 → Gives (.msgAccuse k) s fun t => (t.vote n d).acc = acc ∧ (t.vote n d).round = (if v.acc = 0 then 8 else v.round)
            ∧ t.mem = s.mem ∧ (∀ j i, t.thread j i = s.thread j i) ∧ (¬enough → (t.vote n d).st = v.st ∧ t.net = u.net) ∧ (enough → s.portsOpen → fenced t))
          ∧ (6 ≤ j → exec (.msgAccuse k) s = .next u))
      ∧ ((s.arrived k 4 0x13 = some (m, u) ∨ (s.arrived k 4 0x13 = none ∧ s.arrived k 5 0x13 = some (m, u))) → m.dst = n →
          dirOf n (m.opa.toNat % 2 ^ 11) = some d →
          (v.st.toNat < 2 → s.portsOpen → Gives (.msgFence k) s fenced) ∧ (2 ≤ v.st.toNat → exec (.msgFence k) s = .next u))
      ∧ (s.arrived k 5 0x27 = some (m, u) → m.dst = n → m.phys = s.physOf n → (∀ g, (s.cell n).power.mig = some g → g.phase ≠ 4) → Gives (.msgFreeze k) s fun t =>
          (t.cell n).net.frozen = true ∧ (∀ j, (t.thread n j).run.st ≠ .running) ∧ (∀ i j, i ≠ n → t.thread i j = s.thread i j) ∧ t.mem = s.mem ∧ t.net = u.net)
      ∧ (s.arrived k 5 0x27 = some (m, u) → m.phys ≠ s.physOf m.dst ∨ (∃ g, (s.cell m.dst).power.mig = some g ∧ g.phase = 4) → exec (.msgFreeze k) s = .next u)
      ∧ (m.cls ≠ 5 → (s.cell n).net.frozen = true → m.src = n → (s.emit m).net = s.net)
      ∧ (m.cls ≠ 5 → (∃ p, s.entryPort m = some p ∧ (s.vote p.1 p.2).closed = true) → (s.emit m).net = s.net)
      ∧ (∀ a b p, s.pathAround sus a b = some p → ∀ h ∈ p, neighbour h.1 h.2 ≠ sus))
  ∧ (
    ∀ (s u : State) (k lid p q : Nat) (m : Msg), lid < 2048 →
      let fencedAll : State → Prop := fun t => ∀ d, d < 8 → lptState (t.lptEntry d lid) = 2
      let e := s.physEnt p
      let old := s.physOf lid
      let tells : State → BitVec 8 → Nat → Nat → (Msg → Prop) → Prop := fun t kind src dst f => ∃ a ∈ t.net, a.cls = 5 ∧ a.kind = kind ∧ a.src = src ∧ a.dst = dst ∧ f a
      let any : Msg → Prop := fun _ => True
      let crew := s.liveCrew lid
      (s.arrived k 5 0x21 = some (m, u) → m.opa.toNat % 2 ^ 11 = lid → lptState (s.lptEntry 0 lid) ≠ 2 → (∀ g, (s.cell lid).power.mig = some g → g.phase ≠ 4) →
        Gives (.msgFenced k) s fun t => fencedAll t ∧ (t.physEnt old).fenced = true ∧ (t.cell lid).power.mig = none ∧ t.mem = s.mem
          ∧ ∀ i, i < 2048 → i ≠ lid → ∀ d, d < 8 → t.lptEntry d i = s.lptEntry d i)
      ∧ (∀ g, s.arrived k 5 0x21 = some (m, u) → m.opa.toNat % 2 ^ 11 = lid → lptState (s.lptEntry 0 lid) ≠ 2 → (s.cell lid).power.mig = some g → g.phase = 4 →
          g.source < 2176 → Gives (.msgFenced k) s fun t => (∀ d, d < 8 → lptState (t.lptEntry d lid) = 0) ∧ t.physOf lid = g.source
            ∧ (t.physEnt g.target).fenced = true ∧ (t.cell lid).power.mig = none ∧ t.mem = s.mem)
      ∧ (s.arrived k 5 0x21 = some (m, u) → m.opa.toNat % 2 ^ 11 = lid → lptState (s.lptEntry 0 lid) = 2 → exec (.msgFenced k) s = .next u)
      ∧ (lptState (s.lptEntry 0 lid) = 2 → (s.physEnt old).unmapped = false → 3 ≤ crew.length → s.spareFor lid = some q → q < 2176 →
          Gives (.remapToSpare lid) s fun t => t.physOf lid = q ∧ (∀ d, d < 8 → lptState (t.lptEntry d lid) = 0) ∧ t.misc.spares = s.misc.spares - 1
            ∧ (∀ j, (t.thread lid j).run.st = .free ∨ (t.thread lid j).run.st = .parked) ∧ (∀ d, d < 6 → (t.vote (neighbour lid d) (backDir d)).closed = false)
            ∧ (∀ d, d < 6 → ∃ a, (t.physEnt old).port (neighbour lid d) = some a ∧ a.vote.st = 2 ∧ a.vote.closed = true)
            ∧ ((s.physEnt old).appeals < s.misc.fenceCtl.toNat % 16 → tells t 0x22 coxNode (8192 + old) any))
      ∧ (s.spareFor lid = some q → q % 16 = old % 16 ∧ q / 272 = old / 272 ∧ (s.physEnt q).fenced = false ∧ (s.physEnt q).oldLid ≠ some lid
          ∧ (∀ y, y < 16 → s.physOf (cellId (xOf lid) y (zOf lid)) ≠ q) ∧ q ∉ s.reserved)
      ∧ (let row := physIndex (old % 16) 16 (old / 272)
         (s.physEnt row).fenced = false → (s.physEnt row).oldLid ≠ some lid → row ∉ s.reserved → (∀ y, y < 16 → s.physOf (cellId (xOf lid) y (zOf lid)) ≠ row) →
          s.spareFor lid = some row)
      ∧ (lptState (s.lptEntry 0 lid) = 2 → (s.physEnt old).unmapped = false → s.spareFor lid = none ∨ crew.length < 3 →
          Gives (.remapToSpare lid) s fun t => (t.physEnt old).unmapped = true ∧ t.misc.spares = s.misc.spares ∧ t.lpt = s.lpt ∧ t.mem = s.mem
            ∧ t.misc.unmapped.toNat = (if crew.length < 3 then s.misc.unmapped.toNat else min 255 (s.misc.unmapped.toNat + 1))
            ∧ (∀ n ∈ crew, tells t 0x13 coxNode n fun a => a.opa = BitVec.ofNat 64 lid) ∧ tells t 0x27 coxNode lid any)
      ∧ (lptState (s.lptEntry 0 lid) ≠ 2 → exec (.remapToSpare lid) s = .next s)
      ∧ (∀ deck n x, n < 2048 → s.dieOf n = deck → lptState (s.lptEntry deck lid) = 2 → (s.cells.map Prod.fst).Nodup → n ∈ s.cells.map Prod.fst →
          ((s.cell n).mem.fwd.map fun y => y.msg.id).Nodup → (∀ y ∈ (s.cell n).mem.fwd, y.msg.id < s.nextId) → x ∈ (s.cell n).mem.fwd → x.msg.dst = lid →
          x.st = .sent → x.nacks < 15 → x.msg.cls ≠ 4 → x.msg.cls ≠ 5 →
          Gives (.lptEntryFenced deck lid) s fun t => { x with nacks := x.nacks + 1, st := .wait (s.fab + 256 * 2 ^ min x.nacks 10) } ∈ (t.cell n).mem.fwd)
      ∧ (∀ deck, lptState (s.lptEntry deck lid) ≠ 2 → exec (.lptEntryFenced deck lid) s = .next s)
      ∧ (s.arrived k 5 0x22 = some (m, u) → m.dst = 8192 + p → Gives (.msgTest k) s fun t => (t.physEnt p).testing = true ∧ t.mem = s.mem)
      ∧ (e.testing = true → e.oldLid = some lid → ∀ sig, Gives (.selfTestComplete p true sig) s fun t =>
          let f := t.physEnt p
          f.testing = false ∧ f.appealing = true ∧ f.admits = [] ∧ f.asked = crew ∧ f.left = 16 ∧ t.mem = s.mem
            ∧ ∀ n ∈ crew, tells t 0x23 (8192 + p) n fun a => a.opa = sig.setWidth 64)
      ∧ (e.testing = true → ∀ sig, Gives (.selfTestComplete p false sig) s fun t => (t.physEnt p).dead = true ∧ (t.physEnt p).testing = false ∧ t.net = s.net ∧ t.mem = s.mem)
      ∧ (e.testing = false → ∀ ok sig, exec (.selfTestComplete p ok sig) s = .next s)
      ∧ (Gives (.strokePeriod (8192 + p)) s fun t => (t.physEnt p).stroke = e.stroke + 1 ∧ (t.physEnt p).left = e.left - 1 ∧ t.mem = s.mem
          ∧ (e.left = 0 → t.net = s.net) ∧ (0 < e.left → ∀ n ∈ e.asked, tells t 0x11 (8192 + p) n fun a => a.stroke = e.stroke))
      ∧ (s.arrived k 5 0x23 = some (m, u) → m.src = 8192 + p →
          (∀ a, e.port m.dst = some a → a.vote.st = 2 → Gives (.msgAppeal k) s fun t => t.mem = s.mem ∧ t.net = u.net
            ∧ ∃ b, (t.physEnt p).port m.dst = some b ∧ b.vote.st = 3 ∧ b.good = 0 ∧ b.vote.closed = a.vote.closed ∧ b.vote.last = a.vote.last)
          ∧ (e.port m.dst = none → exec (.msgAppeal k) s = .next u))
      ∧ (∀ a, s.arrived k 4 0x11 = none → s.arrived k 5 0x11 = some (m, u) → m.src = 8192 + p → e.port m.dst = some a → a.vote.st = 3 →
          let good := (a.vote.lastAt = 0 ∨ 2048 ≤ s.fab - a.vote.lastAt) ∧ m.opa.getLsbD 16 = false ∧ m.opa.getLsbD 17 = false
            ∧ 2 ^ 31 ≤ (a.vote.last - m.stroke).toNat
          let within := a.vote.strokes < 4 ∧ a.vote.msgs ≤ s.misc.fenceCtl.toNat / 2 ^ 16 % 2 ^ 16 ∧ a.vote.malf ≤ s.misc.fenceCtl.toNat / 2 ^ 8 % 2 ^ 8
          (good → within → Gives (.msgStroke k) s fun t => t.net = u.net ∧ ∃ b, (t.physEnt p).port m.dst = some b ∧ b.vote.st = 3 ∧ b.vote.last = m.stroke
            ∧ b.vote.seen = true ∧ b.good = a.good)
          ∧ (¬good ∨ 4 ≤ a.vote.strokes → Gives (.msgStroke k) s fun t => (∃ b, (t.physEnt p).port m.dst = some b ∧ b.vote.st = 2)
              ∧ tells t 0x25 m.dst coxNode fun x => x.opa = BitVec.ofNat 64 p))
      ∧ (∀ n a, n < 2048 → (s.cell n).net.frozen = false → (s.phys.map Prod.fst).Nodup → p ∈ s.phys.map Prod.fst → e.port n = some a → a.vote.st = 3 →
          a.vote.judge = 0 → a.vote.msgs ≤ s.misc.fenceCtl.toNat / 2 ^ 16 % 2 ^ 16 → a.vote.malf ≤ s.misc.fenceCtl.toNat / 2 ^ 8 % 2 ^ 8 →
          Gives (.strokePeriod n) s fun t => (∃ b, (t.physEnt p).port n = some b ∧ b.vote.st = 3 ∧ b.good = a.good + (if a.vote.seen then 1 else 0)
              ∧ b.vote.missed.toNat = (if a.vote.seen then a.vote.missed.toNat else min 3 (a.vote.missed.toNat + 1)))
            ∧ (a.vote.seen = true → a.good = 15 → tells t 0x24 n coxNode fun x => x.opa = BitVec.ofNat 64 p))
      ∧ (s.arrived k 5 0x24 = some (m, u) → m.opa.toNat = p → e.appealing = true → e.asked ≠ [] → (∀ x ∈ e.asked, s.liveCell x = true → x = m.src ∨ x ∈ e.admits) →
          Gives (.msgAdmit k) s fun t => (t.physEnt p).fenced = false ∧ (t.physEnt p).appealing = false ∧ (t.physEnt p).appeals = e.appeals + 1
            ∧ t.misc.spares.toNat = min 255 (s.misc.spares.toNat + 1) ∧ t.mem = s.mem ∧ ∀ n ∈ e.asked, tells t 0x26 coxNode n fun a => a.opa = BitVec.ofNat 64 p)
      ∧ (s.arrived k 5 0x24 = some (m, u) → m.opa.toNat = p → e.appealing = true → (∃ x ∈ e.asked, s.liveCell x = true ∧ x ≠ m.src ∧ x ∉ e.admits) →
          Gives (.msgAdmit k) s fun t => (t.physEnt p).admits = m.src :: e.admits ∧ (t.physEnt p).fenced = e.fenced ∧ t.misc.spares = s.misc.spares)
      ∧ (let out : State → Prop := fun t => (t.physEnt p).dead = true ∧ (t.physEnt p).appealing = false ∧ (t.physEnt p).fenced = e.fenced ∧ t.misc = s.misc ∧ t.mem = s.mem
         (s.arrived k 5 0x25 = some (m, u) → m.opa.toNat = p → e.appealing = true → Gives (.msgRefuse k) s out)
          ∧ (e.appealing = true → Gives (.appealAnswerTimeout p) s out) ∧ (e.appealing = false → exec (.appealAnswerTimeout p) s = .next s))
      ∧ (s.arrived k 5 0x26 = some (m, u) → m.opa.toNat = p →
          (∀ a, e.port m.dst = some a → a.vote.st = 3 → Gives (.msgReopen k) s fun t => t.mem = s.mem ∧ t.net = u.net
            ∧ ∃ b, (t.physEnt p).port m.dst = some b ∧ b.vote.st = 0 ∧ b.vote.acc = 0 ∧ b.vote.missed = 0 ∧ b.vote.closed = false ∧ b.vote.last = a.vote.last)
          ∧ (e.port m.dst = none → exec (.msgReopen k) s = .next u)))

/-- The command queue (R271, R282 to R286, R331): the command at HEAD completes with a record of its TAG, STATUS and index, and a signal on
vector 0. CMD_NOP completes with OK; CMD_ILLEGAL, for an entry that breaks the table of R283, with ILLEGAL; an entry that cannot be read
completes with READ_ERROR. CMD_LAUNCH completes with the status of its first failing check, or gives the context its slot in every node of
the region and stands as the newest launch. CMD_CTXSET_IN and CMD_CTXSET_DRAIN write the state of every slot that the context holds, and a
drain completes when all of them are OUT. CQ_TAIL_WRITE moves TAIL by no more than the queue's size.

LINKMAP (R344, R347, R348; which MINW is bad where no wavelength is lit is log 67, an unowned port at the end of LINKMAP log 113): CMD_LINKMAP
checks its records with BAD_RECORD and its ports with PROTECTION, then holds the commands that have not begun, and its ports are DRAINING.
LINKMAP_DRAIN_END waits while a flit waits, a frame is not acknowledged or a begun command runs, but for no more than 10 ms; then what runs
stops with STATUS 4, and the ports retune under a new GEN with the record's wavelengths and nothing parked. LINKMAP_RETUNE_END trains a port that has a
wavelength and an owner and takes any other DOWN. LINKMAP_TRAIN_END makes a port UP where the peer is the one that the record names, MISMATCH where
it is another, FAILED where training does not end.

Wavelengths and frames (R345, R349 to R351, R361; when the ends agree on a flit boundary is log 42, the form of a peer's messages log 114):
WAVELENGTH_PARK takes effect within WLIT and above MINW, at once in PARKED and at a later flit in the stripe, during a wake after it; AUTOMATIC_WAKE
ends parking where a rise of the queue above WTHRESH has called for it and no park waits for its flit; WAKE_COMPLETE widens the stripe. Flit
k leaves on the ((k - s) mod STRIPE)-th wavelength of the stripe under the next sequence number, and its frame is kept until the peer acknowledges
it. OPTICAL_FRAME: a frame whose CRC fails is discarded, the one that comes next is delivered, any other is not; the frames that it acknowledges
are dropped; a LINE that no owner's context translates is answered with its fault, and one that the home performs at once with ACK.

When a command is taken and which of two that could run runs first is the model's schedule (log 81). -/
def Obligations.CommandsAndPorts : Prop :=
  (
    ∀ (s : State), s.mem.wf = true →
      let c : Cmd := { bytes := s.bytes s.cox.headAddr 64 }
      let on : CmdKind → Prop := fun kind => s.cox.cqValid = true ∧ s.cox.cqHead ≠ s.cox.cqTail ∧ s.cox.pending = .none
        ∧ s.poisonedIn s.cox.headAddr 64 = false ∧ c.kind = kind
      let done : Nat → Nat → State → Prop := fun tag st t => t.cox.cqHead = s.cox.cqHead + 1 ∧ t.cox.msix = s.cox.msix ++ [0] ∧ t.cox.pending = .none
        ∧ t.bytes s.cox.recAddr 16 = natBytes 4 tag ++ natBytes 4 st ++ natBytes 4 s.cox.cqHead.toNat ++ [0, 0, 0, 0]
      let st_ : Nat → State → Prop := fun v t => ∀ n k, (n, k) ∈ s.hostsOf c.ctx → (t.cell n).sched.slotState k = v
      (on .nop → Gives .cmdNop s fun t => done c.tag 0 t ∧ t.cells = s.cells)
      ∧ (on .illegal → Gives .cmdIllegal s fun t => done c.tag 1 t ∧ t.cells = s.cells)
      ∧ (fieldAt c.bytes 1 1 ≠ 0 ∨ fieldAt c.bytes 3 1 ≠ 0 ∨ 3 < fieldAt c.bytes 0 1 → c.kind = .illegal)
      ∧ (s.cox.cqValid = true → s.cox.cqHead ≠ s.cox.cqTail → s.cox.pending = .none → s.poisonedIn s.cox.headAddr 64 = true →
          ∀ i ∈ [Instr.cmdNop, .cmdIllegal, .cmdLaunch, .cmdCtxsetIn, .cmdLinkmap], Gives i s fun t => (∃ tag, done tag 5 t) ∧ t.cells = s.cells)
      ∧ (s.cox.cqValid = false ∨ s.cox.cqHead = s.cox.cqTail → ∀ i ∈ [Instr.cmdNop, .cmdIllegal, .cmdLaunch, .cmdCtxsetIn, .cmdLinkmap], exec i s = .next s)
      ∧ (∀ e, on .launch → s.readLaunch c.arg = .error e → Gives .cmdLaunch s fun t => done c.tag e t ∧ t.cells = s.cells)
      ∧ (∀ r, on .launch → s.readLaunch c.arg = .ok r → ((s.ctxEnt c.ctx).v = false ∨ (s.ctxEnt c.ctx).busy = true ∨ r.region.within (s.ctxEnt c.ctx).allow = false) →
          Gives .cmdLaunch s fun t => done c.tag 4 t ∧ t.cells = s.cells)
      ∧ (∀ r, on .launch → s.readLaunch c.arg = .ok r → (s.ctxEnt c.ctx).v = true → (s.ctxEnt c.ctx).busy = false → r.region.within (s.ctxEnt c.ctx).allow = true →
          let nodes := r.region.cells ++ rowChans r.rows
          (s.chooseSlot c.ctx r nodes = none → Gives .cmdLaunch s fun t => done c.tag 3 t ∧ t.cells = s.cells)
          ∧ (∀ k u, s.chooseSlot c.ctx r nodes = some k → (nodes.foldl (fun s n => s.takeSlot c.ctx k n) s).writePieces r.pieces = (u, true) →
              Gives .cmdLaunch s fun t => done c.tag 0 t ∧ t.cox.launchSeq = s.cox.launchSeq + 1
                ∧ (∃ l, t.cox.launches = s.cox.launches ++ [l] ∧ l.seq = s.cox.launchSeq.toNat ∧ l.ctx = c.ctx ∧ l.region = r.region)
                ∧ ∀ n ∈ nodes, vget (t.cell n).sched.slotCtx k = some c.ctx))
      ∧ (on .ctxIn → Gives .cmdCtxsetIn s fun t => done c.tag 0 t ∧ st_ 0 t)
      ∧ (on .ctxDrain → s.hostsOf c.ctx ≠ [] → Gives .cmdCtxsetDrain s fun t => t.cox.pending = .drain c.tag c.ctx ∧ t.cox.cqHead = s.cox.cqHead ∧ st_ 1 t ∧ t.mem = s.mem)
      ∧ (∀ tag ctx, s.cox.pending = .drain tag ctx → s.allOut ctx = true → Gives .cmdCtxsetDrain s (done tag 0))
      ∧ (∀ tag ctx, s.cox.pending = .drain tag ctx → s.allOut ctx = false → exec .cmdCtxsetDrain s = .next s)
      ∧ (∀ v : Word, Gives (.cqTailWrite v) s fun t => t.mem = s.mem ∧ t.cells = s.cells ∧ t.cox.cqHead = s.cox.cqHead
          ∧ t.cox.cqTail = if (v.setWidth 32 - s.cox.cqHead).toNat ≤ 2 ^ (s.cox.cqBase.toNat % 32) then v.setWidth 32 else s.cox.cqTail))
  ∧ (
    ∀ (s : State) (n : Nat), n < 8 → s.mem.wf = true →
      let p := vget s.ports n
      let q : State → Port := fun t => vget t.ports n
      let c : Cmd := { bytes := s.bytes s.cox.headAddr 64 }
      let on := s.cox.cqValid = true ∧ s.cox.cqHead ≠ s.cox.cqTail ∧ s.cox.pending = .none ∧ s.poisonedIn s.cox.headAddr 64 = false ∧ c.kind = .linkmap
      let done : Nat → Nat → State → Prop := fun tag st t => t.cox.cqHead = s.cox.cqHead + 1 ∧ t.cox.msix = s.cox.msix ++ [0] ∧ t.cox.pending = .none
        ∧ t.bytes s.cox.recAddr 16 = natBytes 4 tag ++ natBytes 4 st ++ natBytes 4 s.cox.cqHead.toNat ++ [0, 0, 0, 0]
      let mask := fieldAt c.bytes 48 1
      let recs := fieldAt c.bytes 16 32
      let minw : Nat → Nat := fun r => if r / 2 ^ 24 % 8 = 0 then 8 else r / 2 ^ 24 % 8
      let wrong : Nat → Prop := fun r => r / 2 ^ 27 ≠ 0 ∨ r.testBit 15 = true ∨ (r / 2 ^ 16 % 256 ≠ 0 ∧ ones8 (BitVec.ofNat 8 (r / 2 ^ 16)) < minw r)
      let bad := mask = 0 ∨ zeroAt c.bytes 49 15 = false ∨ ∃ k, k < 8 ∧ mask.testBit k = true ∧ wrong (recs / 2 ^ (32 * k) % 2 ^ 32)
      let may := mask &&& ctxPorts (vget (s.ctxEnt c.ctx).words 0) = mask ∨ s.priv c.ctx = true
      let heads : Nat → EngCmd → Bool := fun mask x => x.port.any fun k => mask.testBit k
      let engines : State → (EngCmd → EngCmd) → Prop := fun t f => ∀ i, (t.cell i).mem.engines = (s.cell i).mem.engines.map f
      let four : EngCmd → Word → EngCmd := fun x va => if x.stopped then x else { x with stopped := true, status := 4, fail := va }
      (on → bad → Gives .cmdLinkmap s fun t => done c.tag 2 t ∧ t.ports = s.ports)
      ∧ (on → ¬bad → ¬may → Gives .cmdLinkmap s fun t => done c.tag 4 t ∧ t.ports = s.ports)
      ∧ (on → ¬bad → may → Gives .cmdLinkmap s fun t => t.cox.pending = .linkmap c.tag mask recs 1 ∧ t.cox.cqHead = s.cox.cqHead
          ∧ q t = (if mask.testBit n then { p with st := 3 } else p)
          ∧ engines t fun x => if heads mask x && !x.begun && !x.stopped then { x with held := true } else x)
      ∧ (∀ tag mask recs, s.cox.pending = .linkmap tag mask recs 1 →
          let busy := (∃ k, k < 8 ∧ mask.testBit k = true ∧ ((vget s.ports k).queue ≠ [] ∨ (vget s.ports k).unacked ≠ []))
            ∨ ∃ i ∈ s.cells, ∃ x ∈ i.2.mem.engines, x.begun = true ∧ x.stopped = false ∧ heads mask x = true
          (busy → exec (.linkmapDrainEnd false) s = .next s)
          ∧ ∀ late, (late = true ∨ ¬busy) → Gives (.linkmapDrainEnd late) s fun t => t.cox.pending = .linkmap tag mask recs 3 ∧ t.mem = s.mem
            ∧ (mask.testBit n = true → (q t).st = 4 ∧ (q t).gen = p.gen + 1 ∧ (q t).wlit = BitVec.ofNat 8 (recs / 2 ^ (32 * n + 16) % 256) ∧ (q t).parked = 0
                ∧ (q t).park = 0 ∧ (q t).lanes = 0 ∧ (q t).queue = [] ∧ (q t).unacked = [])
            ∧ (mask.testBit n = false → q t = p)
            ∧ engines t fun x => if heads mask x && x.begun then { four x (x.dst + BitVec.ofNat 64 x.pos) with lines := [] } else x)
      ∧ (∀ tag mask recs, s.cox.pending = .linkmap tag mask recs 3 → Gives .linkmapRetuneEnd s fun t =>
          let trains : Nat → Prop := fun k => (vget s.ports k).wlit ≠ 0 ∧ (s.portOwner k).isSome = true
          (mask.testBit n = true → trains n → q t = { p with st := 1 } ∧ t.cox.pending = .linkmap tag mask recs 4 ∧ t.cox.cqHead = s.cox.cqHead)
            ∧ (mask.testBit n = true → ¬trains n → q t = { p with st := 0 }) ∧ (mask.testBit n = false → q t = p)
            ∧ ((∀ k, k < 8 → mask.testBit k = true → ¬trains k) → done tag 0 t ∧ engines t fun x =>
                if heads mask x && !x.begun then four { x with held := false } x.dst else x))
      ∧ (∀ tag mask recs ok peer pp, s.cox.pending = .linkmap tag mask recs 4 → mask.testBit n = true → p.st = 1 → Gives (.linkmapTrainEnd n ok peer pp) s fun t =>
          let named := peer = BitVec.ofNat 12 (recs / 2 ^ (32 * n)) ∧ pp = BitVec.ofNat 3 (recs / 2 ^ (32 * n + 12))
          (ok = false → (q t).st = 6 ∧ (q t).lanes = 0) ∧ (ok = true → (q t).peer = peer ∧ (q t).peerPort = pp)
          ∧ (ok = true → named → (q t).st = 2 ∧ (q t).lanes = p.wlit) ∧ (ok = true → ¬named → (q t).st = 5 ∧ (q t).lanes = 0)
          ∧ ((∀ k, k < 8 → k ≠ n → mask.testBit k = true → (vget s.ports k).st ≠ 1) → done tag 0 t)
          ∧ ((∃ k, k < 8 ∧ k ≠ n ∧ mask.testBit k = true ∧ (vget s.ports k).st = 1) → t.cox = s.cox))
      ∧ (∀ v : BitVec 8, Gives (.wavelengthPark n v) s fun t =>
          let no := v &&& ~~~p.wlit ≠ 0 ∨ ones8 (p.wlit &&& ~~~v) < (if p.minw = 0 then 8 else p.minw.toNat)
          t.mem = s.mem ∧ t.cells = s.cells ∧ (no → q t = p) ∧ (¬no → p.wake = true → q t = { p with park := v, parkReq := some v })
            ∧ (¬no → p.wake = false → (q t).park = v ∧ (q t).parked = v ∧ (q t).wlit = p.wlit ∧ (q t).st = p.st ∧ (q t).lanes = p.lanes
                ∧ ((q t).wake = true ↔ p.parked &&& ~~~v ≠ 0) ∧ (v &&& ~~~p.parked = 0 → (q t).narrow = p.narrow)
                ∧ (v &&& ~~~p.parked ≠ 0 → p.narrow = none → ∃ due, s.fab ≤ due ∧ due ≤ s.fab + 400 ∧ (q t).narrow = some due)))
      ∧ (Gives (.automaticWake n) s fun t =>
          (p.call = true → p.narrow = none → p.parked ≠ 0 → p.wake = false → q t = { p with park := 0, parked := 0, wake := true, call := false })
            ∧ (p.call = true → p.narrow = none → p.parked = 0 ∨ p.wake = true → q t = { p with call := false })
            ∧ (p.call = false ∨ p.narrow ≠ none → q t = p))
      ∧ (∀ fs : List (List Word), p.call = false → ((p.push fs).call = true ↔
          p.wthresh.toNat < (p.queue ++ fs).length ∧ p.above = false ∧ p.autowake = true ∧ p.parked ≠ 0 ∧ p.wake = false))
      ∧ (Gives (.wakeComplete n) s fun t => (p.wake = false → q t = p)
          ∧ (p.wake = true → (q t).wake = (match p.parkReq with | some v => decide (p.parked &&& ~~~v ≠ 0) | none => false) ∧ (q t).parkReq = none
              ∧ (q t).parked = p.parkReq.getD p.parked ∧ (q t).flit0 = p.flitNo
              ∧ (p.narrow = none → (q t).lanes = p.wlit &&& ~~~p.parked)))
      ∧ (∀ k, (p.sendFrames k).queue = p.queue.drop k ∧ (p.sendFrames k).unacked = p.unacked ++ (p.queue.take k).zipIdx.map fun f =>
          let ls := (List.range 8).filter p.lanes.getLsbD
          { seq := p.txSeq + BitVec.ofNat 24 f.2, lane := BitVec.ofNat 8 (ls.getD (((p.flitNo + f.2 : Nat) - p.flit0 : Int) % ls.length).toNat 0), flit := f.1 })
      ∧ (∀ a b, p.st = 2 ∨ p.st = 3 → p.narrow = none → (p.drained a b).queue = p.queue.drop (ones8 p.lanes * (b * 5 / 16 - a * 5 / 16)))
      ∧ (∀ a b due, p.narrow = some due → due ≤ b → (p.drained a b).narrow = none ∧ (p.drained a b).lanes = p.lanes &&& ~~~p.parked)
      ∧ (∀ (seq ack : BitVec 24) (flit : List Word) (resend ok : Bool),
          let f := exec (.opticalFrame n { seq := seq, flit := flit, ack := ack, resend := resend } ok)
          let next := (p.st = 2 ∨ p.st = 3) ∧ seq = p.rxSeq ∧ flit ≠ []
          let flits := if next then p.rxFlits ++ [flit] else p.rxFlits
          let whole := flits ≠ [] ∧ headerFlits (flits.headD []) ≤ flits.length - 1
          let left := (p.heardTo ack resend).unacked
          let u : State := { s with ports := vset s.ports n { p with unacked := left, rxFlits := [], rxSeq := if next then p.rxSeq + 1 else p.rxSeq } }
          let m := Msg.ofHeader (flits.headD [])
          let bs := wordBytes (flits.drop 1).flatten
          let parts : Nat → Except Fail (List (Nat × Word × Nat × Nat)) := fun x =>
            let len := min m.opb.toNat bs.length
            u.partAddrs (portNode n) x (spaceCopySrc true) (lineParts m.opa 0 len (len / 64 + 2))
          let line := whole ∧ m.malformed = false ∧ m.cls = 2
          (ok = false → f s = .next s)
          ∧ (∀ k, p.unacked.head? = some k → (ack - k.seq).toNat ≤ p.unacked.length → resend = false → left = p.unacked.drop (ack - k.seq).toNat)
          ∧ (∀ k, p.unacked.head? = some k → (ack - k.seq).toNat ≤ p.unacked.length → resend = true →
              left.map LaneFrame.flit = (p.unacked.drop (ack - k.seq).toNat).map LaneFrame.flit
                ∧ left.map LaneFrame.seq = (p.unacked.drop (ack - k.seq).toNat).map LaneFrame.seq)
          ∧ (ok = true → ¬whole → f s = .next { u with ports := vset u.ports n { vget u.ports n with rxFlits := flits } })
          ∧ (ok = true → line → s.portOwner n = none → f s = .next { u with ports := vset u.ports n ((vget u.ports n).push [m.reply 3]) })
          ∧ (∀ x e, ok = true → line → s.portOwner n = some x → parts x = .error e →
              f s = .next { u with ports := vset u.ports n ((vget u.ports n).push [m.reply (if statusOf e.cause = 2 then 2 else 3)]) })
          ∧ (∀ x pa va l, ok = true → line → s.portOwner n = some x → parts x = .ok [(pa, va, 0, l)] → homeOf pa = none → l ≤ bs.length → 0 < l → 
              ∃ t, f s = .next t ∧ t.bytes pa l = bs.take l ∧ (∀ a, a < pa ∨ pa + l ≤ a → t.mem.get a = s.mem.get a)
                ∧ q t = (vget u.ports n).push [m.reply 0])
          ∧ (∀ y, ok = true → whole → m.malformed = false → m.cls = 1 → m.kind = 1 →
              (p.away.find? fun x => decide (x.src = m.dst) && decide (x.seq = m.seq)) = some y →
              ∃ t, f s = .next t ∧ t.mem = s.mem ∧ (q t).away.length + 1 = p.away.length)
          ∧ (ok = true → whole → m.malformed = true → f s = .next u)))

/-- The context table (R328 to R330, R344): CONTEXT_COMMIT changes nothing where the commit fails: a reserved bit, a teardown in progress, a PT_ROOT outside
bulk space, a port that another entry has, a slot in state IN or DRAIN at V = 0, or a slot held while anything but PT_ROOT changes. One with V = 1 puts all
eight words in place at once and takes a port that no context owns any more DOWN; one with V = 0 begins a teardown.

Teardown (R333, R348): CONTEXT_TEARDOWN first clears every node that holds a slot of the context: the slot is free, its grant 0, and every byte of the local memory in
the grant and of the slot's window reads zero and is not poisoned; tiles, decode tables and weight-buffer units of the grant are zero; arm entries,
ready and fired descriptors, result FIFOs and handlers of the slot are gone, and the threads' copies of SRS and the granary registers are as at reset. No translation of the context is left, and
its ports drain. Once they have drained, or 10 ms have passed, the entry reads V = 0, the context has no launch, and its ports are DOWN. (What else of the slot goes with a
teardown, and that a bad host TLBI removes nothing, are the model's choices in log 15.)

The removal of translations (R336, R339, R341, R342): HOST_TLBI removes exactly the translations that its word names, among them a page's whole CONTIG group. Walks (R338): TLB_MISS_RETRY queues
misses within their die's bounds; WALK_COMPLETE adds the walk's translation or none, and touches no memory (log 20). -/
def Obligations.ContextsAndTranslations : Prop :=
  ∀ (s : State) (c : Nat) (v : Word), c < 64 →
    let e := s.ctxEnt c
    let w0 := v &&& ~~~0x2000000000000000
    let ports := (vget e.words 0).toNat / 2 ^ 48 % 256
    (s.commitFails c v = true → exec (.contextCommit c v) s = .next s)
    ∧ (e.busy = true ∨ w0 &&& 0x1f00000000003fff ≠ 0 ∨ (v.getLsbD 63 = true ∧ spaceOf (entryAddr w0) ≠ .bulk)
        ∨ (∃ p ∈ s.ctxs, p.1 ≠ c ∧ p.2.v = true ∧ ctxPorts (vget p.2.words 0) &&& ctxPorts w0 ≠ 0)
        ∨ (v.getLsbD 63 = false ∧ ∃ p ∈ s.hostsOf c, (s.cell p.1).sched.slotState p.2 ≤ 1)
        ∨ (v.getLsbD 63 = true ∧ s.hostsOf c ≠ [] ∧ ((w0 ^^^ vget e.words 0) &&& ~~~0x0000ffffffffc000 ≠ 0
            ∨ ∃ k, 1 ≤ k ∧ k < 8 ∧ vget e.staged k ≠ vget e.words k)) → s.commitFails c v = true)
    ∧ (s.commitFails c v = false → v.getLsbD 63 = true → Gives (.contextCommit c v) s fun t =>
        (t.ctxEnt c).words = vset e.staged 0 w0 ∧ (t.ctxEnt c).staged = e.staged ∧ (∀ d, d ≠ c → t.ctxEnt d = s.ctxEnt d) ∧ t.cells = s.cells ∧ t.mem = s.mem
          ∧ ∀ k, k < 8 → (t.portOwner k = none → (vget t.ports k).st = 0) ∧ (t.portOwner k ≠ none → vget t.ports k = vget s.ports k))
    ∧ (s.commitFails c v = false → v.getLsbD 63 = false → Gives (.contextCommit c v) s fun t =>
        (t.ctxEnt c).busy = true ∧ vget (t.ctxEnt c).words 0 = vget e.words 0 ∧ t.cox.teardowns = s.cox.teardowns ++ [c] ∧ t.cells = s.cells ∧ t.mem = s.mem)
    ∧ (e.busy = true → e.drain = none → Gives (.contextTeardown c) s fun t =>
        (t.ctxEnt c).busy = true ∧ (t.ctxEnt c).drain = some s.fab ∧ (t.ctxEnt c).words = e.words
          ∧ (∀ n, n ∈ s.cells.map Prod.fst → t.slotOf n c = none ∨ ∃ j k, j ≠ k ∧ j < 4 ∧ k < 4
              ∧ vget (s.cell n).sched.slotCtx j = some c ∧ vget (s.cell n).sched.slotCtx k = some c)
          ∧ (∀ x ∈ t.tlb, x.die < 9 → x.ctx ≠ c) ∧ (∀ k, k < 8 → ports.testBit k = true → (vget t.ports k).st = 3)
          ∧ ∀ n k, (s.cells.map Prod.fst).Nodup → (n, k) ∈ s.hostsOf c → (n < 2048 ∨ grantLimit (s.grant n k) ≤ 0x40000) →
              (∀ p ∈ s.hostsOf c, p.1 ≠ n → ∀ j, j < 4 → ∀ x ∈ (vget (s.cell p.1).cores j).wuq, ∀ o len, x.sheaf = some (o, len) → o + 32 * max len 1 ≤ nodeLimit p.1) →
              let g := s.grant n k
              let sc := (t.cell n).sched
              let wd := (t.cell n).wide
              let cleared : Nat → Nat → Prop := fun lo hi => (∀ o, lo ≤ o → o < hi → t.mem.get (nodeBase n + o) = 0)
                ∧ ∀ l ∈ t.poison, ¬(nodeBase n + lo ≤ l ∧ l < nodeBase n + hi)
              t.grant n k = 0 ∧ vget sc.slotCtx k.toNat = none
                ∧ cleared (max (grantBase g) 0x2000) (grantLimit g) ∧ cleared (0x800 * k.toNat) (0x800 * k.toNat + 0x800)
                ∧ (∀ a ∈ sc.arms, a.desc.slot ≠ k) ∧ (∀ f ∈ sc.fired, f.desc.slot ≠ k) ∧ (∀ b, b < 8 → ∀ x ∈ vget sc.ready b, x.desc.slot ≠ k)
                ∧ (∀ h, h < 64 → (vget sc.handlers h).getLsbD 63 = true → (vget sc.handlers h).extractLsb' 61 2 ≠ k)
                ∧ vget (t.cell n).mem.fifoC k.toNat = [] ∧ vget (t.cell n).mem.fifoL k.toNat = [] ∧ (∀ j, vget (t.thread n j).run.copies k.toNat = {})
                ∧ (n < 2048 → (∀ j, j < 8 → g.getLsbD (56 + j) = true → vget wd.tiles j = {}) ∧ (∀ j, j < 4 → g.getLsbD (52 + j) = true → vget wd.dtabs j = {})
                    ∧ ∀ j o, j < (g.extractLsb' 37 8).toNat → j < 128 → o < 4096 → wd.wb.get (((g.extractLsb' 45 7).toNat + j) % 128 * 4096 + o) = 0))
    ∧ (∀ t0, e.busy = true → e.drain = some t0 →
        let waits := ((∃ k, k < 8 ∧ ports.testBit k = true ∧ ((vget s.ports k).queue ≠ [] ∨ (vget s.ports k).unacked ≠ []))
          ∨ ∃ i ∈ s.cells, ∃ x ∈ i.2.mem.engines, x.begun = true ∧ x.stopped = false ∧ ∃ k, x.port = some k ∧ ports.testBit k = true) ∧ s.fab < t0 + 20000000
        (waits → exec (.contextTeardown c) s = .next s)
        ∧ (¬waits → Gives (.contextTeardown c) s fun t => (t.ctxEnt c).busy = false ∧ vget (t.ctxEnt c).words 0 = vget e.staged 0
            ∧ (∀ l ∈ t.cox.launches, l.ctx ≠ c) ∧ c ∉ t.cox.teardowns ∧ t.mem = s.mem ∧ ∀ k, k < 8 →
              (ports.testBit k = true → (vget t.ports k).st = 0 ∧ (vget t.ports k).lanes = 0) ∧ (ports.testBit k = false → vget t.ports k = vget s.ports k)))
    ∧ (e.busy = false → exec (.contextTeardown c) s = .next s)
    ∧ (let what := (v.extractLsb' 4 2).toNat
       let bad := v &&& ~~~0x3f37 ≠ 0 ∨ what = 3
       let named : TlbEnt → Prop := fun y => y.die < 9 ∧ (what = 2 ∨ (y.ctx = (v.extractLsb' 8 6).toNat ∧ (what = 1 ∨ (canonical s.cox.tlbiAddr = true
         ∧ (vpn s.cox.tlbiAddr y.level = y.vpn ∨ (leafContig y.leaf = true ∧ vpn s.cox.tlbiAddr y.level / 16 = y.vpn / 16))))))
       (bad → Gives (.hostTlbi v) s fun t => t.tlb = s.tlb ∧ t.cells = s.cells ∧ t.mem = s.mem)
        ∧ (¬bad → Gives (.hostTlbi v) s fun t => (∀ y, y ∈ t.tlb ↔ y ∈ s.tlb ∧ ¬named y) ∧ t.mem = s.mem
            ∧ ∀ n k fl r, (t.thread n k).reg fl r = (s.thread n k).reg fl r))
    ∧ (∀ die, die < 9 → Gives (.tlbMissRetry die) s fun t => t.tlb = s.tlb ∧ t.mem = s.mem ∧ t.cells = s.cells
        ∧ (ofDie die s.walks ≤ 192 → ofDie die t.walks ≤ 192) ∧ (ofDie die s.misses ≤ 2048 → ofDie die t.misses ≤ 2048))
    ∧ (∀ die m, s.walks.find? (fun m => decide (m.die = die)) = some m → s.tlbHit m.die m.ctx m.va = none →
        (∀ lvl leaf, s.walkFrom m.va (s.ptRoot m.ctx) 0 4 = .ok (lvl, leaf) → leafCtx leaf = m.ctx → Gives (.walkComplete die) s fun t =>
          t.tlb = s.tlb ++ [{ die := die, ctx := m.ctx, level := lvl, vpn := vpn m.va lvl, leaf := leaf }] ∧ t.mem = s.mem ∧ t.cells = s.cells)
        ∧ (∀ lvl leaf, s.walkFrom m.va (s.ptRoot m.ctx) 0 4 = .ok (lvl, leaf) → leafCtx leaf ≠ m.ctx → Gives (.walkComplete die) s fun t => t.tlb = s.tlb ∧ t.mem = s.mem)
        ∧ (∀ f, s.walkFrom m.va (s.ptRoot m.ctx) 0 4 = .error f → Gives (.walkComplete die) s fun t => t.tlb = s.tlb ∧ t.mem = s.mem ∧ t.cells = s.cells))

/-- Ceilings and operating points (R311 to R314, R318, R325, R326): CEILING_UPDATE takes the 1 µs average of device power, a free value (log 95), and gives every cell its ceiling: 0
while a supply condition stands or the cell is hot, otherwise the lesser of LIMIT and 7, or 4 without boost or where a cell above 100 °C waits for a target. OP_STEP:
the operating point follows the greatest request below the ceiling, one step up at a time and down at once. LIMIT_STEP: LIMIT moves one step with the 10 ms average. BOOST_WINDOW_EXPIRY closes a
window that has been open for 10 ms into a recovery, and BOOST_RECOVERY_END ends that after 10 ms. TEMPERATURE_SAMPLE sets and clears the hot state. OVER_CURRENT, UNDER_VOLTAGE, OVER_VOLTAGE, SLOPE_BREACH and
COOLANT_FAULT set their bits of OC_CAUSE, SUPPLY_RECOVERY ends a condition, and a write of 1 clears a bit whose condition no longer stands. STANDBY_DOMAIN_POWER_LOSS: OC_CAUSE is unknown until the next power-up.

Retention and thermal migration (R315, R319 to R321): RETENTION_ENTRY: a cell in which nothing runs enters retention after its idle time. RETENTION_WAKE raises it to OP_0 for a fired
task or a message that a bank must perform, HOST_MEMORY_ACCESS for a debug read (which messages a bank must perform, and which cycles count as idle, are the model's reading in log 90). MIGRATION_START: a cell that may move is MOVING in all copies of the cell table;
MIGRATION_COPY ends the quiesce with empty first-level caches; MIGRATION_SWITCH puts the target at the coordinate, or gives a fenced target up, and then ends the pause; MIGRATION_DRAIN
makes it NORMAL again once the writes that were on their way are performed. -/
def Obligations.PowerAndRetention : Prop :=
  (
    ∀ (s : State) (n : Nat), n < 2048 →
      let p := (s.cell n).power
      let P := s.power
      let oc : Nat → State → Prop := fun k t => t.power.ocCause = P.ocCause ||| (1#8 <<< k)
      let same : State → Prop := fun t => t.mem = s.mem ∧ ∀ j i, t.thread j i = s.thread j i
      (∀ T : BitVec 8, Gives (.temperatureSample n T) s fun t => same t ∧ (t.cell n).power.temp = T ∧ (t.physEnt (s.physOf n)).temp = T
          ∧ (t.cell n).power.hot = (if 103 ≤ T.toNat then true else if T.toNat < 98 then false else p.hot)
          ∧ (t.cell n).power.hotSince = (if 100 < T.toNat then some (p.hotSince.getD s.fab) else none)
          ∧ (105 ≤ T.toNat → oc 6 t) ∧ (T.toNat < 105 → t.power = P))
      ∧ (∀ (T : BitVec 8) q, Gives (.temperatureSample (8192 + q) T) s fun t => same t ∧ t.cells = s.cells ∧ (t.physEnt q).temp = T)
      ∧ (Gives .ceilingUpdate s fun t =>
          let w : BitVec 13 := (Config.freeWord s.draws).setWidth 13
          let above := P.bwin = true ∧ 4600 < w.toNat
          let base := if p.hot = true ∨ P.present &&& 7 ≠ 0 then 0
            else min P.limit.toNat (if P.pmCtl.getLsbD 0 = false ∨ P.ocCause ≠ 0 ∨ above ∨ P.recovery = true then 4 else 7)
          same t ∧ t.power.watts = w ∧ (above → oc 3 t) ∧ (¬above → t.power.ocCause = P.ocCause)
            ∧ (t.cell n).power.ceil.toNat = if 100 < p.temp.toNat ∧ s.wantsMove n = true ∧ s.targetFor n = none then min base 4 else base)
      ∧ (∀ w : BitVec 13, Gives (.limitStep w) s fun t => same t ∧ t.power.watts10 = w
          ∧ t.power.limit.toNat = if P.bwin = true then P.limit.toNat else if 4000 < w.toNat then P.limit.toNat - 1
              else if w.toNat < 3900 then min 7 (P.limit.toNat + 1) else P.limit.toNat)
      ∧ (P.bwin = true → P.bwinAt + 20000000 ≤ s.fab →
          exec .boostWindowExpiry s = .next { s with power := { P with bwin := false, recovery := true, recAt := s.fab } })
      ∧ (P.bwin = false ∨ s.fab < P.bwinAt + 20000000 → exec .boostWindowExpiry s = .next s)
      ∧ (P.recovery = true → P.recAt + 20000000 ≤ s.fab → exec .boostRecoveryEnd s = .next { s with power := { P with recovery := false } })
      ∧ (P.recovery = false ∨ s.fab < P.recAt + 20000000 → exec .boostRecoveryEnd s = .next s)
      ∧ (Gives (.opStep n) s fun t =>
          let want := min (s.cell n).request.toNat p.ceil.toNat
          same t ∧ (t.cell n).power.op.toNat = (if p.op.toNat < want then p.op.toNat + 1 else want)
            ∧ (4 < (t.cell n).power.op.toNat → P.recovery = false → t.power.bwin = true) ∧ (P.recovery = true → t.power.bwin = false)
            ∧ ((∀ q ∈ t.cells, q.1 < 2048 → q.2.power.op.toNat ≤ 4) → t.power.bwin = false)
            ∧ t.power.bwinAt = (if P.bwin = true then P.bwinAt else s.fab))
      ∧ (∀ k, k < 4 → (vget (s.cell n).cores k).req ≤ (s.cell n).request)
      ∧ (Gives .overCurrent s (fun t => same t ∧ oc 0 t ∧ t.power.present = P.present ||| 1) ∧ Gives .underVoltage s (fun t => same t ∧ oc 1 t ∧ t.power.present = P.present ||| 2)
        ∧ Gives .overVoltage s (fun t => same t ∧ oc 2 t ∧ t.power.present = P.present ||| 4) ∧ Gives .slopeBreach s (fun t => same t ∧ oc 4 t ∧ t.power.present = P.present))
      ∧ (∀ k, k < 3 → Gives (.supplyRecovery k) s fun t => same t ∧ t.power.present.getLsbD k = false ∧ t.power.ocCause = P.ocCause
          ∧ ∀ j, j ≠ k → t.power.present.getLsbD j = P.present.getLsbD j)
      ∧ (∀ a f : BitVec 8, Gives (.coolantFault a f) s fun t => same t ∧ t.power.inlet = a ∧ t.power.flow = f
          ∧ (32 < a.toNat ∨ f.toNat < 65 → oc 5 t) ∧ (a.toNat ≤ 32 → 65 ≤ f.toNat → t.power.ocCause = P.ocCause))
      ∧ (∀ (cox : Bool) (v : Word) k, k < 8 →
          let stands := (k < 3 ∧ P.present.getLsbD k = true) ∨ (k = 3 ∧ P.bwin = true ∧ 4600 < P.watts.toNat) ∨ (k = 5 ∧ P.warm = true)
            ∨ (k = 6 ∧ ∃ q ∈ s.phys, 105 ≤ q.2.temp.toNat)
          P.present.toNat < 8 → ((s.setDevCsr cox 0x280 v).power.ocCause.getLsbD k = true ↔ P.ocCause.getLsbD k = true ∧ (v.getLsbD k = false ∨ stands)))
      ∧ (Gives .standbyDomainPowerLoss s fun t => same t ∧ t.power.standbyLost = true ∧ t.draws = s.draws + 1))
  ∧ (
    ∀ (s : State) (n : Nat), n < 2048 →
      let c := s.cell n
      let st : State → Nat → Prop := fun t v => ∀ d, d < 8 → lptState (t.lptEntry d n) = v
      let idle := s.power.pmCtl.toNat / 2 ^ 8 % 2 ^ 16
      let quiet := (∀ q ∈ c.threads, q.2.run.st = .free ∨ q.2.run.st = .parked) ∧ c.sched.fired = [] ∧ (∀ b, b < 8 → vget c.sched.ready b = [])
        ∧ ∀ k, k < 4 → (vget c.cores k).wuq = []
      let long := c.power.busyAt + 256 * idle ≤ s.fab ∧ ∀ q ∈ c.threads, q.2.run.freeAt + 256 * idle ≤ s.fab
      let wakes := c.sched.fired ≠ [] ∨ c.mem.pending ≠ [] ∨ ∃ m ∈ s.net, m.dst = n
        ∧ (m.cls = 0 ∨ m.cls = 2 ∨ (m.cls = 3 ∧ m.kind = 1) ∨ (m.cls = 5 ∧ m.kind = 0x20))
      let awake : State → Prop := fun t => (t.cell n).power = { c.power with ret := false, op := 0 } ∧ t.mem = s.mem ∧ ∀ j i, t.thread j i = s.thread j i
      let old := s.physOf n
      (idle ≠ 0 → quiet → c.net.frozen = false → c.power.mig = none → long → Gives (.retentionEntry n) s fun t =>
          (t.cell n).power = { c.power with ret := true } ∧ t.mem = s.mem ∧ ∀ j i, t.thread j i = s.thread j i)
      ∧ (idle = 0 ∨ ¬quiet ∨ ¬long → exec (.retentionEntry n) s = .next s)
      ∧ (c.power.ret = true → wakes → Gives (.retentionWake n) s awake)
      ∧ (c.power.ret = false ∨ ¬wakes → exec (.retentionWake n) s = .next s)
      ∧ (∀ (pa : BitVec 48) v o, c.power.ret = true → pa.toNat % 8 = 0 → pa.toNat < 0x400020000000 → windowOf pa.toNat = some (n, o) →
          Gives (.hostMemoryAccess false pa v) s awake)
      ∧ (s.wantsMove n = true ↔ s.power.pmCtl.getLsbD 1 = true ∧ (∃ t0, c.power.hotSince = some t0 ∧ t0 + 2000000 ≤ s.fab) ∧ c.power.mig = none
          ∧ lptState (s.lptEntry 0 n) = 0 ∧ ∀ d, d < 6 → (s.vote (neighbour n d) (backDir d)).acc = 0)
      ∧ (∀ q, s.targetFor n = some q → q % 16 = old % 16 ∧ q / 272 = old / 272 ∧ (s.physEnt q).fenced = false ∧ (s.physEnt q).temp.toNat < 80
          ∧ (s.physEnt q).oldLid ≠ some n ∧ q ∉ s.reserved ∧ ∀ y, y < 16 → s.physOf (cellId (xOf n) y (zOf n)) ≠ q)
      ∧ (∀ q, old < 2176 → s.wantsMove n = true → s.targetFor n = some q → Gives (.migrationStart n) s fun t => st t 1 ∧ t.physOf n = old ∧ t.mem = s.mem
          ∧ ∃ m, (t.cell n).power.mig = some m ∧ m.target = q ∧ m.source = old ∧ m.phase = 2 ∧ m.began = s.fab)
      ∧ (s.wantsMove n = false ∨ s.targetFor n = none → exec (.migrationStart n) s = .next s)
      ∧ (∀ m, c.power.mig = some m →
          (m.phase < 5 → ∀ t, s.ready n t = false)
          ∧ (m.phase = 2 → c.mem.pending = [] → (∀ k x, k < 4 → x ∈ (vget c.cores k).wuq → x.st ≠ .started) → Gives (.migrationCopy n) s fun t =>
            (t.cell n).power.mig = some { m with phase := 3 } ∧ (∀ k, k < 4 → (vget (t.cell n).cores k).l1d = []) ∧ t.mem = s.mem)
          ∧ (m.phase ≠ 2 ∨ c.mem.pending ≠ [] ∨ (∃ k x, k < 4 ∧ x ∈ (vget c.cores k).wuq ∧ x.st = .started) → exec (.migrationCopy n) s = .next s)
          ∧ (m.phase = 3 → (s.physEnt m.target).fenced = false → m.target < 2176 → Gives (.migrationSwitch n) s fun t => t.physOf n = m.target ∧ st t 1
              ∧ t.mem = s.mem ∧ (t.cell n).power.mig = some { m with phase := 4 })
          ∧ (m.phase = 3 → (s.physEnt m.target).fenced = true → m.source < 2176 → Gives (.migrationSwitch n) s fun t => t.physOf n = m.source ∧ st t 0
              ∧ t.mem = s.mem ∧ (t.cell n).power.mig = none)
          ∧ (m.phase = 4 → Gives (.migrationSwitch n) s fun t => t.lpt = s.lpt ∧ t.mem = s.mem ∧ (t.cell n).power.mig = some { m with phase := 5 }
              ∧ (t.cell n).power.hot = false ∧ (t.cell n).power.temp = (s.physEnt m.target).temp
              ∧ (t.cell n).sched.timers = c.sched.timers.map fun x => { x with started := x.started + (s.fab - m.began) })
          ∧ (m.phase = 5 → m.target < 2176 → (∀ e ∈ c.mem.fwd, e.msg.id ∉ m.drain) → Gives (.migrationDrain n) s fun t =>
              t.physOf n = m.target ∧ st t 0 ∧ (t.cell n).power.mig = none ∧ t.mem = s.mem)
          ∧ (m.phase ≠ 3 → m.phase ≠ 4 → exec (.migrationSwitch n) s = .next s)
          ∧ (m.phase ≠ 5 ∨ (∃ e ∈ c.mem.fwd, e.msg.id ∈ m.drain) → exec (.migrationDrain n) s = .next s)))

/-- Stopping, recovery, alarms and attestation (R325, R326, R352 to R356): POWER_GOOD_LOSS, and TAMPER_ALARM, GLITCH_ALARM or OVERTEMP_ALARM whose policy says so, withdraw DEV_READY and take every port
DOWN; an alarm sets its flag, and by its policy zeroes the key or ends the device's service until the next power-up. RECOVERY_IMAGE: an image that verifies, with its signature, an
unrevoked key of the four digests and a version not below the fused count, as its cox-core image must, brings a device that waits for one, and that no alarm has stopped, to DEV_READY with BOOT_ST 3;
what the alarms have left stands. ATTESTATION_REQUEST: a nonce of 32 bytes is answered with 424 bytes: the tag, the version, the nonce, the digests and the key, and their signature. (The images and fuses are constants of the part in log 5, what
start-up finds is an input in log 94.)

Device system space and the host (R5, R9, R15, R24, R226, R256): REGISTER_WRITE: an aligned doubleword that the host or the cox cores write reaches the register at its address and nothing outside device
system space; the host cannot write the cell table nor a DORD register; the cox cores write two legal entries at once. HOST_MEMORY_ACCESS: a host write to bulk space changes its
eight bytes, and every access to bulk space counts as a hit or a miss of the loft.

Links, the loft and errors in arrays (R287, R364, R371, R397 to R402): LINK_CRC_FAILURE: a failed lane is replaced and counted while its group has spares, and a link that has none left carries nothing, at both
ends, as after LINK_LOST (how a group's lanes are numbered is log 88); FAULT_REGION_ROUTING: the ring is then routed the other way; LANE_RECALIBRATION changes nothing. LOFT_LOSS: a lost layer of the loft is off and empty; each of its dirty lines that is lost
is poison, and the others are written back (log 75). ECC_SCRUB: a correctable error is counted; an uncorrectable one is counted and its line is poison. UNCORRECTABLE_STRUCTURE_ERROR: a lost entry of a queue or table is gone, counted and reported; a damaged
first-level line is dropped; damaged bulk memory is poison; a damaged register, granule, control register or wide-unit array is found when it is read (log 43). -/
def Obligations.StoppingSecurityAndTheHost : Prop :=
  (
    ∀ (s : State),
      let down : State → Prop := fun t => t.misc.ready = false ∧ t.misc.stopped = true ∧ (∀ k, k < 8 → (vget t.ports k).st = 0) ∧ t.mem = s.mem
      let alarm : Instr → Nat → (Security → Bool) → Prop := fun i k flag => Gives i s fun t =>
        let a := (Config.alarmPolicy k).toNat
        flag t.sec = true ∧ (a = 0 → t.misc = s.misc ∧ t.ports = s.ports ∧ t.sec.key = s.sec.key ∧ t.sec.halted = s.sec.halted)
          ∧ (a ≠ 0 → down t ∧ t.sec.halted = true) ∧ (2 ≤ a → t.sec.key = false)
          ∧ (a < 2 → t.sec.key = s.sec.key) ∧ (a = 3 → t.sec.killed = true) ∧ (a ≠ 3 → t.sec.killed = s.sec.killed) ∧ t.mem = s.mem ∧ t.cells = s.cells
      let good : List Byte → Prop := fun image =>
        let key := Config.imageKey image
        ed448Verify key (Config.imageBody image) (Config.imageSignature image) = true
          ∧ (∃ k, k < 4 ∧ Config.vendorDigest k = shake256 64 key ∧ Config.vendorRevoked k = false) ∧ Config.fusedRollback.toNat ≤ Config.imageVersion image
      Gives .powerGoodLoss s (fun t => down t ∧ t.power.ocCause = s.power.ocCause ||| 2 ∧ t.cells = s.cells)
      ∧ alarm .tamperAlarm 0 Security.tamper ∧ alarm .glitchAlarm 1 Security.glitch ∧ alarm .overtempAlarm 2 Security.overtemp
      ∧ (∀ image, s.misc.ready = false → s.sec.boot = 2 → s.sec.halted = false → good image → good (Config.coxImage image) →
          Gives (.recoveryImage image) s fun t => t.misc.ready = true ∧ t.misc.stopped = false ∧ t.misc.step = 6
            ∧ t.sec = { s.sec with boot := 3, firmware := image }
            ∧ (s.power.standbyLost = true → t.power.ocCause = s.power.ocCause ||| 0x80 ∧ t.power.standbyLost = false)
            ∧ (s.misc.found = {} → s.lpt = [] → t.cells = s.cells ∧ t.mem = s.mem ∧ t.lpt = [] ∧ t.misc.spares = s.misc.spares ∧ t.misc.unmapped = s.misc.unmapped))
      ∧ (∀ image, s.misc.ready = true ∨ s.sec.boot ≠ 2 ∨ s.sec.halted = true ∨ ¬good image ∨ ¬good (Config.coxImage image) → exec (.recoveryImage image) s = .next s)
      ∧ (∀ nonce : List Byte, nonce.length = 32 → Gives (.attestationRequest nonce) s fun t =>
          let r := t.sec.mailbox
          r.length = 424 ∧ r.take 8 = [0x44, 0x4A, 0x41, 0x54, 1, 0, 0, 0] ∧ (r.drop 8).take 32 = nonce ∧ (r.drop 48).take 64 = shake256 64 s.sec.firmware
            ∧ (r.drop 112).take 64 = shake256 64 (Config.coxImage s.sec.firmware) ∧ (r.drop 176).take 64 = shake256 64 s.ctxBytes
            ∧ (s.sec.key = true → (r.drop 240).take 57 = ed448Public identityKey ∧ (r.drop 304).take 114 = ed448Sign identityKey (r.take 304))
            ∧ (s.sec.key = false → (r.drop 240).take 57 = List.replicate 57 0 ∧ (r.drop 304).take 114 = List.replicate 114 0) ∧ t.mem = s.mem ∧ t.cells = s.cells)
      ∧ (∀ nonce : List Byte, nonce.length ≠ 32 → exec (.attestationRequest nonce) s = .next s))
  ∧ (
    ∀ (s : State) (pa : BitVec 48) (v : Word),
      let off := pa.toNat - 0x400000000000
      let inDev := spaceOf pa.toNat = .dev ∧ pa.toNat % 8 = 0 ∧ windowOf pa.toNat = none
      (∀ host, inDev → (host = true → pa.toNat < 0x400020000000) → Gives (.registerWrite host pa v) s fun t => t = s.devWrite (!host) pa.toNat v ∧ t.mem = s.mem)
      ∧ (∀ host, pa.toNat % 8 ≠ 0 ∨ spaceOf pa.toNat ≠ .dev → exec (.registerWrite host pa v) s = .next s)
      ∧ (inDev → 0x100000 ≤ off → off < 0x110000 → exec (.registerWrite true pa v) s = .next s)
      ∧ (inDev → ∀ d i, d < 8 → i < 2047 → off = 0x100000 + 0x2000 * d + 4 * i →
          (v.extractLsb' 16 3).toNat ≤ 2 → (v.extractLsb' 4 5).toNat ≤ 16 → (v.extractLsb' 48 3).toNat ≤ 2 → (v.extractLsb' 36 5).toNat ≤ 16 →
          Gives (.registerWrite false pa v) s fun t => t.lptEntry d i = v.extractLsb' 0 32 &&& 0x70fff ∧ t.lptEntry d (i + 1) = v.extractLsb' 32 32 &&& 0x70fff
            ∧ ∀ e k, e < 8 → k < 2048 → ¬(e = d ∧ (k = i ∨ k = i + 1)) → t.lptEntry e k = s.lptEntry e k)
      ∧ (inDev → off = 0x8000 + 8 * 0x122 → exec (.registerWrite true pa v) s = .next s
          ∧ (v.toNat % 8 ≤ 5 → Gives (.registerWrite false pa v) s fun t => vget t.misc.dord 2 = v.extractLsb' 0 3))
      ∧ (inDev → off = 0x48 → Gives (.registerWrite true pa v) s fun t => t.cox.hfqHead = v.extractLsb' 0 32 ∧ t.cells = s.cells ∧ t.mem = s.mem)
      ∧ (s.mem.wf = true → pa.toNat % 8 = 0 → (spaceOf pa.toNat = .bulk ∨ spaceOf pa.toNat = .host) → Gives (.hostMemoryAccess true pa v) s fun t =>
          t.readWord pa.toNat = v ∧ (∀ a, (a < pa.toNat ∨ pa.toNat + 8 ≤ a) → t.mem.get a = s.mem.get a) ∧ t.cells = s.cells)
      ∧ (∀ wr, pa.toNat % 8 = 0 → spaceOf pa.toNat = .bulk → Gives (.hostMemoryAccess wr pa v) s fun t =>
          let line := pa.toNat / 64 * 64
          let cnt : State → Nat → Nat → Word := fun t layer k => vget (vget t.misc.loftCnt layer) k
          (∀ e, s.misc.loft.find? (fun e => decide (e.line = line)) = some e → e.layer < 2 → cnt t e.layer 0 = cnt s e.layer 0 + 1
              ∧ ∀ layer, layer < 2 → layer ≠ e.layer → ∀ k, k < 4 → cnt t layer k = cnt s layer k)
            ∧ (∀ k, s.misc.loft.find? (fun e => decide (e.line = line)) = none → s.misc.loftLayer line = some k → cnt t k 1 = cnt s k 1 + 1
                ∧ { line := line, layer := k, dirty := wr } ∈ t.misc.loft)
            ∧ (s.misc.loft.find? (fun e => decide (e.line = line)) = none → (∀ k, k < 2 → vget s.misc.loftSt k ≠ 0) → t.misc.loftCnt = s.misc.loftCnt))
      ∧ Gives (.hostMemoryAccess false pa v) s fun t => t.mem = s.mem
          ∧ (pa.toNat % 8 ≠ 0 ∨ (spaceOf pa.toNat ≠ .bulk ∧ windowOf pa.toNat = none) → t = s))
  ∧ (
    ∀ (s : State) (n d : Nat), n < 2048 → d < 6 →
      let link : State → Nat → Nat → Link := fun t i j => vget (t.cell i).net.links j
      let l := link s n d
      let same : State → Prop := fun t => t.mem = s.mem ∧ ∀ j i, t.thread j i = s.thread j i
      let cut : State → Prop := fun t => (link t n d).width = 0 ∧ (link t (neighbour n d) (backDir d)).width = 0
      let counted : State → Prop := fun t => (t.cell n).err.ue.toNat = min 0xffff ((s.cell n).err.ue.toNat + 1)
      let reported : State → Prop := fun t => counted t ∧ (t.cell n).err.seq = (s.cell n).err.seq + 1
      (∀ k, d < 4 → l.width = 1 → Gives (.linkCrcFailure n d (8 * k)) s fun t => same t
          ∧ (t.cell n).net.lanerep.toNat = min 0xffff ((s.cell n).net.lanerep.toNat + (min 8 (vget l.lost 0 + k) - min 8 (vget l.lost 0)))
          ∧ (vget l.lost 0 + k ≤ 8 → (link t n d).width = 1 ∧ vget (link t n d).lost 0 = vget l.lost 0 + k) ∧ (8 < vget l.lost 0 + k → cut t))
      ∧ (∀ g k, 4 ≤ d → g < 8 → l.width ≠ 0 → Gives (.linkCrcFailure n d (8 * k + g)) s fun t =>
          let lost : Nat → Nat := fun j => if j = g then vget l.lost g + k else vget l.lost j
          let pairs := ([0, 1, 2, 3].filter fun j => decide (lost (2 * j) ≤ 4 ∧ lost (2 * j + 1) ≤ 4)).length
          same t ∧ (t.cell n).net.lanerep.toNat = min 0xffff ((s.cell n).net.lanerep.toNat + (min 4 (vget l.lost g + k) - min 4 (vget l.lost g)))
            ∧ (link t n d).width.toNat = pairs ∧ (pairs = 0 → cut t))
      ∧ (Gives (.linkLost n d) s fun t => same t ∧ cut t)
      ∧ (l.width = 0 → (∀ k ∈ ringOf n d, k ≠ (if d % 2 = 0 then n else neighbour n d) → s.linkDown k (d / 2 * 2) = false) →
          Gives (.faultRegionRouting n d) s fun t => same t ∧ (link t n d).around = true ∧ (link t (neighbour n d) (backDir d)).around = true ∧ t.lpt = s.lpt)
      ∧ (l.width ≠ 0 → exec (.faultRegionRouting n d) s = .next s)
      ∧ exec (.laneRecalibration n d) s = .next s
      ∧ (∀ layer lost, layer < 2 → Gives (.loftLoss layer lost) s fun t =>
          let dirty := s.misc.loft.filter fun e => decide (e.layer = layer) && e.dirty
          let gone := dirty.filter fun e => (lost.map fun a => a / 64 * 64).contains e.line
          (∀ j i, t.thread j i = s.thread j i) ∧ vget t.misc.loftSt layer = 2 ∧ (∀ e ∈ t.misc.loft, e.layer ≠ layer)
            ∧ (∀ e ∈ gone, t.poisoned e.line = true) ∧ (∀ a, s.poisoned a = true → t.poisoned a = true)
            ∧ (∀ a, (∀ e ∈ gone, a / 64 ≠ e.line / 64) → t.poisoned a = s.poisoned a ∧ (s.mem.wf = true → t.mem.get a = s.mem.get a))
            ∧ t.misc.loftLost.toNat = min 0xffff (s.misc.loftLost.toNat + gone.length))
      ∧ (∀ line, 64 * line < 0x300000 →
          (∀ err, err = 1 ∨ err = 3 → Gives (.eccScrub n line err) s (fun t => same t ∧ t.poison = s.poison ∧ (t.cell n).err.ce.toNat = min 0xffff ((s.cell n).err.ce.toNat + 1)))
          ∧ Gives (.eccScrub n line 2) s (fun t => t.poisoned (nodeBase n + 64 * line) = true ∧ counted t
              ∧ (s.mem.wf = true → ∀ a, (a < nodeBase n + 64 * line ∨ nodeBase n + 64 * line + 64 ≤ a) → t.mem.get a = s.mem.get a)))
      ∧ (∀ k rd,
          let hit : Nat → (State → Prop) → Prop := fun unit => Gives (.uncorrectableStructureError n unit k rd) s
          (∀ e, (s.cell n).mem.fwd[k]? = some e → hit 0 reported)
          ∧ (∀ e, (s.cell n).sched.ready.toList.flatten[k]? = some e → hit 1 fun t => reported t ∧ ∀ b, b < 8 → ∀ x ∈ vget (t.cell n).sched.ready b, x.age ≠ e.age)
          ∧ (∀ e, ((s.cell n).sched.fired.filter fun f => decide (f.place = .place))[k]? = some e → hit 2 fun t => reported t
              ∧ (t.cell n).sched.fired.length + 1 = (s.cell n).sched.fired.length)
          ∧ (∀ e, (s.cell n).sched.arms[k]? = some e → hit 3 fun t => reported t ∧ (t.cell n).sched.arms.length + 1 = (s.cell n).sched.arms.length)
          ∧ (∀ m, (s.thread n (k / 128)).run.outbox[k % 128]? = some m → hit 4 fun t => counted t ∧ t.mem = s.mem
              ∧ ∃ e, (t.thread n (k / 128)).run.pendErr = some e ∧ (e.ord = m.ord ∧ e.addr = m.va.getD 0 ∨ e.ord ≤ m.ord ∧ (s.thread n (k / 128)).run.pendErr = some e))
          ∧ (hit 5 fun t => same t ∧ counted t ∧ ∀ j, ∀ x ∈ (vget (t.cell n).cores j).l1d, x.line ≠ 64 * k)
          ∧ (hit 6 fun t => same t ∧ counted t ∧ t.lpt = s.lpt)
          ∧ (∀ th c r, th * 128 + 32 * c + r = k → c < 4 → r < 32 → hit 7 fun t =>
              Spot.reg (match c with | 0 => .x | 1 => .f | 2 => .w | _ => .q) r ∈ (t.thread n th).run.bad ∧ t.mem = s.mem
                ∧ ∀ fl j, (t.thread n th).reg fl j = (s.thread n th).reg fl j)
          ∧ (hit 8 fun t => same t ∧ k ∈ (t.cell n).wide.bad)
          ∧ (spaceOf (0x10000000000 + 64 * k) = .bulk → (∀ e ∈ s.misc.loft, e.line ≠ 0x10000000000 + 64 * k) → hit 9 fun t =>
              t.poisoned (0x10000000000 + 64 * k) = true ∧ t.cells = s.cells)
          ∧ (hit 10 fun t => Spot.granule (k % 256) ∈ (t.thread n (k / 256)).run.bad ∧ t.mem = s.mem)
          ∧ (hit 11 fun t => Spot.csr (k % 32) ∈ (t.thread n (k / 32)).run.bad ∧ t.mem = s.mem)))
end

