-- ==== Sys2Proof/Laws/Store.lean ====
section
/-! SUPPORT. Stores and association lists: a read after a write, and the canonical form that every operation keeps. -/

namespace Sys2Proof

/-! ### Association lists -/

@[simp] theorem assocGet_nil {α : Type} (d : α) (k : Nat) : assocGet d [] k = d := rfl

@[simp] theorem assocGet_assocSet_self {α : Type} (d : α) (m : List (Nat × α)) (k : Nat) (v : α) :
    assocGet d (assocSet m k v) k = v := by
  induction m with
  | nil => simp [assocSet, assocGet]
  | cons p m ih =>
    obtain ⟨a, u⟩ := p
    simp only [assocSet]
    split
    · simp [assocGet]
    · split <;> simp_all [assocGet]

theorem assocGet_assocSet_ne {α : Type} (d : α) (m : List (Nat × α)) (k j : Nat) (v : α) (h : j ≠ k) :
    assocGet d (assocSet m k v) j = assocGet d m j := by
  induction m with
  | nil => simp [assocSet, assocGet, Ne.symm h]
  | cons p m ih =>
    obtain ⟨a, u⟩ := p
    simp only [assocSet]
    split
    · simp [assocGet, Ne.symm h]
    · split
      · subst_vars; simp [assocGet, Ne.symm h]
      · simp [assocGet, ih]

theorem assocGet_assocSet {α : Type} (d : α) (m : List (Nat × α)) (k j : Nat) (v : α) :
    assocGet d (assocSet m k v) j = if j = k then v else assocGet d m j := by
  split
  · subst_vars; simp
  · exact assocGet_assocSet_ne d m k j v ‹_›

/-! ### Stores -/

section
variable {w : Nat}

theorem Store.above_mono {m : Store w} {a b : Nat} (h : Store.above b m = true) (hab : a ≤ b) : Store.above a m = true := by
  cases m with
  | nil => rfl
  | cons p m =>
    obtain ⟨k, v⟩ := p
    simp only [Store.above, Bool.and_eq_true, decide_eq_true_eq] at h ⊢
    exact ⟨⟨by omega, h.1.2⟩, h.2⟩

/-- An address below every listed one reads as 0. -/
theorem Store.get_of_above {m : Store w} {lo k : Nat} (h : Store.above lo m = true) (hk : k < lo) : Store.get m k = 0#w := by
  induction m generalizing lo with
  | nil => rfl
  | cons p m ih =>
    obtain ⟨a, v⟩ := p
    simp only [Store.above, Bool.and_eq_true, decide_eq_true_eq] at h
    simp only [Store.get]
    rw [if_neg (by omega)]
    exact ih h.2 (by omega)

theorem Store.set_above {m : Store w} {lo k : Nat} {v : BitVec w} (h : Store.above lo m = true) (hk : lo ≤ k) :
    Store.above lo (Store.set m k v) = true := by
  induction m generalizing lo with
  | nil => by_cases hv : v = 0#w <;> simp [Store.set, Store.above, hv, hk]
  | cons p m ih =>
    obtain ⟨a, u⟩ := p
    have h' := h
    simp only [Store.above, Bool.and_eq_true, decide_eq_true_eq] at h'
    simp only [Store.set]
    split
    · split
      · exact h
      · simp only [Store.above, Bool.and_eq_true, decide_eq_true_eq]; exact ⟨⟨hk, ‹_›⟩, ⟨by omega, h'.1.2⟩, h'.2⟩
    · split
      · split
        · exact Store.above_mono h'.2 (by omega)
        · subst_vars; simp only [Store.above, Bool.and_eq_true, decide_eq_true_eq]; exact ⟨⟨hk, ‹_›⟩, h'.2⟩
      · simp only [Store.above, Bool.and_eq_true, decide_eq_true_eq]; exact ⟨h'.1, ih h'.2 (by omega)⟩

/-- A write keeps the canonical form. -/
theorem Store.set_wf {m : Store w} (h : m.wf = true) (k : Nat) (v : BitVec w) : (Store.set m k v).wf = true :=
  Store.set_above h (Nat.zero_le k)

theorem Store.get_set_above {m : Store w} {lo : Nat} (h : Store.above lo m = true) (k j : Nat) (v : BitVec w) :
    Store.get (Store.set m k v) j = if j = k then v else Store.get m j := by
  induction m generalizing lo with
  | nil => simp only [Store.set]; split <;> (simp only [Store.get]; grind)
  | cons p m ih =>
    obtain ⟨a, u⟩ := p
    simp only [Store.above, Bool.and_eq_true, decide_eq_true_eq] at h
    have h0 : ∀ i, i ≤ a → Store.get m i = 0#w := fun i hi => Store.get_of_above h.2 (by omega)
    simp only [Store.set]
    split
    · split
      · simp only [Store.get]
        split
        · rw [if_neg (by omega)]
        · split
          · rw [h0 j (by omega)]; exact Eq.symm ‹_›
          · rfl
      · simp only [Store.get, eq_comm]
    · split
      · subst_vars
        split
        · simp only [Store.get]
          by_cases hj : j = a
          · subst_vars; rw [if_pos rfl]; exact h0 _ (Nat.le_refl _)
          · rw [if_neg hj, if_neg (Ne.symm hj)]
        · simp only [Store.get]; grind
      · simp only [Store.get, ih h.2]; grind

/-- A read after a write (to a store in canonical form). -/
theorem Store.get_set {m : Store w} (h : m.wf = true) (k j : Nat) (v : BitVec w) :
    Store.get (Store.set m k v) j = if j = k then v else Store.get m j := Store.get_set_above h k j v

theorem Store.fill_wf {m : Store w} (h : m.wf = true) (k : Nat) (vs : List (BitVec w)) : (Store.fill m k vs).wf = true := by
  induction vs generalizing m k with
  | nil => exact h
  | cons v vs ih => exact ih (Store.set_wf h k v) (k + 1)

theorem Store.get_fill {m : Store w} (h : m.wf = true) (k j : Nat) (vs : List (BitVec w)) :
    Store.get (Store.fill m k vs) j = if k ≤ j ∧ j < k + vs.length then vs.getD (j - k) 0#w else Store.get m j := by
  induction vs generalizing m k with
  | nil => simp only [Store.fill, List.length_nil]; rw [if_neg (by omega)]
  | cons v vs ih =>
    simp only [Store.fill]
    rw [ih (Store.set_wf h k v), Store.get_set h]
    by_cases h1 : k + 1 ≤ j ∧ j < k + 1 + vs.length
    · rw [if_pos h1, if_pos (by simp only [List.length_cons]; omega)]
      obtain ⟨i, rfl⟩ : ∃ i, j = k + 1 + i := ⟨j - (k + 1), by omega⟩
      have e1 : k + 1 + i - (k + 1) = i := by omega
      have e2 : k + 1 + i - k = i + 1 := by omega
      rw [e1, e2, List.getD_cons_succ]
    · rw [if_neg h1]
      by_cases h2 : j = k
      · subst h2; rw [if_pos rfl, if_pos (by simp)]; simp
      · rw [if_neg h2, if_neg (by simp only [List.length_cons]; omega)]

theorem Store.clear_above {m : Store w} {lo : Nat} (h : Store.above lo m = true) (a b : Nat) :
    Store.above lo (Store.clear a b m) = true := by
  induction m generalizing lo with
  | nil => rfl
  | cons p m ih =>
    obtain ⟨k, v⟩ := p
    simp only [Store.above, Bool.and_eq_true, decide_eq_true_eq] at h
    simp only [Store.clear, List.filter_cons]
    split
    · simp only [Store.above, Bool.and_eq_true, decide_eq_true_eq]; exact ⟨h.1, ih h.2⟩
    · exact Store.above_mono (ih h.2) (by omega)

theorem Store.clear_wf {m : Store w} (h : m.wf = true) (a b : Nat) : (Store.clear a b m).wf = true := Store.clear_above h a b

theorem Store.get_clear (m : Store w) (a b j : Nat) :
    Store.get (Store.clear a b m) j = if a ≤ j ∧ j < b then 0#w else Store.get m j := by
  induction m with
  | nil => simp [Store.clear, Store.get]
  | cons p m ih =>
    obtain ⟨k, v⟩ := p
    simp only [Store.clear, List.filter_cons] at ih ⊢
    split
    · rename_i hk
      simp only [Bool.or_eq_true, decide_eq_true_eq] at hk
      simp only [Store.get, ih]
      by_cases hj : k = j
      · subst hj; rw [if_pos rfl, if_neg (by omega), if_pos rfl]
      · rw [if_neg hj, if_neg hj]
    · rename_i hk
      simp only [Bool.or_eq_true, decide_eq_true_eq] at hk
      rw [ih]
      by_cases hj : k = j
      · subst hj; rw [if_pos (by omega), if_pos (by omega)]
      · simp only [Store.get]; rw [if_neg hj]

@[simp] theorem Store.slice_length (m : Store w) (k n : Nat) : (Store.slice m k n).length = n := by
  induction n generalizing k with
  | zero => rfl
  | succ n ih => simp [Store.slice, ih]

/-- Byte `i` of a slice. -/
theorem Store.slice_getElem? (m : Store w) (k n i : Nat) (h : i < n) : (Store.slice m k n)[i]? = some (Store.get m (k + i)) := by
  induction n generalizing k i with
  | zero => omega
  | succ n ih =>
    cases i with
    | zero => simp [Store.slice]
    | succ i => simp only [Store.slice, List.getElem?_cons_succ]; rw [ih (k + 1) i (by omega)]; congr 2; omega

end

end Sys2Proof
end

