-- ==== Sys2Proof/Laws/State.lean ====
section
/-! SUPPORT. What each named update of the state does to each of its fields, and how cells, threads and cores read after an update. Every
later proof rewrites with these and unfolds no record update. -/

namespace Sys2Proof.Machine

/-! ### Vectors -/

theorem vget_vset {α : Type} [Inhabited α] {n : Nat} (v : Vector α n) (i j : Nat) (x : α) (h : i < n) :
    vget (vset v i x) j = if j = i then x else vget v j := by
  unfold vget vset
  by_cases e : j = i
  · subst e; simp [h]
  · rw [if_neg e]; simp [Ne.symm e]

@[simp] theorem vget_vset_ne {α : Type} [Inhabited α] {n : Nat} (v : Vector α n) (i j : Nat) (x : α) (h : j ≠ i) :
    vget (vset v i x) j = vget v j := by
  unfold vget vset; simp [Ne.symm h]

/-! ### Fields of State -/

@[simp] theorem State.setCell_mem (s : State) (n : Nat) (c : Cell) : (s.setCell n c).mem = s.mem := rfl
@[simp] theorem State.setCell_poison (s : State) (n : Nat) (c : Cell) : (s.setCell n c).poison = s.poison := rfl
@[simp] theorem State.setCell_cells (s : State) (n : Nat) (c : Cell) : (s.setCell n c).cells = assocSet s.cells n c := rfl
@[simp] theorem State.setCell_lpt (s : State) (n : Nat) (c : Cell) : (s.setCell n c).lpt = s.lpt := rfl
@[simp] theorem State.setCell_phys (s : State) (n : Nat) (c : Cell) : (s.setCell n c).phys = s.phys := rfl
@[simp] theorem State.setCell_ctxs (s : State) (n : Nat) (c : Cell) : (s.setCell n c).ctxs = s.ctxs := rfl
@[simp] theorem State.setCell_tlb (s : State) (n : Nat) (c : Cell) : (s.setCell n c).tlb = s.tlb := rfl
@[simp] theorem State.setCell_walks (s : State) (n : Nat) (c : Cell) : (s.setCell n c).walks = s.walks := rfl
@[simp] theorem State.setCell_misses (s : State) (n : Nat) (c : Cell) : (s.setCell n c).misses = s.misses := rfl
@[simp] theorem State.setCell_ports (s : State) (n : Nat) (c : Cell) : (s.setCell n c).ports = s.ports := rfl
@[simp] theorem State.setCell_cox (s : State) (n : Nat) (c : Cell) : (s.setCell n c).cox = s.cox := rfl
@[simp] theorem State.setCell_power (s : State) (n : Nat) (c : Cell) : (s.setCell n c).power = s.power := rfl
@[simp] theorem State.setCell_sec (s : State) (n : Nat) (c : Cell) : (s.setCell n c).sec = s.sec := rfl
@[simp] theorem State.setCell_misc (s : State) (n : Nat) (c : Cell) : (s.setCell n c).misc = s.misc := rfl
@[simp] theorem State.setCell_net (s : State) (n : Nat) (c : Cell) : (s.setCell n c).net = s.net := rfl
@[simp] theorem State.setCell_nextId (s : State) (n : Nat) (c : Cell) : (s.setCell n c).nextId = s.nextId := rfl
@[simp] theorem State.setCell_fab (s : State) (n : Nat) (c : Cell) : (s.setCell n c).fab = s.fab := rfl
@[simp] theorem State.setCell_draws (s : State) (n : Nat) (c : Cell) : (s.setCell n c).draws = s.draws := rfl
@[simp] theorem State.setCell_cur (s : State) (n : Nat) (c : Cell) : (s.setCell n c).cur = s.cur := rfl
@[simp] theorem State.setCell_blocked (s : State) (n : Nat) (c : Cell) : (s.setCell n c).blocked = s.blocked := rfl
@[simp] theorem State.setCell_schedule (s : State) (n : Nat) (c : Cell) : (s.setCell n c).schedule = s.schedule := rfl
@[simp] theorem State.setCell_ticks (s : State) (n : Nat) (c : Cell) : (s.setCell n c).ticks = s.ticks := rfl
@[simp] theorem State.modCell_mem (s : State) (n : Nat) (f : Cell → Cell) : (s.modCell n f).mem = s.mem := rfl
@[simp] theorem State.modCell_poison (s : State) (n : Nat) (f : Cell → Cell) : (s.modCell n f).poison = s.poison := rfl
@[simp] theorem State.modCell_lpt (s : State) (n : Nat) (f : Cell → Cell) : (s.modCell n f).lpt = s.lpt := rfl
@[simp] theorem State.modCell_phys (s : State) (n : Nat) (f : Cell → Cell) : (s.modCell n f).phys = s.phys := rfl
@[simp] theorem State.modCell_ctxs (s : State) (n : Nat) (f : Cell → Cell) : (s.modCell n f).ctxs = s.ctxs := rfl
@[simp] theorem State.modCell_tlb (s : State) (n : Nat) (f : Cell → Cell) : (s.modCell n f).tlb = s.tlb := rfl
@[simp] theorem State.modCell_walks (s : State) (n : Nat) (f : Cell → Cell) : (s.modCell n f).walks = s.walks := rfl
@[simp] theorem State.modCell_misses (s : State) (n : Nat) (f : Cell → Cell) : (s.modCell n f).misses = s.misses := rfl
@[simp] theorem State.modCell_ports (s : State) (n : Nat) (f : Cell → Cell) : (s.modCell n f).ports = s.ports := rfl
@[simp] theorem State.modCell_cox (s : State) (n : Nat) (f : Cell → Cell) : (s.modCell n f).cox = s.cox := rfl
@[simp] theorem State.modCell_power (s : State) (n : Nat) (f : Cell → Cell) : (s.modCell n f).power = s.power := rfl
@[simp] theorem State.modCell_sec (s : State) (n : Nat) (f : Cell → Cell) : (s.modCell n f).sec = s.sec := rfl
@[simp] theorem State.modCell_misc (s : State) (n : Nat) (f : Cell → Cell) : (s.modCell n f).misc = s.misc := rfl
@[simp] theorem State.modCell_net (s : State) (n : Nat) (f : Cell → Cell) : (s.modCell n f).net = s.net := rfl
@[simp] theorem State.modCell_nextId (s : State) (n : Nat) (f : Cell → Cell) : (s.modCell n f).nextId = s.nextId := rfl
@[simp] theorem State.modCell_fab (s : State) (n : Nat) (f : Cell → Cell) : (s.modCell n f).fab = s.fab := rfl
@[simp] theorem State.modCell_draws (s : State) (n : Nat) (f : Cell → Cell) : (s.modCell n f).draws = s.draws := rfl
@[simp] theorem State.modCell_cur (s : State) (n : Nat) (f : Cell → Cell) : (s.modCell n f).cur = s.cur := rfl
@[simp] theorem State.modCell_blocked (s : State) (n : Nat) (f : Cell → Cell) : (s.modCell n f).blocked = s.blocked := rfl
@[simp] theorem State.modCell_schedule (s : State) (n : Nat) (f : Cell → Cell) : (s.modCell n f).schedule = s.schedule := rfl
@[simp] theorem State.modCell_ticks (s : State) (n : Nat) (f : Cell → Cell) : (s.modCell n f).ticks = s.ticks := rfl
@[simp] theorem State.setThread_mem (s : State) (n t : Nat) (th : Thread) : (s.setThread n t th).mem = s.mem := rfl
@[simp] theorem State.setThread_poison (s : State) (n t : Nat) (th : Thread) : (s.setThread n t th).poison = s.poison := rfl
@[simp] theorem State.setThread_lpt (s : State) (n t : Nat) (th : Thread) : (s.setThread n t th).lpt = s.lpt := rfl
@[simp] theorem State.setThread_phys (s : State) (n t : Nat) (th : Thread) : (s.setThread n t th).phys = s.phys := rfl
@[simp] theorem State.setThread_ctxs (s : State) (n t : Nat) (th : Thread) : (s.setThread n t th).ctxs = s.ctxs := rfl
@[simp] theorem State.setThread_tlb (s : State) (n t : Nat) (th : Thread) : (s.setThread n t th).tlb = s.tlb := rfl
@[simp] theorem State.setThread_walks (s : State) (n t : Nat) (th : Thread) : (s.setThread n t th).walks = s.walks := rfl
@[simp] theorem State.setThread_misses (s : State) (n t : Nat) (th : Thread) : (s.setThread n t th).misses = s.misses := rfl
@[simp] theorem State.setThread_ports (s : State) (n t : Nat) (th : Thread) : (s.setThread n t th).ports = s.ports := rfl
@[simp] theorem State.setThread_cox (s : State) (n t : Nat) (th : Thread) : (s.setThread n t th).cox = s.cox := rfl
@[simp] theorem State.setThread_power (s : State) (n t : Nat) (th : Thread) : (s.setThread n t th).power = s.power := rfl
@[simp] theorem State.setThread_sec (s : State) (n t : Nat) (th : Thread) : (s.setThread n t th).sec = s.sec := rfl
@[simp] theorem State.setThread_misc (s : State) (n t : Nat) (th : Thread) : (s.setThread n t th).misc = s.misc := rfl
@[simp] theorem State.setThread_net (s : State) (n t : Nat) (th : Thread) : (s.setThread n t th).net = s.net := rfl
@[simp] theorem State.setThread_nextId (s : State) (n t : Nat) (th : Thread) : (s.setThread n t th).nextId = s.nextId := rfl
@[simp] theorem State.setThread_fab (s : State) (n t : Nat) (th : Thread) : (s.setThread n t th).fab = s.fab := rfl
@[simp] theorem State.setThread_draws (s : State) (n t : Nat) (th : Thread) : (s.setThread n t th).draws = s.draws := rfl
@[simp] theorem State.setThread_cur (s : State) (n t : Nat) (th : Thread) : (s.setThread n t th).cur = s.cur := rfl
@[simp] theorem State.setThread_blocked (s : State) (n t : Nat) (th : Thread) : (s.setThread n t th).blocked = s.blocked := rfl
@[simp] theorem State.setThread_schedule (s : State) (n t : Nat) (th : Thread) : (s.setThread n t th).schedule = s.schedule := rfl
@[simp] theorem State.setThread_ticks (s : State) (n t : Nat) (th : Thread) : (s.setThread n t th).ticks = s.ticks := rfl
@[simp] theorem State.modThread_mem (s : State) (n t : Nat) (f : Thread → Thread) : (s.modThread n t f).mem = s.mem := rfl
@[simp] theorem State.modThread_poison (s : State) (n t : Nat) (f : Thread → Thread) : (s.modThread n t f).poison = s.poison := rfl
@[simp] theorem State.modThread_lpt (s : State) (n t : Nat) (f : Thread → Thread) : (s.modThread n t f).lpt = s.lpt := rfl
@[simp] theorem State.modThread_phys (s : State) (n t : Nat) (f : Thread → Thread) : (s.modThread n t f).phys = s.phys := rfl
@[simp] theorem State.modThread_ctxs (s : State) (n t : Nat) (f : Thread → Thread) : (s.modThread n t f).ctxs = s.ctxs := rfl
@[simp] theorem State.modThread_tlb (s : State) (n t : Nat) (f : Thread → Thread) : (s.modThread n t f).tlb = s.tlb := rfl
@[simp] theorem State.modThread_walks (s : State) (n t : Nat) (f : Thread → Thread) : (s.modThread n t f).walks = s.walks := rfl
@[simp] theorem State.modThread_misses (s : State) (n t : Nat) (f : Thread → Thread) : (s.modThread n t f).misses = s.misses := rfl
@[simp] theorem State.modThread_ports (s : State) (n t : Nat) (f : Thread → Thread) : (s.modThread n t f).ports = s.ports := rfl
@[simp] theorem State.modThread_cox (s : State) (n t : Nat) (f : Thread → Thread) : (s.modThread n t f).cox = s.cox := rfl
@[simp] theorem State.modThread_power (s : State) (n t : Nat) (f : Thread → Thread) : (s.modThread n t f).power = s.power := rfl
@[simp] theorem State.modThread_sec (s : State) (n t : Nat) (f : Thread → Thread) : (s.modThread n t f).sec = s.sec := rfl
@[simp] theorem State.modThread_misc (s : State) (n t : Nat) (f : Thread → Thread) : (s.modThread n t f).misc = s.misc := rfl
@[simp] theorem State.modThread_net (s : State) (n t : Nat) (f : Thread → Thread) : (s.modThread n t f).net = s.net := rfl
@[simp] theorem State.modThread_nextId (s : State) (n t : Nat) (f : Thread → Thread) : (s.modThread n t f).nextId = s.nextId := rfl
@[simp] theorem State.modThread_fab (s : State) (n t : Nat) (f : Thread → Thread) : (s.modThread n t f).fab = s.fab := rfl
@[simp] theorem State.modThread_draws (s : State) (n t : Nat) (f : Thread → Thread) : (s.modThread n t f).draws = s.draws := rfl
@[simp] theorem State.modThread_cur (s : State) (n t : Nat) (f : Thread → Thread) : (s.modThread n t f).cur = s.cur := rfl
@[simp] theorem State.modThread_blocked (s : State) (n t : Nat) (f : Thread → Thread) : (s.modThread n t f).blocked = s.blocked := rfl
@[simp] theorem State.modThread_schedule (s : State) (n t : Nat) (f : Thread → Thread) : (s.modThread n t f).schedule = s.schedule := rfl
@[simp] theorem State.modThread_ticks (s : State) (n t : Nat) (f : Thread → Thread) : (s.modThread n t f).ticks = s.ticks := rfl
@[simp] theorem State.modCore_mem (s : State) (n t : Nat) (f : Core → Core) : (s.modCore n t f).mem = s.mem := rfl
@[simp] theorem State.modCore_poison (s : State) (n t : Nat) (f : Core → Core) : (s.modCore n t f).poison = s.poison := rfl
@[simp] theorem State.modCore_lpt (s : State) (n t : Nat) (f : Core → Core) : (s.modCore n t f).lpt = s.lpt := rfl
@[simp] theorem State.modCore_phys (s : State) (n t : Nat) (f : Core → Core) : (s.modCore n t f).phys = s.phys := rfl
@[simp] theorem State.modCore_ctxs (s : State) (n t : Nat) (f : Core → Core) : (s.modCore n t f).ctxs = s.ctxs := rfl
@[simp] theorem State.modCore_tlb (s : State) (n t : Nat) (f : Core → Core) : (s.modCore n t f).tlb = s.tlb := rfl
@[simp] theorem State.modCore_walks (s : State) (n t : Nat) (f : Core → Core) : (s.modCore n t f).walks = s.walks := rfl
@[simp] theorem State.modCore_misses (s : State) (n t : Nat) (f : Core → Core) : (s.modCore n t f).misses = s.misses := rfl
@[simp] theorem State.modCore_ports (s : State) (n t : Nat) (f : Core → Core) : (s.modCore n t f).ports = s.ports := rfl
@[simp] theorem State.modCore_cox (s : State) (n t : Nat) (f : Core → Core) : (s.modCore n t f).cox = s.cox := rfl
@[simp] theorem State.modCore_power (s : State) (n t : Nat) (f : Core → Core) : (s.modCore n t f).power = s.power := rfl
@[simp] theorem State.modCore_sec (s : State) (n t : Nat) (f : Core → Core) : (s.modCore n t f).sec = s.sec := rfl
@[simp] theorem State.modCore_misc (s : State) (n t : Nat) (f : Core → Core) : (s.modCore n t f).misc = s.misc := rfl
@[simp] theorem State.modCore_net (s : State) (n t : Nat) (f : Core → Core) : (s.modCore n t f).net = s.net := rfl
@[simp] theorem State.modCore_nextId (s : State) (n t : Nat) (f : Core → Core) : (s.modCore n t f).nextId = s.nextId := rfl
@[simp] theorem State.modCore_fab (s : State) (n t : Nat) (f : Core → Core) : (s.modCore n t f).fab = s.fab := rfl
@[simp] theorem State.modCore_draws (s : State) (n t : Nat) (f : Core → Core) : (s.modCore n t f).draws = s.draws := rfl
@[simp] theorem State.modCore_cur (s : State) (n t : Nat) (f : Core → Core) : (s.modCore n t f).cur = s.cur := rfl
@[simp] theorem State.modCore_blocked (s : State) (n t : Nat) (f : Core → Core) : (s.modCore n t f).blocked = s.blocked := rfl
@[simp] theorem State.modCore_schedule (s : State) (n t : Nat) (f : Core → Core) : (s.modCore n t f).schedule = s.schedule := rfl
@[simp] theorem State.modCore_ticks (s : State) (n t : Nat) (f : Core → Core) : (s.modCore n t f).ticks = s.ticks := rfl
@[simp] theorem State.modMem_mem (s : State) (n : Nat) (f : MemSide → MemSide) : (s.modMem n f).mem = s.mem := rfl
@[simp] theorem State.modMem_poison (s : State) (n : Nat) (f : MemSide → MemSide) : (s.modMem n f).poison = s.poison := rfl
@[simp] theorem State.modMem_lpt (s : State) (n : Nat) (f : MemSide → MemSide) : (s.modMem n f).lpt = s.lpt := rfl
@[simp] theorem State.modMem_phys (s : State) (n : Nat) (f : MemSide → MemSide) : (s.modMem n f).phys = s.phys := rfl
@[simp] theorem State.modMem_ctxs (s : State) (n : Nat) (f : MemSide → MemSide) : (s.modMem n f).ctxs = s.ctxs := rfl
@[simp] theorem State.modMem_tlb (s : State) (n : Nat) (f : MemSide → MemSide) : (s.modMem n f).tlb = s.tlb := rfl
@[simp] theorem State.modMem_walks (s : State) (n : Nat) (f : MemSide → MemSide) : (s.modMem n f).walks = s.walks := rfl
@[simp] theorem State.modMem_misses (s : State) (n : Nat) (f : MemSide → MemSide) : (s.modMem n f).misses = s.misses := rfl
@[simp] theorem State.modMem_ports (s : State) (n : Nat) (f : MemSide → MemSide) : (s.modMem n f).ports = s.ports := rfl
@[simp] theorem State.modMem_cox (s : State) (n : Nat) (f : MemSide → MemSide) : (s.modMem n f).cox = s.cox := rfl
@[simp] theorem State.modMem_power (s : State) (n : Nat) (f : MemSide → MemSide) : (s.modMem n f).power = s.power := rfl
@[simp] theorem State.modMem_sec (s : State) (n : Nat) (f : MemSide → MemSide) : (s.modMem n f).sec = s.sec := rfl
@[simp] theorem State.modMem_misc (s : State) (n : Nat) (f : MemSide → MemSide) : (s.modMem n f).misc = s.misc := rfl
@[simp] theorem State.modMem_net (s : State) (n : Nat) (f : MemSide → MemSide) : (s.modMem n f).net = s.net := rfl
@[simp] theorem State.modMem_nextId (s : State) (n : Nat) (f : MemSide → MemSide) : (s.modMem n f).nextId = s.nextId := rfl
@[simp] theorem State.modMem_fab (s : State) (n : Nat) (f : MemSide → MemSide) : (s.modMem n f).fab = s.fab := rfl
@[simp] theorem State.modMem_draws (s : State) (n : Nat) (f : MemSide → MemSide) : (s.modMem n f).draws = s.draws := rfl
@[simp] theorem State.modMem_cur (s : State) (n : Nat) (f : MemSide → MemSide) : (s.modMem n f).cur = s.cur := rfl
@[simp] theorem State.modMem_blocked (s : State) (n : Nat) (f : MemSide → MemSide) : (s.modMem n f).blocked = s.blocked := rfl
@[simp] theorem State.modMem_schedule (s : State) (n : Nat) (f : MemSide → MemSide) : (s.modMem n f).schedule = s.schedule := rfl
@[simp] theorem State.modMem_ticks (s : State) (n : Nat) (f : MemSide → MemSide) : (s.modMem n f).ticks = s.ticks := rfl
@[simp] theorem State.modSched_mem (s : State) (n : Nat) (f : Sched → Sched) : (s.modSched n f).mem = s.mem := rfl
@[simp] theorem State.modSched_poison (s : State) (n : Nat) (f : Sched → Sched) : (s.modSched n f).poison = s.poison := rfl
@[simp] theorem State.modSched_lpt (s : State) (n : Nat) (f : Sched → Sched) : (s.modSched n f).lpt = s.lpt := rfl
@[simp] theorem State.modSched_phys (s : State) (n : Nat) (f : Sched → Sched) : (s.modSched n f).phys = s.phys := rfl
@[simp] theorem State.modSched_ctxs (s : State) (n : Nat) (f : Sched → Sched) : (s.modSched n f).ctxs = s.ctxs := rfl
@[simp] theorem State.modSched_tlb (s : State) (n : Nat) (f : Sched → Sched) : (s.modSched n f).tlb = s.tlb := rfl
@[simp] theorem State.modSched_walks (s : State) (n : Nat) (f : Sched → Sched) : (s.modSched n f).walks = s.walks := rfl
@[simp] theorem State.modSched_misses (s : State) (n : Nat) (f : Sched → Sched) : (s.modSched n f).misses = s.misses := rfl
@[simp] theorem State.modSched_ports (s : State) (n : Nat) (f : Sched → Sched) : (s.modSched n f).ports = s.ports := rfl
@[simp] theorem State.modSched_cox (s : State) (n : Nat) (f : Sched → Sched) : (s.modSched n f).cox = s.cox := rfl
@[simp] theorem State.modSched_power (s : State) (n : Nat) (f : Sched → Sched) : (s.modSched n f).power = s.power := rfl
@[simp] theorem State.modSched_sec (s : State) (n : Nat) (f : Sched → Sched) : (s.modSched n f).sec = s.sec := rfl
@[simp] theorem State.modSched_misc (s : State) (n : Nat) (f : Sched → Sched) : (s.modSched n f).misc = s.misc := rfl
@[simp] theorem State.modSched_net (s : State) (n : Nat) (f : Sched → Sched) : (s.modSched n f).net = s.net := rfl
@[simp] theorem State.modSched_nextId (s : State) (n : Nat) (f : Sched → Sched) : (s.modSched n f).nextId = s.nextId := rfl
@[simp] theorem State.modSched_fab (s : State) (n : Nat) (f : Sched → Sched) : (s.modSched n f).fab = s.fab := rfl
@[simp] theorem State.modSched_draws (s : State) (n : Nat) (f : Sched → Sched) : (s.modSched n f).draws = s.draws := rfl
@[simp] theorem State.modSched_cur (s : State) (n : Nat) (f : Sched → Sched) : (s.modSched n f).cur = s.cur := rfl
@[simp] theorem State.modSched_blocked (s : State) (n : Nat) (f : Sched → Sched) : (s.modSched n f).blocked = s.blocked := rfl
@[simp] theorem State.modSched_schedule (s : State) (n : Nat) (f : Sched → Sched) : (s.modSched n f).schedule = s.schedule := rfl
@[simp] theorem State.modSched_ticks (s : State) (n : Nat) (f : Sched → Sched) : (s.modSched n f).ticks = s.ticks := rfl
@[simp] theorem State.modWide_mem (s : State) (n : Nat) (f : Wide → Wide) : (s.modWide n f).mem = s.mem := rfl
@[simp] theorem State.modWide_poison (s : State) (n : Nat) (f : Wide → Wide) : (s.modWide n f).poison = s.poison := rfl
@[simp] theorem State.modWide_lpt (s : State) (n : Nat) (f : Wide → Wide) : (s.modWide n f).lpt = s.lpt := rfl
@[simp] theorem State.modWide_phys (s : State) (n : Nat) (f : Wide → Wide) : (s.modWide n f).phys = s.phys := rfl
@[simp] theorem State.modWide_ctxs (s : State) (n : Nat) (f : Wide → Wide) : (s.modWide n f).ctxs = s.ctxs := rfl
@[simp] theorem State.modWide_tlb (s : State) (n : Nat) (f : Wide → Wide) : (s.modWide n f).tlb = s.tlb := rfl
@[simp] theorem State.modWide_walks (s : State) (n : Nat) (f : Wide → Wide) : (s.modWide n f).walks = s.walks := rfl
@[simp] theorem State.modWide_misses (s : State) (n : Nat) (f : Wide → Wide) : (s.modWide n f).misses = s.misses := rfl
@[simp] theorem State.modWide_ports (s : State) (n : Nat) (f : Wide → Wide) : (s.modWide n f).ports = s.ports := rfl
@[simp] theorem State.modWide_cox (s : State) (n : Nat) (f : Wide → Wide) : (s.modWide n f).cox = s.cox := rfl
@[simp] theorem State.modWide_power (s : State) (n : Nat) (f : Wide → Wide) : (s.modWide n f).power = s.power := rfl
@[simp] theorem State.modWide_sec (s : State) (n : Nat) (f : Wide → Wide) : (s.modWide n f).sec = s.sec := rfl
@[simp] theorem State.modWide_misc (s : State) (n : Nat) (f : Wide → Wide) : (s.modWide n f).misc = s.misc := rfl
@[simp] theorem State.modWide_net (s : State) (n : Nat) (f : Wide → Wide) : (s.modWide n f).net = s.net := rfl
@[simp] theorem State.modWide_nextId (s : State) (n : Nat) (f : Wide → Wide) : (s.modWide n f).nextId = s.nextId := rfl
@[simp] theorem State.modWide_fab (s : State) (n : Nat) (f : Wide → Wide) : (s.modWide n f).fab = s.fab := rfl
@[simp] theorem State.modWide_draws (s : State) (n : Nat) (f : Wide → Wide) : (s.modWide n f).draws = s.draws := rfl
@[simp] theorem State.modWide_cur (s : State) (n : Nat) (f : Wide → Wide) : (s.modWide n f).cur = s.cur := rfl
@[simp] theorem State.modWide_blocked (s : State) (n : Nat) (f : Wide → Wide) : (s.modWide n f).blocked = s.blocked := rfl
@[simp] theorem State.modWide_schedule (s : State) (n : Nat) (f : Wide → Wide) : (s.modWide n f).schedule = s.schedule := rfl
@[simp] theorem State.modWide_ticks (s : State) (n : Nat) (f : Wide → Wide) : (s.modWide n f).ticks = s.ticks := rfl
@[simp] theorem State.modErr_mem (s : State) (n : Nat) (f : ErrSide → ErrSide) : (s.modErr n f).mem = s.mem := rfl
@[simp] theorem State.modErr_poison (s : State) (n : Nat) (f : ErrSide → ErrSide) : (s.modErr n f).poison = s.poison := rfl
@[simp] theorem State.modErr_lpt (s : State) (n : Nat) (f : ErrSide → ErrSide) : (s.modErr n f).lpt = s.lpt := rfl
@[simp] theorem State.modErr_phys (s : State) (n : Nat) (f : ErrSide → ErrSide) : (s.modErr n f).phys = s.phys := rfl
@[simp] theorem State.modErr_ctxs (s : State) (n : Nat) (f : ErrSide → ErrSide) : (s.modErr n f).ctxs = s.ctxs := rfl
@[simp] theorem State.modErr_tlb (s : State) (n : Nat) (f : ErrSide → ErrSide) : (s.modErr n f).tlb = s.tlb := rfl
@[simp] theorem State.modErr_walks (s : State) (n : Nat) (f : ErrSide → ErrSide) : (s.modErr n f).walks = s.walks := rfl
@[simp] theorem State.modErr_misses (s : State) (n : Nat) (f : ErrSide → ErrSide) : (s.modErr n f).misses = s.misses := rfl
@[simp] theorem State.modErr_ports (s : State) (n : Nat) (f : ErrSide → ErrSide) : (s.modErr n f).ports = s.ports := rfl
@[simp] theorem State.modErr_cox (s : State) (n : Nat) (f : ErrSide → ErrSide) : (s.modErr n f).cox = s.cox := rfl
@[simp] theorem State.modErr_power (s : State) (n : Nat) (f : ErrSide → ErrSide) : (s.modErr n f).power = s.power := rfl
@[simp] theorem State.modErr_sec (s : State) (n : Nat) (f : ErrSide → ErrSide) : (s.modErr n f).sec = s.sec := rfl
@[simp] theorem State.modErr_misc (s : State) (n : Nat) (f : ErrSide → ErrSide) : (s.modErr n f).misc = s.misc := rfl
@[simp] theorem State.modErr_net (s : State) (n : Nat) (f : ErrSide → ErrSide) : (s.modErr n f).net = s.net := rfl
@[simp] theorem State.modErr_nextId (s : State) (n : Nat) (f : ErrSide → ErrSide) : (s.modErr n f).nextId = s.nextId := rfl
@[simp] theorem State.modErr_fab (s : State) (n : Nat) (f : ErrSide → ErrSide) : (s.modErr n f).fab = s.fab := rfl
@[simp] theorem State.modErr_draws (s : State) (n : Nat) (f : ErrSide → ErrSide) : (s.modErr n f).draws = s.draws := rfl
@[simp] theorem State.modErr_cur (s : State) (n : Nat) (f : ErrSide → ErrSide) : (s.modErr n f).cur = s.cur := rfl
@[simp] theorem State.modErr_blocked (s : State) (n : Nat) (f : ErrSide → ErrSide) : (s.modErr n f).blocked = s.blocked := rfl
@[simp] theorem State.modErr_schedule (s : State) (n : Nat) (f : ErrSide → ErrSide) : (s.modErr n f).schedule = s.schedule := rfl
@[simp] theorem State.modErr_ticks (s : State) (n : Nat) (f : ErrSide → ErrSide) : (s.modErr n f).ticks = s.ticks := rfl
@[simp] theorem State.put_mem (s : State) (pa : Nat) (bs : List Byte) : (s.put pa bs).mem = s.mem.fill pa bs := rfl
@[simp] theorem State.put_cells (s : State) (pa : Nat) (bs : List Byte) : (s.put pa bs).cells = s.cells := rfl
@[simp] theorem State.put_lpt (s : State) (pa : Nat) (bs : List Byte) : (s.put pa bs).lpt = s.lpt := rfl
@[simp] theorem State.put_phys (s : State) (pa : Nat) (bs : List Byte) : (s.put pa bs).phys = s.phys := rfl
@[simp] theorem State.put_ctxs (s : State) (pa : Nat) (bs : List Byte) : (s.put pa bs).ctxs = s.ctxs := rfl
@[simp] theorem State.put_tlb (s : State) (pa : Nat) (bs : List Byte) : (s.put pa bs).tlb = s.tlb := rfl
@[simp] theorem State.put_walks (s : State) (pa : Nat) (bs : List Byte) : (s.put pa bs).walks = s.walks := rfl
@[simp] theorem State.put_misses (s : State) (pa : Nat) (bs : List Byte) : (s.put pa bs).misses = s.misses := rfl
@[simp] theorem State.put_ports (s : State) (pa : Nat) (bs : List Byte) : (s.put pa bs).ports = s.ports := rfl
@[simp] theorem State.put_cox (s : State) (pa : Nat) (bs : List Byte) : (s.put pa bs).cox = s.cox := rfl
@[simp] theorem State.put_power (s : State) (pa : Nat) (bs : List Byte) : (s.put pa bs).power = s.power := rfl
@[simp] theorem State.put_sec (s : State) (pa : Nat) (bs : List Byte) : (s.put pa bs).sec = s.sec := rfl
/-- A line that one access writes whole is lost no longer (R365); nothing else of the loft and the device's counts changes. -/
theorem State.put_misc (s : State) (pa : Nat) (bs : List Byte) : ∃ l, (s.put pa bs).misc = { s.misc with loftBad := l } := by
  simp only [State.put]; split
  · exact ⟨_, rfl⟩
  · exact ⟨_, rfl⟩
@[simp] theorem State.put_net (s : State) (pa : Nat) (bs : List Byte) : (s.put pa bs).net = s.net := rfl
@[simp] theorem State.put_nextId (s : State) (pa : Nat) (bs : List Byte) : (s.put pa bs).nextId = s.nextId := rfl
@[simp] theorem State.put_fab (s : State) (pa : Nat) (bs : List Byte) : (s.put pa bs).fab = s.fab := rfl
@[simp] theorem State.put_draws (s : State) (pa : Nat) (bs : List Byte) : (s.put pa bs).draws = s.draws := rfl
@[simp] theorem State.put_cur (s : State) (pa : Nat) (bs : List Byte) : (s.put pa bs).cur = s.cur := rfl
@[simp] theorem State.put_blocked (s : State) (pa : Nat) (bs : List Byte) : (s.put pa bs).blocked = s.blocked := rfl
@[simp] theorem State.put_schedule (s : State) (pa : Nat) (bs : List Byte) : (s.put pa bs).schedule = s.schedule := rfl
@[simp] theorem State.put_ticks (s : State) (pa : Nat) (bs : List Byte) : (s.put pa bs).ticks = s.ticks := rfl
@[simp] theorem State.modPhys_mem (s : State) (p : Nat) (f : Phys → Phys) : (s.modPhys p f).mem = s.mem := rfl
@[simp] theorem State.modPhys_poison (s : State) (p : Nat) (f : Phys → Phys) : (s.modPhys p f).poison = s.poison := rfl
@[simp] theorem State.modPhys_cells (s : State) (p : Nat) (f : Phys → Phys) : (s.modPhys p f).cells = s.cells := rfl
@[simp] theorem State.modPhys_lpt (s : State) (p : Nat) (f : Phys → Phys) : (s.modPhys p f).lpt = s.lpt := rfl
@[simp] theorem State.modPhys_phys (s : State) (p : Nat) (f : Phys → Phys) : (s.modPhys p f).phys = assocSet s.phys p (f (s.physEnt p)) := rfl
@[simp] theorem State.modPhys_ctxs (s : State) (p : Nat) (f : Phys → Phys) : (s.modPhys p f).ctxs = s.ctxs := rfl
@[simp] theorem State.modPhys_tlb (s : State) (p : Nat) (f : Phys → Phys) : (s.modPhys p f).tlb = s.tlb := rfl
@[simp] theorem State.modPhys_walks (s : State) (p : Nat) (f : Phys → Phys) : (s.modPhys p f).walks = s.walks := rfl
@[simp] theorem State.modPhys_misses (s : State) (p : Nat) (f : Phys → Phys) : (s.modPhys p f).misses = s.misses := rfl
@[simp] theorem State.modPhys_ports (s : State) (p : Nat) (f : Phys → Phys) : (s.modPhys p f).ports = s.ports := rfl
@[simp] theorem State.modPhys_cox (s : State) (p : Nat) (f : Phys → Phys) : (s.modPhys p f).cox = s.cox := rfl
@[simp] theorem State.modPhys_power (s : State) (p : Nat) (f : Phys → Phys) : (s.modPhys p f).power = s.power := rfl
@[simp] theorem State.modPhys_sec (s : State) (p : Nat) (f : Phys → Phys) : (s.modPhys p f).sec = s.sec := rfl
@[simp] theorem State.modPhys_misc (s : State) (p : Nat) (f : Phys → Phys) : (s.modPhys p f).misc = s.misc := rfl
@[simp] theorem State.modPhys_net (s : State) (p : Nat) (f : Phys → Phys) : (s.modPhys p f).net = s.net := rfl
@[simp] theorem State.modPhys_nextId (s : State) (p : Nat) (f : Phys → Phys) : (s.modPhys p f).nextId = s.nextId := rfl
@[simp] theorem State.modPhys_fab (s : State) (p : Nat) (f : Phys → Phys) : (s.modPhys p f).fab = s.fab := rfl
@[simp] theorem State.modPhys_draws (s : State) (p : Nat) (f : Phys → Phys) : (s.modPhys p f).draws = s.draws := rfl
@[simp] theorem State.modPhys_cur (s : State) (p : Nat) (f : Phys → Phys) : (s.modPhys p f).cur = s.cur := rfl
@[simp] theorem State.modPhys_blocked (s : State) (p : Nat) (f : Phys → Phys) : (s.modPhys p f).blocked = s.blocked := rfl
@[simp] theorem State.modPhys_schedule (s : State) (p : Nat) (f : Phys → Phys) : (s.modPhys p f).schedule = s.schedule := rfl
@[simp] theorem State.modPhys_ticks (s : State) (p : Nat) (f : Phys → Phys) : (s.modPhys p f).ticks = s.ticks := rfl
@[simp] theorem State.setCtx_mem (s : State) (c : Nat) (e : CtxEnt) : (s.setCtx c e).mem = s.mem := rfl
@[simp] theorem State.setCtx_poison (s : State) (c : Nat) (e : CtxEnt) : (s.setCtx c e).poison = s.poison := rfl
@[simp] theorem State.setCtx_cells (s : State) (c : Nat) (e : CtxEnt) : (s.setCtx c e).cells = s.cells := rfl
@[simp] theorem State.setCtx_lpt (s : State) (c : Nat) (e : CtxEnt) : (s.setCtx c e).lpt = s.lpt := rfl
@[simp] theorem State.setCtx_phys (s : State) (c : Nat) (e : CtxEnt) : (s.setCtx c e).phys = s.phys := rfl
@[simp] theorem State.setCtx_ctxs (s : State) (c : Nat) (e : CtxEnt) : (s.setCtx c e).ctxs = assocSet s.ctxs c e := rfl
@[simp] theorem State.setCtx_tlb (s : State) (c : Nat) (e : CtxEnt) : (s.setCtx c e).tlb = s.tlb := rfl
@[simp] theorem State.setCtx_walks (s : State) (c : Nat) (e : CtxEnt) : (s.setCtx c e).walks = s.walks := rfl
@[simp] theorem State.setCtx_misses (s : State) (c : Nat) (e : CtxEnt) : (s.setCtx c e).misses = s.misses := rfl
@[simp] theorem State.setCtx_ports (s : State) (c : Nat) (e : CtxEnt) : (s.setCtx c e).ports = s.ports := rfl
@[simp] theorem State.setCtx_cox (s : State) (c : Nat) (e : CtxEnt) : (s.setCtx c e).cox = s.cox := rfl
@[simp] theorem State.setCtx_power (s : State) (c : Nat) (e : CtxEnt) : (s.setCtx c e).power = s.power := rfl
@[simp] theorem State.setCtx_sec (s : State) (c : Nat) (e : CtxEnt) : (s.setCtx c e).sec = s.sec := rfl
@[simp] theorem State.setCtx_misc (s : State) (c : Nat) (e : CtxEnt) : (s.setCtx c e).misc = s.misc := rfl
@[simp] theorem State.setCtx_net (s : State) (c : Nat) (e : CtxEnt) : (s.setCtx c e).net = s.net := rfl
@[simp] theorem State.setCtx_nextId (s : State) (c : Nat) (e : CtxEnt) : (s.setCtx c e).nextId = s.nextId := rfl
@[simp] theorem State.setCtx_fab (s : State) (c : Nat) (e : CtxEnt) : (s.setCtx c e).fab = s.fab := rfl
@[simp] theorem State.setCtx_draws (s : State) (c : Nat) (e : CtxEnt) : (s.setCtx c e).draws = s.draws := rfl
@[simp] theorem State.setCtx_cur (s : State) (c : Nat) (e : CtxEnt) : (s.setCtx c e).cur = s.cur := rfl
@[simp] theorem State.setCtx_blocked (s : State) (c : Nat) (e : CtxEnt) : (s.setCtx c e).blocked = s.blocked := rfl
@[simp] theorem State.setCtx_schedule (s : State) (c : Nat) (e : CtxEnt) : (s.setCtx c e).schedule = s.schedule := rfl
@[simp] theorem State.setCtx_ticks (s : State) (c : Nat) (e : CtxEnt) : (s.setCtx c e).ticks = s.ticks := rfl
@[simp] theorem State.modPort_mem (s : State) (n : Nat) (f : Port → Port) : (s.modPort n f).mem = s.mem := rfl
@[simp] theorem State.modPort_poison (s : State) (n : Nat) (f : Port → Port) : (s.modPort n f).poison = s.poison := rfl
@[simp] theorem State.modPort_cells (s : State) (n : Nat) (f : Port → Port) : (s.modPort n f).cells = s.cells := rfl
@[simp] theorem State.modPort_lpt (s : State) (n : Nat) (f : Port → Port) : (s.modPort n f).lpt = s.lpt := rfl
@[simp] theorem State.modPort_phys (s : State) (n : Nat) (f : Port → Port) : (s.modPort n f).phys = s.phys := rfl
@[simp] theorem State.modPort_ctxs (s : State) (n : Nat) (f : Port → Port) : (s.modPort n f).ctxs = s.ctxs := rfl
@[simp] theorem State.modPort_tlb (s : State) (n : Nat) (f : Port → Port) : (s.modPort n f).tlb = s.tlb := rfl
@[simp] theorem State.modPort_walks (s : State) (n : Nat) (f : Port → Port) : (s.modPort n f).walks = s.walks := rfl
@[simp] theorem State.modPort_misses (s : State) (n : Nat) (f : Port → Port) : (s.modPort n f).misses = s.misses := rfl
@[simp] theorem State.modPort_ports (s : State) (n : Nat) (f : Port → Port) : (s.modPort n f).ports = vset s.ports n (f (vget s.ports n)) := rfl
@[simp] theorem State.modPort_cox (s : State) (n : Nat) (f : Port → Port) : (s.modPort n f).cox = s.cox := rfl
@[simp] theorem State.modPort_power (s : State) (n : Nat) (f : Port → Port) : (s.modPort n f).power = s.power := rfl
@[simp] theorem State.modPort_sec (s : State) (n : Nat) (f : Port → Port) : (s.modPort n f).sec = s.sec := rfl
@[simp] theorem State.modPort_misc (s : State) (n : Nat) (f : Port → Port) : (s.modPort n f).misc = s.misc := rfl
@[simp] theorem State.modPort_net (s : State) (n : Nat) (f : Port → Port) : (s.modPort n f).net = s.net := rfl
@[simp] theorem State.modPort_nextId (s : State) (n : Nat) (f : Port → Port) : (s.modPort n f).nextId = s.nextId := rfl
@[simp] theorem State.modPort_fab (s : State) (n : Nat) (f : Port → Port) : (s.modPort n f).fab = s.fab := rfl
@[simp] theorem State.modPort_draws (s : State) (n : Nat) (f : Port → Port) : (s.modPort n f).draws = s.draws := rfl
@[simp] theorem State.modPort_cur (s : State) (n : Nat) (f : Port → Port) : (s.modPort n f).cur = s.cur := rfl
@[simp] theorem State.modPort_blocked (s : State) (n : Nat) (f : Port → Port) : (s.modPort n f).blocked = s.blocked := rfl
@[simp] theorem State.modPort_schedule (s : State) (n : Nat) (f : Port → Port) : (s.modPort n f).schedule = s.schedule := rfl
@[simp] theorem State.modPort_ticks (s : State) (n : Nat) (f : Port → Port) : (s.modPort n f).ticks = s.ticks := rfl
@[simp] theorem State.modPower_mem (s : State) (f : DevPower → DevPower) : (s.modPower f).mem = s.mem := rfl
@[simp] theorem State.modPower_poison (s : State) (f : DevPower → DevPower) : (s.modPower f).poison = s.poison := rfl
@[simp] theorem State.modPower_cells (s : State) (f : DevPower → DevPower) : (s.modPower f).cells = s.cells := rfl
@[simp] theorem State.modPower_lpt (s : State) (f : DevPower → DevPower) : (s.modPower f).lpt = s.lpt := rfl
@[simp] theorem State.modPower_phys (s : State) (f : DevPower → DevPower) : (s.modPower f).phys = s.phys := rfl
@[simp] theorem State.modPower_ctxs (s : State) (f : DevPower → DevPower) : (s.modPower f).ctxs = s.ctxs := rfl
@[simp] theorem State.modPower_tlb (s : State) (f : DevPower → DevPower) : (s.modPower f).tlb = s.tlb := rfl
@[simp] theorem State.modPower_walks (s : State) (f : DevPower → DevPower) : (s.modPower f).walks = s.walks := rfl
@[simp] theorem State.modPower_misses (s : State) (f : DevPower → DevPower) : (s.modPower f).misses = s.misses := rfl
@[simp] theorem State.modPower_ports (s : State) (f : DevPower → DevPower) : (s.modPower f).ports = s.ports := rfl
@[simp] theorem State.modPower_cox (s : State) (f : DevPower → DevPower) : (s.modPower f).cox = s.cox := rfl
@[simp] theorem State.modPower_power (s : State) (f : DevPower → DevPower) : (s.modPower f).power = f s.power := rfl
@[simp] theorem State.modPower_sec (s : State) (f : DevPower → DevPower) : (s.modPower f).sec = s.sec := rfl
@[simp] theorem State.modPower_misc (s : State) (f : DevPower → DevPower) : (s.modPower f).misc = s.misc := rfl
@[simp] theorem State.modPower_net (s : State) (f : DevPower → DevPower) : (s.modPower f).net = s.net := rfl
@[simp] theorem State.modPower_nextId (s : State) (f : DevPower → DevPower) : (s.modPower f).nextId = s.nextId := rfl
@[simp] theorem State.modPower_fab (s : State) (f : DevPower → DevPower) : (s.modPower f).fab = s.fab := rfl
@[simp] theorem State.modPower_draws (s : State) (f : DevPower → DevPower) : (s.modPower f).draws = s.draws := rfl
@[simp] theorem State.modPower_cur (s : State) (f : DevPower → DevPower) : (s.modPower f).cur = s.cur := rfl
@[simp] theorem State.modPower_blocked (s : State) (f : DevPower → DevPower) : (s.modPower f).blocked = s.blocked := rfl
@[simp] theorem State.modPower_schedule (s : State) (f : DevPower → DevPower) : (s.modPower f).schedule = s.schedule := rfl
@[simp] theorem State.modPower_ticks (s : State) (f : DevPower → DevPower) : (s.modPower f).ticks = s.ticks := rfl
@[simp] theorem State.modSec_mem (s : State) (f : Security → Security) : (s.modSec f).mem = s.mem := rfl
@[simp] theorem State.modSec_poison (s : State) (f : Security → Security) : (s.modSec f).poison = s.poison := rfl
@[simp] theorem State.modSec_cells (s : State) (f : Security → Security) : (s.modSec f).cells = s.cells := rfl
@[simp] theorem State.modSec_lpt (s : State) (f : Security → Security) : (s.modSec f).lpt = s.lpt := rfl
@[simp] theorem State.modSec_phys (s : State) (f : Security → Security) : (s.modSec f).phys = s.phys := rfl
@[simp] theorem State.modSec_ctxs (s : State) (f : Security → Security) : (s.modSec f).ctxs = s.ctxs := rfl
@[simp] theorem State.modSec_tlb (s : State) (f : Security → Security) : (s.modSec f).tlb = s.tlb := rfl
@[simp] theorem State.modSec_walks (s : State) (f : Security → Security) : (s.modSec f).walks = s.walks := rfl
@[simp] theorem State.modSec_misses (s : State) (f : Security → Security) : (s.modSec f).misses = s.misses := rfl
@[simp] theorem State.modSec_ports (s : State) (f : Security → Security) : (s.modSec f).ports = s.ports := rfl
@[simp] theorem State.modSec_cox (s : State) (f : Security → Security) : (s.modSec f).cox = s.cox := rfl
@[simp] theorem State.modSec_power (s : State) (f : Security → Security) : (s.modSec f).power = s.power := rfl
@[simp] theorem State.modSec_sec (s : State) (f : Security → Security) : (s.modSec f).sec = f s.sec := rfl
@[simp] theorem State.modSec_misc (s : State) (f : Security → Security) : (s.modSec f).misc = s.misc := rfl
@[simp] theorem State.modSec_net (s : State) (f : Security → Security) : (s.modSec f).net = s.net := rfl
@[simp] theorem State.modSec_nextId (s : State) (f : Security → Security) : (s.modSec f).nextId = s.nextId := rfl
@[simp] theorem State.modSec_fab (s : State) (f : Security → Security) : (s.modSec f).fab = s.fab := rfl
@[simp] theorem State.modSec_draws (s : State) (f : Security → Security) : (s.modSec f).draws = s.draws := rfl
@[simp] theorem State.modSec_cur (s : State) (f : Security → Security) : (s.modSec f).cur = s.cur := rfl
@[simp] theorem State.modSec_blocked (s : State) (f : Security → Security) : (s.modSec f).blocked = s.blocked := rfl
@[simp] theorem State.modSec_schedule (s : State) (f : Security → Security) : (s.modSec f).schedule = s.schedule := rfl
@[simp] theorem State.modSec_ticks (s : State) (f : Security → Security) : (s.modSec f).ticks = s.ticks := rfl
@[simp] theorem State.drawn_mem (s : State) : (s.drawn).mem = s.mem := rfl
@[simp] theorem State.drawn_poison (s : State) : (s.drawn).poison = s.poison := rfl
@[simp] theorem State.drawn_cells (s : State) : (s.drawn).cells = s.cells := rfl
@[simp] theorem State.drawn_lpt (s : State) : (s.drawn).lpt = s.lpt := rfl
@[simp] theorem State.drawn_phys (s : State) : (s.drawn).phys = s.phys := rfl
@[simp] theorem State.drawn_ctxs (s : State) : (s.drawn).ctxs = s.ctxs := rfl
@[simp] theorem State.drawn_tlb (s : State) : (s.drawn).tlb = s.tlb := rfl
@[simp] theorem State.drawn_walks (s : State) : (s.drawn).walks = s.walks := rfl
@[simp] theorem State.drawn_misses (s : State) : (s.drawn).misses = s.misses := rfl
@[simp] theorem State.drawn_ports (s : State) : (s.drawn).ports = s.ports := rfl
@[simp] theorem State.drawn_cox (s : State) : (s.drawn).cox = s.cox := rfl
@[simp] theorem State.drawn_power (s : State) : (s.drawn).power = s.power := rfl
@[simp] theorem State.drawn_sec (s : State) : (s.drawn).sec = s.sec := rfl
@[simp] theorem State.drawn_misc (s : State) : (s.drawn).misc = s.misc := rfl
@[simp] theorem State.drawn_net (s : State) : (s.drawn).net = s.net := rfl
@[simp] theorem State.drawn_nextId (s : State) : (s.drawn).nextId = s.nextId := rfl
@[simp] theorem State.drawn_fab (s : State) : (s.drawn).fab = s.fab := rfl
@[simp] theorem State.drawn_draws (s : State) : (s.drawn).draws = s.draws + 1 := rfl
@[simp] theorem State.drawn_cur (s : State) : (s.drawn).cur = s.cur := rfl
@[simp] theorem State.drawn_blocked (s : State) : (s.drawn).blocked = s.blocked := rfl
@[simp] theorem State.drawn_schedule (s : State) : (s.drawn).schedule = s.schedule := rfl
@[simp] theorem State.drawn_ticks (s : State) : (s.drawn).ticks = s.ticks := rfl
@[simp] theorem State.takeId_mem (s : State) : (s.takeId).mem = s.mem := rfl
@[simp] theorem State.takeId_poison (s : State) : (s.takeId).poison = s.poison := rfl
@[simp] theorem State.takeId_cells (s : State) : (s.takeId).cells = s.cells := rfl
@[simp] theorem State.takeId_lpt (s : State) : (s.takeId).lpt = s.lpt := rfl
@[simp] theorem State.takeId_phys (s : State) : (s.takeId).phys = s.phys := rfl
@[simp] theorem State.takeId_ctxs (s : State) : (s.takeId).ctxs = s.ctxs := rfl
@[simp] theorem State.takeId_tlb (s : State) : (s.takeId).tlb = s.tlb := rfl
@[simp] theorem State.takeId_walks (s : State) : (s.takeId).walks = s.walks := rfl
@[simp] theorem State.takeId_misses (s : State) : (s.takeId).misses = s.misses := rfl
@[simp] theorem State.takeId_ports (s : State) : (s.takeId).ports = s.ports := rfl
@[simp] theorem State.takeId_cox (s : State) : (s.takeId).cox = s.cox := rfl
@[simp] theorem State.takeId_power (s : State) : (s.takeId).power = s.power := rfl
@[simp] theorem State.takeId_sec (s : State) : (s.takeId).sec = s.sec := rfl
@[simp] theorem State.takeId_misc (s : State) : (s.takeId).misc = s.misc := rfl
@[simp] theorem State.takeId_net (s : State) : (s.takeId).net = s.net := rfl
@[simp] theorem State.takeId_nextId (s : State) : (s.takeId).nextId = s.nextId + 1 := rfl
@[simp] theorem State.takeId_fab (s : State) : (s.takeId).fab = s.fab := rfl
@[simp] theorem State.takeId_draws (s : State) : (s.takeId).draws = s.draws := rfl
@[simp] theorem State.takeId_cur (s : State) : (s.takeId).cur = s.cur := rfl
@[simp] theorem State.takeId_blocked (s : State) : (s.takeId).blocked = s.blocked := rfl
@[simp] theorem State.takeId_schedule (s : State) : (s.takeId).schedule = s.schedule := rfl
@[simp] theorem State.takeId_ticks (s : State) : (s.takeId).ticks = s.ticks := rfl

/-! ### Fields of Cell -/

@[simp] theorem Cell.setThread_threads (c : Cell) (t : Nat) (th : Thread) : (c.setThread t th).threads = assocSet c.threads t th := rfl
@[simp] theorem Cell.setThread_cores (c : Cell) (t : Nat) (th : Thread) : (c.setThread t th).cores = c.cores := rfl
@[simp] theorem Cell.setThread_wide (c : Cell) (t : Nat) (th : Thread) : (c.setThread t th).wide = c.wide := rfl
@[simp] theorem Cell.setThread_sched (c : Cell) (t : Nat) (th : Thread) : (c.setThread t th).sched = c.sched := rfl
@[simp] theorem Cell.setThread_mem (c : Cell) (t : Nat) (th : Thread) : (c.setThread t th).mem = c.mem := rfl
@[simp] theorem Cell.setThread_power (c : Cell) (t : Nat) (th : Thread) : (c.setThread t th).power = c.power := rfl
@[simp] theorem Cell.setThread_net (c : Cell) (t : Nat) (th : Thread) : (c.setThread t th).net = c.net := rfl
@[simp] theorem Cell.setThread_err (c : Cell) (t : Nat) (th : Thread) : (c.setThread t th).err = c.err := rfl
@[simp] theorem Cell.modCore_threads (c : Cell) (k : Nat) (f : Core → Core) : (c.modCore k f).threads = c.threads := rfl
@[simp] theorem Cell.modCore_cores (c : Cell) (k : Nat) (f : Core → Core) : (c.modCore k f).cores = vset c.cores k (f (vget c.cores k)) := rfl
@[simp] theorem Cell.modCore_wide (c : Cell) (k : Nat) (f : Core → Core) : (c.modCore k f).wide = c.wide := rfl
@[simp] theorem Cell.modCore_sched (c : Cell) (k : Nat) (f : Core → Core) : (c.modCore k f).sched = c.sched := rfl
@[simp] theorem Cell.modCore_mem (c : Cell) (k : Nat) (f : Core → Core) : (c.modCore k f).mem = c.mem := rfl
@[simp] theorem Cell.modCore_power (c : Cell) (k : Nat) (f : Core → Core) : (c.modCore k f).power = c.power := rfl
@[simp] theorem Cell.modCore_net (c : Cell) (k : Nat) (f : Core → Core) : (c.modCore k f).net = c.net := rfl
@[simp] theorem Cell.modCore_err (c : Cell) (k : Nat) (f : Core → Core) : (c.modCore k f).err = c.err := rfl
@[simp] theorem Cell.modMem_threads (c : Cell) (f : MemSide → MemSide) : (c.modMem f).threads = c.threads := rfl
@[simp] theorem Cell.modMem_cores (c : Cell) (f : MemSide → MemSide) : (c.modMem f).cores = c.cores := rfl
@[simp] theorem Cell.modMem_wide (c : Cell) (f : MemSide → MemSide) : (c.modMem f).wide = c.wide := rfl
@[simp] theorem Cell.modMem_sched (c : Cell) (f : MemSide → MemSide) : (c.modMem f).sched = c.sched := rfl
@[simp] theorem Cell.modMem_mem (c : Cell) (f : MemSide → MemSide) : (c.modMem f).mem = f c.mem := rfl
@[simp] theorem Cell.modMem_power (c : Cell) (f : MemSide → MemSide) : (c.modMem f).power = c.power := rfl
@[simp] theorem Cell.modMem_net (c : Cell) (f : MemSide → MemSide) : (c.modMem f).net = c.net := rfl
@[simp] theorem Cell.modMem_err (c : Cell) (f : MemSide → MemSide) : (c.modMem f).err = c.err := rfl
@[simp] theorem Cell.modSched_threads (c : Cell) (f : Sched → Sched) : (c.modSched f).threads = c.threads := rfl
@[simp] theorem Cell.modSched_cores (c : Cell) (f : Sched → Sched) : (c.modSched f).cores = c.cores := rfl
@[simp] theorem Cell.modSched_wide (c : Cell) (f : Sched → Sched) : (c.modSched f).wide = c.wide := rfl
@[simp] theorem Cell.modSched_sched (c : Cell) (f : Sched → Sched) : (c.modSched f).sched = f c.sched := rfl
@[simp] theorem Cell.modSched_mem (c : Cell) (f : Sched → Sched) : (c.modSched f).mem = c.mem := rfl
@[simp] theorem Cell.modSched_power (c : Cell) (f : Sched → Sched) : (c.modSched f).power = c.power := rfl
@[simp] theorem Cell.modSched_net (c : Cell) (f : Sched → Sched) : (c.modSched f).net = c.net := rfl
@[simp] theorem Cell.modSched_err (c : Cell) (f : Sched → Sched) : (c.modSched f).err = c.err := rfl
@[simp] theorem Cell.modWide_threads (c : Cell) (f : Wide → Wide) : (c.modWide f).threads = c.threads := rfl
@[simp] theorem Cell.modWide_cores (c : Cell) (f : Wide → Wide) : (c.modWide f).cores = c.cores := rfl
@[simp] theorem Cell.modWide_wide (c : Cell) (f : Wide → Wide) : (c.modWide f).wide = f c.wide := rfl
@[simp] theorem Cell.modWide_sched (c : Cell) (f : Wide → Wide) : (c.modWide f).sched = c.sched := rfl
@[simp] theorem Cell.modWide_mem (c : Cell) (f : Wide → Wide) : (c.modWide f).mem = c.mem := rfl
@[simp] theorem Cell.modWide_power (c : Cell) (f : Wide → Wide) : (c.modWide f).power = c.power := rfl
@[simp] theorem Cell.modWide_net (c : Cell) (f : Wide → Wide) : (c.modWide f).net = c.net := rfl
@[simp] theorem Cell.modWide_err (c : Cell) (f : Wide → Wide) : (c.modWide f).err = c.err := rfl
@[simp] theorem Cell.modErr_threads (c : Cell) (f : ErrSide → ErrSide) : (c.modErr f).threads = c.threads := rfl
@[simp] theorem Cell.modErr_cores (c : Cell) (f : ErrSide → ErrSide) : (c.modErr f).cores = c.cores := rfl
@[simp] theorem Cell.modErr_wide (c : Cell) (f : ErrSide → ErrSide) : (c.modErr f).wide = c.wide := rfl
@[simp] theorem Cell.modErr_sched (c : Cell) (f : ErrSide → ErrSide) : (c.modErr f).sched = c.sched := rfl
@[simp] theorem Cell.modErr_mem (c : Cell) (f : ErrSide → ErrSide) : (c.modErr f).mem = c.mem := rfl
@[simp] theorem Cell.modErr_power (c : Cell) (f : ErrSide → ErrSide) : (c.modErr f).power = c.power := rfl
@[simp] theorem Cell.modErr_net (c : Cell) (f : ErrSide → ErrSide) : (c.modErr f).net = c.net := rfl
@[simp] theorem Cell.modErr_err (c : Cell) (f : ErrSide → ErrSide) : (c.modErr f).err = f c.err := rfl
@[simp] theorem Cell.modPower_threads (c : Cell) (f : CellPower → CellPower) : (c.modPower f).threads = c.threads := rfl
@[simp] theorem Cell.modPower_cores (c : Cell) (f : CellPower → CellPower) : (c.modPower f).cores = c.cores := rfl
@[simp] theorem Cell.modPower_wide (c : Cell) (f : CellPower → CellPower) : (c.modPower f).wide = c.wide := rfl
@[simp] theorem Cell.modPower_sched (c : Cell) (f : CellPower → CellPower) : (c.modPower f).sched = c.sched := rfl
@[simp] theorem Cell.modPower_mem (c : Cell) (f : CellPower → CellPower) : (c.modPower f).mem = c.mem := rfl
@[simp] theorem Cell.modPower_power (c : Cell) (f : CellPower → CellPower) : (c.modPower f).power = f c.power := rfl
@[simp] theorem Cell.modPower_net (c : Cell) (f : CellPower → CellPower) : (c.modPower f).net = c.net := rfl
@[simp] theorem Cell.modPower_err (c : Cell) (f : CellPower → CellPower) : (c.modPower f).err = c.err := rfl
@[simp] theorem Cell.modNet_threads (c : Cell) (f : NetSide → NetSide) : (c.modNet f).threads = c.threads := rfl
@[simp] theorem Cell.modNet_cores (c : Cell) (f : NetSide → NetSide) : (c.modNet f).cores = c.cores := rfl
@[simp] theorem Cell.modNet_wide (c : Cell) (f : NetSide → NetSide) : (c.modNet f).wide = c.wide := rfl
@[simp] theorem Cell.modNet_sched (c : Cell) (f : NetSide → NetSide) : (c.modNet f).sched = c.sched := rfl
@[simp] theorem Cell.modNet_mem (c : Cell) (f : NetSide → NetSide) : (c.modNet f).mem = c.mem := rfl
@[simp] theorem Cell.modNet_power (c : Cell) (f : NetSide → NetSide) : (c.modNet f).power = c.power := rfl
@[simp] theorem Cell.modNet_net (c : Cell) (f : NetSide → NetSide) : (c.modNet f).net = f c.net := rfl
@[simp] theorem Cell.modNet_err (c : Cell) (f : NetSide → NetSide) : (c.modNet f).err = c.err := rfl

/-! ### Fields of Thread -/

@[simp] theorem Thread.modRun_x (th : Thread) (f : Run → Run) : (th.modRun f).x = th.x := rfl
@[simp] theorem Thread.modRun_f (th : Thread) (f : Run → Run) : (th.modRun f).f = th.f := rfl
@[simp] theorem Thread.modRun_w (th : Thread) (f : Run → Run) : (th.modRun f).w = th.w := rfl
@[simp] theorem Thread.modRun_pool (th : Thread) (f : Run → Run) : (th.modRun f).pool = th.pool := rfl
@[simp] theorem Thread.modRun_q (th : Thread) (f : Run → Run) : (th.modRun f).q = th.q := rfl
@[simp] theorem Thread.modRun_lpStart (th : Thread) (f : Run → Run) : (th.modRun f).lpStart = th.lpStart := rfl
@[simp] theorem Thread.modRun_lpEnd (th : Thread) (f : Run → Run) : (th.modRun f).lpEnd = th.lpEnd := rfl
@[simp] theorem Thread.modRun_lpCount (th : Thread) (f : Run → Run) : (th.modRun f).lpCount = th.lpCount := rfl
@[simp] theorem Thread.modRun_pc (th : Thread) (f : Run → Run) : (th.modRun f).pc = th.pc := rfl
@[simp] theorem Thread.modRun_ctrl (th : Thread) (f : Run → Run) : (th.modRun f).ctrl = th.ctrl := rfl
@[simp] theorem Thread.modRun_fullX (th : Thread) (f : Run → Run) : (th.modRun f).fullX = th.fullX := rfl
@[simp] theorem Thread.modRun_fullF (th : Thread) (f : Run → Run) : (th.modRun f).fullF = th.fullF := rfl
@[simp] theorem Thread.modRun_fullW (th : Thread) (f : Run → Run) : (th.modRun f).fullW = th.fullW := rfl
@[simp] theorem Thread.modRun_outs (th : Thread) (f : Run → Run) : (th.modRun f).outs = th.outs := rfl
@[simp] theorem Thread.modRun_pend (th : Thread) (f : Run → Run) : (th.modRun f).pend = th.pend := rfl
@[simp] theorem Thread.modRun_score (th : Thread) (f : Run → Run) : (th.modRun f).score = th.score := rfl
@[simp] theorem Thread.modRun_gmap (th : Thread) (f : Run → Run) : (th.modRun f).gmap = th.gmap := rfl
@[simp] theorem Thread.modRun_prods (th : Thread) (f : Run → Run) : (th.modRun f).prods = th.prods := rfl
@[simp] theorem Thread.modRun_run (th : Thread) (f : Run → Run) : (th.modRun f).run = f th.run := rfl
@[simp] theorem Thread.modCtrl_x (th : Thread) (f : Ctrl → Ctrl) : (th.modCtrl f).x = th.x := rfl
@[simp] theorem Thread.modCtrl_f (th : Thread) (f : Ctrl → Ctrl) : (th.modCtrl f).f = th.f := rfl
@[simp] theorem Thread.modCtrl_w (th : Thread) (f : Ctrl → Ctrl) : (th.modCtrl f).w = th.w := rfl
@[simp] theorem Thread.modCtrl_pool (th : Thread) (f : Ctrl → Ctrl) : (th.modCtrl f).pool = th.pool := rfl
@[simp] theorem Thread.modCtrl_q (th : Thread) (f : Ctrl → Ctrl) : (th.modCtrl f).q = th.q := rfl
@[simp] theorem Thread.modCtrl_lpStart (th : Thread) (f : Ctrl → Ctrl) : (th.modCtrl f).lpStart = th.lpStart := rfl
@[simp] theorem Thread.modCtrl_lpEnd (th : Thread) (f : Ctrl → Ctrl) : (th.modCtrl f).lpEnd = th.lpEnd := rfl
@[simp] theorem Thread.modCtrl_lpCount (th : Thread) (f : Ctrl → Ctrl) : (th.modCtrl f).lpCount = th.lpCount := rfl
@[simp] theorem Thread.modCtrl_pc (th : Thread) (f : Ctrl → Ctrl) : (th.modCtrl f).pc = th.pc := rfl
@[simp] theorem Thread.modCtrl_ctrl (th : Thread) (f : Ctrl → Ctrl) : (th.modCtrl f).ctrl = f th.ctrl := rfl
@[simp] theorem Thread.modCtrl_fullX (th : Thread) (f : Ctrl → Ctrl) : (th.modCtrl f).fullX = th.fullX := rfl
@[simp] theorem Thread.modCtrl_fullF (th : Thread) (f : Ctrl → Ctrl) : (th.modCtrl f).fullF = th.fullF := rfl
@[simp] theorem Thread.modCtrl_fullW (th : Thread) (f : Ctrl → Ctrl) : (th.modCtrl f).fullW = th.fullW := rfl
@[simp] theorem Thread.modCtrl_outs (th : Thread) (f : Ctrl → Ctrl) : (th.modCtrl f).outs = th.outs := rfl
@[simp] theorem Thread.modCtrl_pend (th : Thread) (f : Ctrl → Ctrl) : (th.modCtrl f).pend = th.pend := rfl
@[simp] theorem Thread.modCtrl_score (th : Thread) (f : Ctrl → Ctrl) : (th.modCtrl f).score = th.score := rfl
@[simp] theorem Thread.modCtrl_gmap (th : Thread) (f : Ctrl → Ctrl) : (th.modCtrl f).gmap = th.gmap := rfl
@[simp] theorem Thread.modCtrl_prods (th : Thread) (f : Ctrl → Ctrl) : (th.modCtrl f).prods = th.prods := rfl
@[simp] theorem Thread.modCtrl_run (th : Thread) (f : Ctrl → Ctrl) : (th.modCtrl f).run = th.run := rfl

/-! ### Cells -/

theorem State.cell_setCell (s : State) (n m : Nat) (c : Cell) : (s.setCell n c).cell m = if m = n then c else s.cell m := by
  unfold State.cell State.setCell; rw [assocGet_assocSet]
@[simp] theorem State.cell_setCell_self (s : State) (n : Nat) (c : Cell) : (s.setCell n c).cell n = c := by simp [State.cell_setCell]
@[simp] theorem State.cell_setCell_ne (s : State) (n m : Nat) (c : Cell) (h : m ≠ n) : (s.setCell n c).cell m = s.cell m := by
  simp [State.cell_setCell, h]
theorem State.cell_modCell (s : State) (n m : Nat) (f : Cell → Cell) : (s.modCell n f).cell m = if m = n then f (s.cell n) else s.cell m :=
  State.cell_setCell ..
@[simp] theorem State.cell_modCell_self (s : State) (n : Nat) (f : Cell → Cell) : (s.modCell n f).cell n = f (s.cell n) := by
  simp [State.cell_modCell]
@[simp] theorem State.cell_modCell_ne (s : State) (n m : Nat) (f : Cell → Cell) (h : m ≠ n) : (s.modCell n f).cell m = s.cell m := by
  simp [State.cell_modCell, h]
/-- What a cell reads depends on the list of cells alone. -/
theorem State.cell_congr {s t : State} (h : t.cells = s.cells) (n : Nat) : t.cell n = s.cell n := by unfold State.cell; rw [h]
theorem State.thread_congr {s t : State} (h : t.cells = s.cells) (n k : Nat) : t.thread n k = s.thread n k := by
  unfold State.thread; rw [State.cell_congr h]

/-! ### Threads -/

theorem Cell.thread_setThread (c : Cell) (t k : Nat) (th : Thread) : (c.setThread t th).thread k = if k = t then th else c.thread k :=
  assocGet_assocSet ..
@[simp] theorem Cell.thread_setThread_self (c : Cell) (t : Nat) (th : Thread) : (c.setThread t th).thread t = th := by
  simp [Cell.thread_setThread]
theorem State.thread_setThread (s : State) (n t m k : Nat) (th : Thread) :
    (s.setThread n t th).thread m k = if m = n ∧ k = t then th else s.thread m k := by
  unfold State.thread State.setThread
  rw [State.cell_modCell]
  by_cases h : m = n
  · subst h; simp [Cell.thread_setThread]
  · simp [h]
@[simp] theorem State.thread_setThread_self (s : State) (n t : Nat) (th : Thread) : (s.setThread n t th).thread n t = th := by
  simp [State.thread_setThread]
theorem State.thread_setThread_ne (s : State) (n t m k : Nat) (th : Thread) (h : (m, k) ≠ (n, t)) :
    (s.setThread n t th).thread m k = s.thread m k := by
  rw [State.thread_setThread, if_neg]; rintro ⟨rfl, rfl⟩; exact h rfl
theorem State.thread_modThread (s : State) (n t m k : Nat) (f : Thread → Thread) :
    (s.modThread n t f).thread m k = if m = n ∧ k = t then f (s.thread n t) else s.thread m k := State.thread_setThread ..
@[simp] theorem State.thread_modThread_self (s : State) (n t : Nat) (f : Thread → Thread) :
    (s.modThread n t f).thread n t = f (s.thread n t) := by simp [State.thread_modThread]
theorem State.thread_modThread_ne (s : State) (n t m k : Nat) (f : Thread → Thread) (h : (m, k) ≠ (n, t)) :
    (s.modThread n t f).thread m k = s.thread m k := State.thread_setThread_ne _ _ _ _ _ _ h
/-- An update of a cell that leaves its threads leaves every thread. -/
theorem State.thread_modCell (s : State) (n m k : Nat) (f : Cell → Cell) (h : (f (s.cell n)).threads = (s.cell n).threads) :
    (s.modCell n f).thread m k = s.thread m k := by
  unfold State.thread; rw [State.cell_modCell]; split
  · subst_vars; unfold Cell.thread; rw [h]
  · rfl
@[simp] theorem State.thread_modCore (s : State) (n t m k : Nat) (f : Core → Core) : (s.modCore n t f).thread m k = s.thread m k :=
  State.thread_modCell _ _ _ _ _ rfl
@[simp] theorem State.thread_modMem (s : State) (n m k : Nat) (f : MemSide → MemSide) : (s.modMem n f).thread m k = s.thread m k :=
  State.thread_modCell _ _ _ _ _ rfl
@[simp] theorem State.thread_modSched (s : State) (n m k : Nat) (f : Sched → Sched) : (s.modSched n f).thread m k = s.thread m k :=
  State.thread_modCell _ _ _ _ _ rfl
@[simp] theorem State.thread_modWide (s : State) (n m k : Nat) (f : Wide → Wide) : (s.modWide n f).thread m k = s.thread m k :=
  State.thread_modCell _ _ _ _ _ rfl
@[simp] theorem State.thread_modErr (s : State) (n m k : Nat) (f : ErrSide → ErrSide) : (s.modErr n f).thread m k = s.thread m k :=
  State.thread_modCell _ _ _ _ _ rfl
@[simp] theorem State.thread_put (s : State) (pa : Nat) (bs : List Byte) (m k : Nat) : (s.put pa bs).thread m k = s.thread m k := rfl
@[simp] theorem State.cell_put (s : State) (pa : Nat) (bs : List Byte) (m : Nat) : (s.put pa bs).cell m = s.cell m := rfl

/-! ### Cores -/

theorem State.cores_modThread (s : State) (n t m : Nat) (f : Thread → Thread) : ((s.modThread n t f).cell m).cores = (s.cell m).cores := by
  unfold State.modThread State.setThread; rw [State.cell_modCell]; split <;> simp_all
@[simp] theorem State.core_modThread (s : State) (n t m k : Nat) (f : Thread → Thread) : (s.modThread n t f).core m k = s.core m k := by
  unfold State.core; rw [State.cores_modThread]
@[simp] theorem State.now_modThread (s : State) (n t m k : Nat) (f : Thread → Thread) : (s.modThread n t f).now m k = s.now m k := by
  unfold State.now; rw [State.core_modThread]
theorem coreIx_lt (n t : Nat) (h : t < 16) : coreIx n t < 4 := by unfold coreIx; split <;> omega
@[simp] theorem State.core_modCore_self (s : State) (n t : Nat) (f : Core → Core) (h : t < 16) :
    (s.modCore n t f).core n t = f (s.core n t) := by
  unfold State.core State.modCore; rw [State.cell_modCell_self, Cell.modCore_cores, vget_vset _ _ _ _ (coreIx_lt n t h), if_pos rfl]

/-! ### Votes, links, forward-buffer entries, engine commands, migrations -/

@[simp] theorem State.modVote_mem (s : State) (n d : Nat) (f : Vote → Vote) : (s.modVote n d f).mem = s.mem := rfl
@[simp] theorem State.modVote_poison (s : State) (n d : Nat) (f : Vote → Vote) : (s.modVote n d f).poison = s.poison := rfl
@[simp] theorem State.modVote_lpt (s : State) (n d : Nat) (f : Vote → Vote) : (s.modVote n d f).lpt = s.lpt := rfl
@[simp] theorem State.modVote_phys (s : State) (n d : Nat) (f : Vote → Vote) : (s.modVote n d f).phys = s.phys := rfl
@[simp] theorem State.modVote_ctxs (s : State) (n d : Nat) (f : Vote → Vote) : (s.modVote n d f).ctxs = s.ctxs := rfl
@[simp] theorem State.modVote_tlb (s : State) (n d : Nat) (f : Vote → Vote) : (s.modVote n d f).tlb = s.tlb := rfl
@[simp] theorem State.modVote_walks (s : State) (n d : Nat) (f : Vote → Vote) : (s.modVote n d f).walks = s.walks := rfl
@[simp] theorem State.modVote_misses (s : State) (n d : Nat) (f : Vote → Vote) : (s.modVote n d f).misses = s.misses := rfl
@[simp] theorem State.modVote_ports (s : State) (n d : Nat) (f : Vote → Vote) : (s.modVote n d f).ports = s.ports := rfl
@[simp] theorem State.modVote_cox (s : State) (n d : Nat) (f : Vote → Vote) : (s.modVote n d f).cox = s.cox := rfl
@[simp] theorem State.modVote_power (s : State) (n d : Nat) (f : Vote → Vote) : (s.modVote n d f).power = s.power := rfl
@[simp] theorem State.modVote_sec (s : State) (n d : Nat) (f : Vote → Vote) : (s.modVote n d f).sec = s.sec := rfl
@[simp] theorem State.modVote_misc (s : State) (n d : Nat) (f : Vote → Vote) : (s.modVote n d f).misc = s.misc := rfl
@[simp] theorem State.modVote_net (s : State) (n d : Nat) (f : Vote → Vote) : (s.modVote n d f).net = s.net := rfl
@[simp] theorem State.modVote_nextId (s : State) (n d : Nat) (f : Vote → Vote) : (s.modVote n d f).nextId = s.nextId := rfl
@[simp] theorem State.modVote_fab (s : State) (n d : Nat) (f : Vote → Vote) : (s.modVote n d f).fab = s.fab := rfl
@[simp] theorem State.modVote_draws (s : State) (n d : Nat) (f : Vote → Vote) : (s.modVote n d f).draws = s.draws := rfl
@[simp] theorem State.modVote_cur (s : State) (n d : Nat) (f : Vote → Vote) : (s.modVote n d f).cur = s.cur := rfl
@[simp] theorem State.modVote_blocked (s : State) (n d : Nat) (f : Vote → Vote) : (s.modVote n d f).blocked = s.blocked := rfl
@[simp] theorem State.modVote_schedule (s : State) (n d : Nat) (f : Vote → Vote) : (s.modVote n d f).schedule = s.schedule := rfl
@[simp] theorem State.modVote_ticks (s : State) (n d : Nat) (f : Vote → Vote) : (s.modVote n d f).ticks = s.ticks := rfl
@[simp] theorem State.modLink_mem (s : State) (n d : Nat) (f : Link → Link) : (s.modLink n d f).mem = s.mem := rfl
@[simp] theorem State.modLink_poison (s : State) (n d : Nat) (f : Link → Link) : (s.modLink n d f).poison = s.poison := rfl
@[simp] theorem State.modLink_lpt (s : State) (n d : Nat) (f : Link → Link) : (s.modLink n d f).lpt = s.lpt := rfl
@[simp] theorem State.modLink_phys (s : State) (n d : Nat) (f : Link → Link) : (s.modLink n d f).phys = s.phys := rfl
@[simp] theorem State.modLink_ctxs (s : State) (n d : Nat) (f : Link → Link) : (s.modLink n d f).ctxs = s.ctxs := rfl
@[simp] theorem State.modLink_tlb (s : State) (n d : Nat) (f : Link → Link) : (s.modLink n d f).tlb = s.tlb := rfl
@[simp] theorem State.modLink_walks (s : State) (n d : Nat) (f : Link → Link) : (s.modLink n d f).walks = s.walks := rfl
@[simp] theorem State.modLink_misses (s : State) (n d : Nat) (f : Link → Link) : (s.modLink n d f).misses = s.misses := rfl
@[simp] theorem State.modLink_ports (s : State) (n d : Nat) (f : Link → Link) : (s.modLink n d f).ports = s.ports := rfl
@[simp] theorem State.modLink_cox (s : State) (n d : Nat) (f : Link → Link) : (s.modLink n d f).cox = s.cox := rfl
@[simp] theorem State.modLink_power (s : State) (n d : Nat) (f : Link → Link) : (s.modLink n d f).power = s.power := rfl
@[simp] theorem State.modLink_sec (s : State) (n d : Nat) (f : Link → Link) : (s.modLink n d f).sec = s.sec := rfl
@[simp] theorem State.modLink_misc (s : State) (n d : Nat) (f : Link → Link) : (s.modLink n d f).misc = s.misc := rfl
@[simp] theorem State.modLink_net (s : State) (n d : Nat) (f : Link → Link) : (s.modLink n d f).net = s.net := rfl
@[simp] theorem State.modLink_nextId (s : State) (n d : Nat) (f : Link → Link) : (s.modLink n d f).nextId = s.nextId := rfl
@[simp] theorem State.modLink_fab (s : State) (n d : Nat) (f : Link → Link) : (s.modLink n d f).fab = s.fab := rfl
@[simp] theorem State.modLink_draws (s : State) (n d : Nat) (f : Link → Link) : (s.modLink n d f).draws = s.draws := rfl
@[simp] theorem State.modLink_cur (s : State) (n d : Nat) (f : Link → Link) : (s.modLink n d f).cur = s.cur := rfl
@[simp] theorem State.modLink_blocked (s : State) (n d : Nat) (f : Link → Link) : (s.modLink n d f).blocked = s.blocked := rfl
@[simp] theorem State.modLink_schedule (s : State) (n d : Nat) (f : Link → Link) : (s.modLink n d f).schedule = s.schedule := rfl
@[simp] theorem State.modLink_ticks (s : State) (n d : Nat) (f : Link → Link) : (s.modLink n d f).ticks = s.ticks := rfl
@[simp] theorem State.modFwd_mem (s : State) (n id : Nat) (f : FwdEnt → FwdEnt) : (s.modFwd n id f).mem = s.mem := rfl
@[simp] theorem State.modFwd_poison (s : State) (n id : Nat) (f : FwdEnt → FwdEnt) : (s.modFwd n id f).poison = s.poison := rfl
@[simp] theorem State.modFwd_lpt (s : State) (n id : Nat) (f : FwdEnt → FwdEnt) : (s.modFwd n id f).lpt = s.lpt := rfl
@[simp] theorem State.modFwd_phys (s : State) (n id : Nat) (f : FwdEnt → FwdEnt) : (s.modFwd n id f).phys = s.phys := rfl
@[simp] theorem State.modFwd_ctxs (s : State) (n id : Nat) (f : FwdEnt → FwdEnt) : (s.modFwd n id f).ctxs = s.ctxs := rfl
@[simp] theorem State.modFwd_tlb (s : State) (n id : Nat) (f : FwdEnt → FwdEnt) : (s.modFwd n id f).tlb = s.tlb := rfl
@[simp] theorem State.modFwd_walks (s : State) (n id : Nat) (f : FwdEnt → FwdEnt) : (s.modFwd n id f).walks = s.walks := rfl
@[simp] theorem State.modFwd_misses (s : State) (n id : Nat) (f : FwdEnt → FwdEnt) : (s.modFwd n id f).misses = s.misses := rfl
@[simp] theorem State.modFwd_ports (s : State) (n id : Nat) (f : FwdEnt → FwdEnt) : (s.modFwd n id f).ports = s.ports := rfl
@[simp] theorem State.modFwd_cox (s : State) (n id : Nat) (f : FwdEnt → FwdEnt) : (s.modFwd n id f).cox = s.cox := rfl
@[simp] theorem State.modFwd_power (s : State) (n id : Nat) (f : FwdEnt → FwdEnt) : (s.modFwd n id f).power = s.power := rfl
@[simp] theorem State.modFwd_sec (s : State) (n id : Nat) (f : FwdEnt → FwdEnt) : (s.modFwd n id f).sec = s.sec := rfl
@[simp] theorem State.modFwd_misc (s : State) (n id : Nat) (f : FwdEnt → FwdEnt) : (s.modFwd n id f).misc = s.misc := rfl
@[simp] theorem State.modFwd_net (s : State) (n id : Nat) (f : FwdEnt → FwdEnt) : (s.modFwd n id f).net = s.net := rfl
@[simp] theorem State.modFwd_nextId (s : State) (n id : Nat) (f : FwdEnt → FwdEnt) : (s.modFwd n id f).nextId = s.nextId := rfl
@[simp] theorem State.modFwd_fab (s : State) (n id : Nat) (f : FwdEnt → FwdEnt) : (s.modFwd n id f).fab = s.fab := rfl
@[simp] theorem State.modFwd_draws (s : State) (n id : Nat) (f : FwdEnt → FwdEnt) : (s.modFwd n id f).draws = s.draws := rfl
@[simp] theorem State.modFwd_cur (s : State) (n id : Nat) (f : FwdEnt → FwdEnt) : (s.modFwd n id f).cur = s.cur := rfl
@[simp] theorem State.modFwd_blocked (s : State) (n id : Nat) (f : FwdEnt → FwdEnt) : (s.modFwd n id f).blocked = s.blocked := rfl
@[simp] theorem State.modFwd_schedule (s : State) (n id : Nat) (f : FwdEnt → FwdEnt) : (s.modFwd n id f).schedule = s.schedule := rfl
@[simp] theorem State.modFwd_ticks (s : State) (n id : Nat) (f : FwdEnt → FwdEnt) : (s.modFwd n id f).ticks = s.ticks := rfl
@[simp] theorem State.modCmd_mem (s : State) (n id : Nat) (f : EngCmd → EngCmd) : (s.modCmd n id f).mem = s.mem := rfl
@[simp] theorem State.modCmd_poison (s : State) (n id : Nat) (f : EngCmd → EngCmd) : (s.modCmd n id f).poison = s.poison := rfl
@[simp] theorem State.modCmd_lpt (s : State) (n id : Nat) (f : EngCmd → EngCmd) : (s.modCmd n id f).lpt = s.lpt := rfl
@[simp] theorem State.modCmd_phys (s : State) (n id : Nat) (f : EngCmd → EngCmd) : (s.modCmd n id f).phys = s.phys := rfl
@[simp] theorem State.modCmd_ctxs (s : State) (n id : Nat) (f : EngCmd → EngCmd) : (s.modCmd n id f).ctxs = s.ctxs := rfl
@[simp] theorem State.modCmd_tlb (s : State) (n id : Nat) (f : EngCmd → EngCmd) : (s.modCmd n id f).tlb = s.tlb := rfl
@[simp] theorem State.modCmd_walks (s : State) (n id : Nat) (f : EngCmd → EngCmd) : (s.modCmd n id f).walks = s.walks := rfl
@[simp] theorem State.modCmd_misses (s : State) (n id : Nat) (f : EngCmd → EngCmd) : (s.modCmd n id f).misses = s.misses := rfl
@[simp] theorem State.modCmd_ports (s : State) (n id : Nat) (f : EngCmd → EngCmd) : (s.modCmd n id f).ports = s.ports := rfl
@[simp] theorem State.modCmd_cox (s : State) (n id : Nat) (f : EngCmd → EngCmd) : (s.modCmd n id f).cox = s.cox := rfl
@[simp] theorem State.modCmd_power (s : State) (n id : Nat) (f : EngCmd → EngCmd) : (s.modCmd n id f).power = s.power := rfl
@[simp] theorem State.modCmd_sec (s : State) (n id : Nat) (f : EngCmd → EngCmd) : (s.modCmd n id f).sec = s.sec := rfl
@[simp] theorem State.modCmd_misc (s : State) (n id : Nat) (f : EngCmd → EngCmd) : (s.modCmd n id f).misc = s.misc := rfl
@[simp] theorem State.modCmd_net (s : State) (n id : Nat) (f : EngCmd → EngCmd) : (s.modCmd n id f).net = s.net := rfl
@[simp] theorem State.modCmd_nextId (s : State) (n id : Nat) (f : EngCmd → EngCmd) : (s.modCmd n id f).nextId = s.nextId := rfl
@[simp] theorem State.modCmd_fab (s : State) (n id : Nat) (f : EngCmd → EngCmd) : (s.modCmd n id f).fab = s.fab := rfl
@[simp] theorem State.modCmd_draws (s : State) (n id : Nat) (f : EngCmd → EngCmd) : (s.modCmd n id f).draws = s.draws := rfl
@[simp] theorem State.modCmd_cur (s : State) (n id : Nat) (f : EngCmd → EngCmd) : (s.modCmd n id f).cur = s.cur := rfl
@[simp] theorem State.modCmd_blocked (s : State) (n id : Nat) (f : EngCmd → EngCmd) : (s.modCmd n id f).blocked = s.blocked := rfl
@[simp] theorem State.modCmd_schedule (s : State) (n id : Nat) (f : EngCmd → EngCmd) : (s.modCmd n id f).schedule = s.schedule := rfl
@[simp] theorem State.modCmd_ticks (s : State) (n id : Nat) (f : EngCmd → EngCmd) : (s.modCmd n id f).ticks = s.ticks := rfl
@[simp] theorem State.dropCmd_mem (s : State) (n id : Nat) : (s.dropCmd n id).mem = s.mem := rfl
@[simp] theorem State.dropCmd_poison (s : State) (n id : Nat) : (s.dropCmd n id).poison = s.poison := rfl
@[simp] theorem State.dropCmd_lpt (s : State) (n id : Nat) : (s.dropCmd n id).lpt = s.lpt := rfl
@[simp] theorem State.dropCmd_phys (s : State) (n id : Nat) : (s.dropCmd n id).phys = s.phys := rfl
@[simp] theorem State.dropCmd_ctxs (s : State) (n id : Nat) : (s.dropCmd n id).ctxs = s.ctxs := rfl
@[simp] theorem State.dropCmd_tlb (s : State) (n id : Nat) : (s.dropCmd n id).tlb = s.tlb := rfl
@[simp] theorem State.dropCmd_walks (s : State) (n id : Nat) : (s.dropCmd n id).walks = s.walks := rfl
@[simp] theorem State.dropCmd_misses (s : State) (n id : Nat) : (s.dropCmd n id).misses = s.misses := rfl
@[simp] theorem State.dropCmd_ports (s : State) (n id : Nat) : (s.dropCmd n id).ports = s.ports := rfl
@[simp] theorem State.dropCmd_cox (s : State) (n id : Nat) : (s.dropCmd n id).cox = s.cox := rfl
@[simp] theorem State.dropCmd_power (s : State) (n id : Nat) : (s.dropCmd n id).power = s.power := rfl
@[simp] theorem State.dropCmd_sec (s : State) (n id : Nat) : (s.dropCmd n id).sec = s.sec := rfl
@[simp] theorem State.dropCmd_misc (s : State) (n id : Nat) : (s.dropCmd n id).misc = s.misc := rfl
@[simp] theorem State.dropCmd_net (s : State) (n id : Nat) : (s.dropCmd n id).net = s.net := rfl
@[simp] theorem State.dropCmd_nextId (s : State) (n id : Nat) : (s.dropCmd n id).nextId = s.nextId := rfl
@[simp] theorem State.dropCmd_fab (s : State) (n id : Nat) : (s.dropCmd n id).fab = s.fab := rfl
@[simp] theorem State.dropCmd_draws (s : State) (n id : Nat) : (s.dropCmd n id).draws = s.draws := rfl
@[simp] theorem State.dropCmd_cur (s : State) (n id : Nat) : (s.dropCmd n id).cur = s.cur := rfl
@[simp] theorem State.dropCmd_blocked (s : State) (n id : Nat) : (s.dropCmd n id).blocked = s.blocked := rfl
@[simp] theorem State.dropCmd_schedule (s : State) (n id : Nat) : (s.dropCmd n id).schedule = s.schedule := rfl
@[simp] theorem State.dropCmd_ticks (s : State) (n id : Nat) : (s.dropCmd n id).ticks = s.ticks := rfl
@[simp] theorem State.setMig_mem (s : State) (n : Nat) (m : Option Migration) : (s.setMig n m).mem = s.mem := rfl
@[simp] theorem State.setMig_poison (s : State) (n : Nat) (m : Option Migration) : (s.setMig n m).poison = s.poison := rfl
@[simp] theorem State.setMig_lpt (s : State) (n : Nat) (m : Option Migration) : (s.setMig n m).lpt = s.lpt := rfl
@[simp] theorem State.setMig_phys (s : State) (n : Nat) (m : Option Migration) : (s.setMig n m).phys = s.phys := rfl
@[simp] theorem State.setMig_ctxs (s : State) (n : Nat) (m : Option Migration) : (s.setMig n m).ctxs = s.ctxs := rfl
@[simp] theorem State.setMig_tlb (s : State) (n : Nat) (m : Option Migration) : (s.setMig n m).tlb = s.tlb := rfl
@[simp] theorem State.setMig_walks (s : State) (n : Nat) (m : Option Migration) : (s.setMig n m).walks = s.walks := rfl
@[simp] theorem State.setMig_misses (s : State) (n : Nat) (m : Option Migration) : (s.setMig n m).misses = s.misses := rfl
@[simp] theorem State.setMig_ports (s : State) (n : Nat) (m : Option Migration) : (s.setMig n m).ports = s.ports := rfl
@[simp] theorem State.setMig_cox (s : State) (n : Nat) (m : Option Migration) : (s.setMig n m).cox = s.cox := rfl
@[simp] theorem State.setMig_power (s : State) (n : Nat) (m : Option Migration) : (s.setMig n m).power = s.power := rfl
@[simp] theorem State.setMig_sec (s : State) (n : Nat) (m : Option Migration) : (s.setMig n m).sec = s.sec := rfl
@[simp] theorem State.setMig_misc (s : State) (n : Nat) (m : Option Migration) : (s.setMig n m).misc = s.misc := rfl
@[simp] theorem State.setMig_net (s : State) (n : Nat) (m : Option Migration) : (s.setMig n m).net = s.net := rfl
@[simp] theorem State.setMig_nextId (s : State) (n : Nat) (m : Option Migration) : (s.setMig n m).nextId = s.nextId := rfl
@[simp] theorem State.setMig_fab (s : State) (n : Nat) (m : Option Migration) : (s.setMig n m).fab = s.fab := rfl
@[simp] theorem State.setMig_draws (s : State) (n : Nat) (m : Option Migration) : (s.setMig n m).draws = s.draws := rfl
@[simp] theorem State.setMig_cur (s : State) (n : Nat) (m : Option Migration) : (s.setMig n m).cur = s.cur := rfl
@[simp] theorem State.setMig_blocked (s : State) (n : Nat) (m : Option Migration) : (s.setMig n m).blocked = s.blocked := rfl
@[simp] theorem State.setMig_schedule (s : State) (n : Nat) (m : Option Migration) : (s.setMig n m).schedule = s.schedule := rfl
@[simp] theorem State.setMig_ticks (s : State) (n : Nat) (m : Option Migration) : (s.setMig n m).ticks = s.ticks := rfl

end Sys2Proof.Machine
end

