-- ==== Sys2Proof/Laws/Ops.lean ====
section
/-! SUPPORT. What the shared operations can do: reads and writes of memory and of registers, results, traps, and the issue of an instruction.
Proofs about instructions cite these and unfold no operation. -/

namespace Sys2Proof.Machine

/-! ### Memory -/

theorem reset_mem_wf : State.reset.mem.wf = true := rfl

theorem State.put_wf {s : State} (h : s.mem.wf = true) (pa : Nat) (bs : List Byte) : (s.put pa bs).mem.wf = true :=
  Store.fill_wf h pa bs

theorem State.get_put {s : State} (h : s.mem.wf = true) (pa : Nat) (bs : List Byte) (a : Nat) :
    (s.put pa bs).mem.get a = if pa ≤ a ∧ a < pa + bs.length then bs.getD (a - pa) 0#8 else s.mem.get a :=
  Store.get_fill h pa a bs

/-- Memory after the invalidation of a line: as before, but for the line's overflow entry, which then reads 0. -/
theorem State.clearDir_mem (s : State) (n line : Nat) :
    (s.clearDir n line).mem = s.mem ∨ ∃ e, s.dirEnt n line = some e ∧ e.ovf = true ∧
      (s.clearDir n line).mem = s.mem.clear (s.ovfEntry n e.place) (s.ovfEntry n e.place + 256) := by
  unfold State.clearDir
  simp only [State.modMem_mem]
  split
  · rename_i e he
    split
    · exact .inr ⟨e, he, ‹_›, rfl⟩
    · exact .inl rfl
  · exact .inl rfl

theorem State.clearDir_wf {s : State} (h : s.mem.wf = true) (n line : Nat) : (s.clearDir n line).mem.wf = true := by
  obtain e | ⟨_, _, _, e⟩ := s.clearDir_mem n line <;> rw [e]
  · exact h
  · exact Store.clear_wf h _ _

@[simp] theorem State.thread_clearDir (s : State) (n line m k : Nat) : (s.clearDir n line).thread m k = s.thread m k := by
  unfold State.clearDir
  simp only [State.thread_modMem]
  split
  · split <;> rfl
  · rfl

/-- The L1Ds that drop a line leave memory, threads and directories. -/
theorem State.foldl_dropLine (line : Nat) (l : List Nat) (s : State) :
    (l.foldl (fun s k => s.modCell k (Cell.dropLine line)) s).mem = s.mem
      ∧ (∀ m k, (l.foldl (fun s k => s.modCell k (Cell.dropLine line)) s).thread m k = s.thread m k)
      ∧ ∀ m, ((l.foldl (fun s k => s.modCell k (Cell.dropLine line)) s).cell m).mem.dir = (s.cell m).mem.dir
        ∧ ((l.foldl (fun s k => s.modCell k (Cell.dropLine line)) s).cell m).mem.dirOvf = (s.cell m).mem.dirOvf := by
  induction l generalizing s with
  | nil => exact ⟨rfl, fun _ _ => rfl, fun _ => ⟨rfl, rfl⟩⟩
  | cons a l ih =>
    obtain ⟨h1, h2, h3⟩ := ih (s.modCell a (Cell.dropLine line))
    have e : ∀ m, ((s.modCell a (Cell.dropLine line)).cell m).mem.dir = (s.cell m).mem.dir
        ∧ ((s.modCell a (Cell.dropLine line)).cell m).mem.dirOvf = (s.cell m).mem.dirOvf := by
      intro m; rw [State.cell_modCell]; split
      · subst_vars; exact ⟨rfl, rfl⟩
      · exact ⟨rfl, rfl⟩
    exact ⟨h1, fun m k => (h2 m k).trans (State.thread_modCell _ _ _ _ _ rfl),
      fun m => ⟨(h3 m).1.trans (e m).1, (h3 m).2.trans (e m).2⟩⟩

theorem State.dropSharers_wf {s : State} (h : s.mem.wf = true) (n line : Nat) : (s.dropSharers n line).mem.wf = true := by
  unfold State.dropSharers
  split
  · exact h
  · rename_i e _
    exact State.clearDir_wf ((State.foldl_dropLine line e.sharers s).1 ▸ h) n line

@[simp] theorem State.thread_dropSharers (s : State) (n line m k : Nat) : (s.dropSharers n line).thread m k = s.thread m k := by
  unfold State.dropSharers
  split
  · rfl
  · rename_i e _
    rw [State.thread_clearDir]; exact (State.foldl_dropLine line e.sharers s).2.1 m k

/-- Memory after the sharers of a line have dropped it. -/
theorem State.dropSharers_mem (s : State) (n line : Nat) :
    (s.dropSharers n line).mem = s.mem ∨ ∃ e, s.dirEnt n line = some e ∧ e.ovf = true ∧
      (s.dropSharers n line).mem = s.mem.clear (s.ovfEntry n e.place) (s.ovfEntry n e.place + 256) := by
  unfold State.dropSharers
  split
  · exact .inl rfl
  · rename_i e he
    obtain ⟨h1, -, h3⟩ := State.foldl_dropLine line e.sharers s
    have hd : (e.sharers.foldl (fun s k => s.modCell k (Cell.dropLine line)) s).dirEnt n line = s.dirEnt n line := by
      unfold State.dirEnt; rw [(h3 n).1]
    have ho : ∀ p, (e.sharers.foldl (fun s k => s.modCell k (Cell.dropLine line)) s).ovfEntry n p = s.ovfEntry n p := by
      intro p; unfold State.ovfEntry; rw [(h3 n).2]
    obtain h | ⟨e', he', hv, h⟩ := State.clearDir_mem (e.sharers.foldl (fun s k => s.modCell k (Cell.dropLine line)) s) n line
    · exact .inl (h.trans h1)
    · rw [hd, he] at he'; cases he'
      exact .inr ⟨e, he, hv, by rw [h, h1, ho]⟩

theorem State.bankWrite_wf {s : State} (h : s.mem.wf = true) (who : Option Nat) (pa : Nat) (bs : List Byte) :
    (s.bankWrite who pa bs).mem.wf = true := by
  unfold State.bankWrite
  split
  · exact State.put_wf h pa bs
  · exact State.put_wf (State.dropSharers_wf h _ _) pa bs

theorem State.bankWrites_wf {s : State} (h : s.mem.wf = true) (who : Option Nat) (pa : Nat) (bs : List Byte) (k : Nat) :
    (s.bankWrites who pa bs k).mem.wf = true := by
  induction k generalizing s pa bs with
  | zero => exact h
  | succ k ih =>
    unfold State.bankWrites
    split
    · exact h
    · exact ih (State.bankWrite_wf h who pa _) _ _

/-- What a write at a bank leaves of each byte: the written ones hold the new values; every other byte stands, but for the overflow entry
that the line's directory entry may have had. -/
theorem State.get_bankWrite {s : State} (h : s.mem.wf = true) (who : Option Nat) (pa : Nat) (bs : List Byte) (a : Nat) :
    (pa ≤ a ∧ a < pa + bs.length → (s.bankWrite who pa bs).mem.get a = bs.getD (a - pa) 0#8)
    ∧ (¬(pa ≤ a ∧ a < pa + bs.length) →
        (∀ n o e, homeOf pa = some (n, o) → s.dirEnt n (lineOf pa) = some e → e.ovf = true →
          a < s.ovfEntry n e.place ∨ s.ovfEntry n e.place + 256 ≤ a) →
        (s.bankWrite who pa bs).mem.get a = s.mem.get a) := by
  unfold State.bankWrite
  split
  · rw [State.get_put h]
    exact ⟨fun i => if_pos i, fun i _ => if_neg i⟩
  · rename_i n o hn
    dsimp only
    rw [State.get_put (by rw [State.modCell_mem]; exact State.dropSharers_wf h _ _)]
    refine ⟨fun i => if_pos i, fun i hov => ?_⟩
    rw [if_neg i, State.modCell_mem]
    obtain e | ⟨e, he, hv, e'⟩ := s.dropSharers_mem n (lineOf pa)
    · rw [e]
    · have := hov n o e hn he hv
      rw [e', Store.get_clear, if_neg (by omega)]

/-! ### Registers -/

@[simp] theorem Thread.reg_x0 (th : Thread) : th.reg .x 0 = 0 := rfl
@[simp] theorem Thread.full_x0 (th : Thread) : th.full .x 0 = true := rfl
@[simp] theorem Thread.setReg_x0 (th : Thread) (v : Word) : th.setReg .x 0 v = th := rfl
@[simp] theorem Thread.setFull_x0 (th : Thread) (b : Bool) : th.setFull .x 0 b = th := rfl

/-- Writing registers changes nothing but registers. -/
@[simp] theorem Thread.setReg_run (th : Thread) (fl : File) (r : Nat) (v : Word) : (th.setReg fl r v).run = th.run := by
  cases fl <;> simp only [Thread.setReg] <;> split <;> rfl
@[simp] theorem Thread.setReg_ctrl (th : Thread) (fl : File) (r : Nat) (v : Word) : (th.setReg fl r v).ctrl = th.ctrl := by
  cases fl <;> simp only [Thread.setReg] <;> split <;> rfl
theorem settle_fold (l : List PendWrite) (th : Thread) :
    (l.foldl (fun th p => th.setReg p.file p.reg p.value) th).run = th.run
      ∧ (l.foldl (fun th p => th.setReg p.file p.reg p.value) th).ctrl = th.ctrl := by
  induction l generalizing th with
  | nil => exact ⟨rfl, rfl⟩
  | cons p l ih => obtain ⟨h1, h2⟩ := ih (th.setReg p.file p.reg p.value); exact ⟨by simpa using h1, by simpa using h2⟩
@[simp] theorem settle_run (th : Thread) (now : Nat) : (th.settle now).run = th.run := (settle_fold _ th).1
@[simp] theorem settle_ctrl (th : Thread) (now : Nat) : (th.settle now).ctrl = th.ctrl := (settle_fold _ th).2

/-- A register reads what was written to it. -/
theorem Thread.reg_setReg_self (th : Thread) (fl : File) (r : Nat) (v : Word) (h0 : ¬(fl = .x ∧ r = 0))
    (hf : fl = .x ∨ fl = .f ∨ fl = .w ∨ fl = .q) (hr : r < fl.size) : (th.setReg fl r v).reg fl r = v := by
  cases fl <;> simp only [File.size] at hr <;> simp only [Thread.setReg, Thread.reg] <;> try (simp at hf)
  · have : r ≠ 0 := fun e => h0 ⟨rfl, e⟩
    rw [if_neg this, if_neg this, vget_vset _ _ _ _ hr, if_pos rfl]
  all_goals rw [vget_vset _ _ _ _ hr, if_pos rfl]

/-- Another register reads as before. -/
theorem Thread.reg_setReg_ne (th : Thread) (fl fl' : File) (r r' : Nat) (v : Word) (h : (fl', r') ≠ (fl, r)) :
    (th.setReg fl r v).reg fl' r' = th.reg fl' r' := by
  have ne : fl' = fl → r' ≠ r := fun a b => h (by rw [a, b])
  cases fl
  · by_cases z : r = 0
    · simp only [Thread.setReg, if_pos z]
    · cases fl' <;> simp only [Thread.setReg, if_neg z, Thread.reg]
      split
      · rfl
      · exact vget_vset_ne _ _ _ _ (ne rfl)
  all_goals cases fl' <;> first | rfl | exact vget_vset_ne _ _ _ _ (ne rfl)

/-! ### The issue of an instruction -/

/-- The device is not at a paused thread, and its instruction is not waiting for anything: what an issue then does. -/
theorem gate_of_issues {i : Instr} {g : Sig} {A : Args} {s : State} (h : Issues i g A s) : gate i g s.startIssue = .go A := by
  obtain ⟨hs, hA, -, hc, hr, hn, hf, hq, hb⟩ := h
  have hth : s.startIssue.thread s.cur.1 s.cur.2 = s.issuer := rfl
  have hcur : s.startIssue.cur = s.cur := rfl
  unfold gate
  simp only [hcur, hth]
  have hregs : ∀ B : Args, (B.fd, B.d) = (A.fd, A.d) → (B.fa, B.a) = (A.fa, A.a) → (B.fb, B.b) = (A.fb, A.b) → (B.fe, B.e) = (A.fe, A.e) →
      B.regs g = A.regs g ∧ B.sources i g = A.sources i g := by
    intro B h1 h2 h3 h4; unfold Args.regs Args.sources; rw [h1, h2, h3, h4]; exact ⟨rfl, rfl⟩
  obtain ⟨e1, -⟩ := hregs (argsOf g s.cur.1 s.cur.2 s.issuer.ctrl.repIdx.toNat (vaOf s.issuer.pc)) (by rw [hA]) (by rw [hA]) (by rw [hA]) (by rw [hA])
  have hall : ((A.regs g).all fun p => s.issuer.full p.1 p.2) = true := by simpa using hf
  have hn' : ¬g.ctl.count ≤ s.issuer.ctrl.repIdx.toNat := by omega
  simp only [e1, hc, hr, if_neg hn', hall, Bool.not_true, Bool.false_eq_true, if_false]
  have hnone : (if s.issuer.ctrl.scoreEn = true then
      (A.regs g).find? fun p => s.issuer.score.any fun q => decide (q.file = p.1) && decide (q.reg = p.2) && decide (0 < q.left) else none) = none := by
    split
    · rw [List.find?_eq_none]
      intro p hp hany
      simp only [List.any_eq_true, Bool.and_eq_true, decide_eq_true_eq] at hany
      obtain ⟨q, hq1, ⟨hq2, hq3⟩, hq4⟩ := hany
      have := hq ‹_› p hp q hq1 hq2 hq3
      omega
    · rfl
  rw [hnone]
  dsimp only
  have hb' : (argsOf g s.cur.1 s.cur.2 s.issuer.ctrl.repIdx.toNat (vaOf s.issuer.pc)).damaged i g s.startIssue = false := by
    rw [hA] at hb; exact hb
  rw [hb', hA]; rfl

/-- What an issue amounts to where the instruction issues: the effect, on the state after the checks, and the completion that it asks for. -/
theorem issue_of_issues {i : Instr} {g : Sig} {A : Args} {s : State} (chk : Bool) (body : Args → State → Res) (h : Issues i g A s) :
    issue i chk body s = s.startIssue.conclude A (body A s.startIssue) := by
  have hg := gate_of_issues h
  obtain ⟨hs, hA, ⟨h1, h2, h3, h5, h4⟩, -⟩ := h
  unfold issue
  rw [hs]
  dsimp only
  rw [if_neg (by simp [h1, h2, h3, h5]), hg]
  dsimp only
  have hm : (s.startIssue.thread A.n A.t).run.mismatch = 0 := by
    have hn : A.n = s.cur.1 := by rw [hA]; rfl
    have ht : A.t = s.cur.2 := by rw [hA]; rfl
    rw [hn, ht]
    unfold State.startIssue
    simp only [State.thread_modThread_self, State.thread_modCore]
    exact (settle_run _ _).symm ▸ h4
  have hk : checked chk body A s.startIssue = (s.startIssue, body A s.startIssue) := by
    unfold checked State.checker
    cases chk <;> simp [hm]
  rw [hk]

/-- The same, of an instruction's meaning. -/
theorem run_of_issues {i : Instr} {g : Sig} {A : Args} {s : State} (chk : Bool) (body : Args → State → Res) (h : Issues i g A s) :
    run i chk body s = .next (s.startIssue.conclude A (body A s.startIssue)) := by
  unfold run; rw [issue_of_issues chk body h]

/-- An instruction always has a next state. -/
theorem run_next (i : Instr) (chk : Bool) (body : Args → State → Res) (s : State) : ∃ t, run i chk body s = .next t := ⟨_, rfl⟩

end Sys2Proof.Machine
end

