-- ==== Sys2Proof/Laws/PerInstr.lean ====
section
/-! SUPPORT. Statements about each instruction as syntax, with one lemma per constructor. RoundTrip: the subject that the encoding tables
give an instruction decodes to it, under any chain of prefixes that carries its control part. -/

namespace Sys2Proof.Laws
theorem imm10_join (i : BitVec 10) : i.extractLsb' 5 5 ++ i.extractLsb' 0 5 = i := by
  ext k hk; simp only [BitVec.getElem_append, BitVec.getElem_extractLsb']; split <;> simp_all [BitVec.getLsbD_eq_getElem]
theorem imm15_join (i : BitVec 15) : i.extractLsb' 10 5 ++ i.extractLsb' 5 5 ++ i.extractLsb' 0 5 = i := by
  ext k hk; simp only [BitVec.getElem_append, BitVec.getElem_extractLsb']; repeat' split
  all_goals simp_all [BitVec.getLsbD_eq_getElem]
  all_goals grind
theorem shamt_join : ∀ i : BitVec 6, ((0#4 ++ i).extractLsb' 5 5).extractLsb' 0 1 ++ (0#4 ++ i).extractLsb' 0 5 = i := by decide
theorem shamt_top : ∀ i : BitVec 6, ((0#4 ++ i).extractLsb' 5 5).extractLsb' 1 4 = 0#4 := by decide
theorem cidx_join (f : BitVec 2) (k : BitVec 8) : (f ++ k.extractLsb' 5 3).extractLsb' 0 3 ++ k.extractLsb' 0 5 = k := by
  revert k; revert f; decide
theorem funct2_join : ∀ (f : BitVec 2) (k : BitVec 3), (f ++ k).extractLsb' 3 2 = f := by decide
theorem width_top : ∀ (w : BitVec 1) (o : BitVec 4), (w ++ o).extractLsb' 4 1 = w := by decide
theorem width_low : ∀ (w : BitVec 1) (o : BitVec 4), (w ++ o).extractLsb' 0 4 = o := by decide
theorem gran_low : ∀ n : BitVec 4, (0#1 ++ n).extractLsb' 0 4 = n := by decide
theorem gran_lt : ∀ n : BitVec 4, (0#1 ++ n).toNat < 16 := by decide
theorem gran_pick {α : Type} (n : BitVec 4) (f g : α) : (match (0#1 ++ n).toNat with | 16 => f | _ => g) = g := by
  have := gran_lt n
  split
  · omega
  · rfl

/-- The subject of an instruction decodes to it; its kind is that of its page, and says whether a second word follows. -/
def RoundTrip.Statement (i : Instr) : Prop :=
  ∀ n g, i.enc = some n → i.sig = some g →
    (n.x.kind ≠ 3#2 ∧ (n.x.kind = 2#2 ↔ n.w2.isSome = true) ∧ (n.page = true → n.x.kind = 0#2) ∧ g.page = n.page)
    ∧ ∀ (h : Chain) (p : BitVec 1), h.ctl g.ctl.stall = g.ctl → h.page = (if n.page then some 2#27 else none) →
        decodeSubject h { n.x with stall := g.ctl.stall, p := p } (n.w2.getD 0#32) = some i

theorem RoundTrip.add (c : Ctl) (d : BitVec 5) (a : BitVec 5) (b : BitVec 5) : RoundTrip.Statement (.add c d a b) := by
  intro n g hn hg; cases hn; cases hg
  refine ⟨by simp [encR], fun h p hc hp => ?_⟩
  simp only [decodeSubject, hc, hp]
  rfl
theorem RoundTrip.sub (c : Ctl) (d : BitVec 5) (a : BitVec 5) (b : BitVec 5) : RoundTrip.Statement (.sub c d a b) := by
  intro n g hn hg; cases hn; cases hg
  refine ⟨by simp [encR], fun h p hc hp => ?_⟩
  simp only [decodeSubject, hc, hp]
  rfl
theorem RoundTrip.and (c : Ctl) (d : BitVec 5) (a : BitVec 5) (b : BitVec 5) : RoundTrip.Statement (.and c d a b) := by
  intro n g hn hg; cases hn; cases hg
  refine ⟨by simp [encR], fun h p hc hp => ?_⟩
  simp only [decodeSubject, hc, hp]
  rfl
theorem RoundTrip.or (c : Ctl) (d : BitVec 5) (a : BitVec 5) (b : BitVec 5) : RoundTrip.Statement (.or c d a b) := by
  intro n g hn hg; cases hn; cases hg
  refine ⟨by simp [encR], fun h p hc hp => ?_⟩
  simp only [decodeSubject, hc, hp]
  rfl
theorem RoundTrip.xor (c : Ctl) (d : BitVec 5) (a : BitVec 5) (b : BitVec 5) : RoundTrip.Statement (.xor c d a b) := by
  intro n g hn hg; cases hn; cases hg
  refine ⟨by simp [encR], fun h p hc hp => ?_⟩
  simp only [decodeSubject, hc, hp]
  rfl
theorem RoundTrip.shl (c : Ctl) (d : BitVec 5) (a : BitVec 5) (b : BitVec 5) : RoundTrip.Statement (.shl c d a b) := by
  intro n g hn hg; cases hn; cases hg
  refine ⟨by simp [encR], fun h p hc hp => ?_⟩
  simp only [decodeSubject, hc, hp]
  rfl
theorem RoundTrip.shr (c : Ctl) (d : BitVec 5) (a : BitVec 5) (b : BitVec 5) : RoundTrip.Statement (.shr c d a b) := by
  intro n g hn hg; cases hn; cases hg
  refine ⟨by simp [encR], fun h p hc hp => ?_⟩
  simp only [decodeSubject, hc, hp]
  rfl
theorem RoundTrip.sha (c : Ctl) (d : BitVec 5) (a : BitVec 5) (b : BitVec 5) : RoundTrip.Statement (.sha c d a b) := by
  intro n g hn hg; cases hn; cases hg
  refine ⟨by simp [encR], fun h p hc hp => ?_⟩
  simp only [decodeSubject, hc, hp]
  rfl
theorem RoundTrip.rol (c : Ctl) (d : BitVec 5) (a : BitVec 5) (b : BitVec 5) : RoundTrip.Statement (.rol c d a b) := by
  intro n g hn hg; cases hn; cases hg
  refine ⟨by simp [encR], fun h p hc hp => ?_⟩
  simp only [decodeSubject, hc, hp]
  rfl
theorem RoundTrip.ror (c : Ctl) (d : BitVec 5) (a : BitVec 5) (b : BitVec 5) : RoundTrip.Statement (.ror c d a b) := by
  intro n g hn hg; cases hn; cases hg
  refine ⟨by simp [encR], fun h p hc hp => ?_⟩
  simp only [decodeSubject, hc, hp]
  rfl
theorem RoundTrip.slt (c : Ctl) (d : BitVec 5) (a : BitVec 5) (b : BitVec 5) : RoundTrip.Statement (.slt c d a b) := by
  intro n g hn hg; cases hn; cases hg
  refine ⟨by simp [encR], fun h p hc hp => ?_⟩
  simp only [decodeSubject, hc, hp]
  rfl
theorem RoundTrip.sltu (c : Ctl) (d : BitVec 5) (a : BitVec 5) (b : BitVec 5) : RoundTrip.Statement (.sltu c d a b) := by
  intro n g hn hg; cases hn; cases hg
  refine ⟨by simp [encR], fun h p hc hp => ?_⟩
  simp only [decodeSubject, hc, hp]
  rfl
theorem RoundTrip.min (c : Ctl) (d : BitVec 5) (a : BitVec 5) (b : BitVec 5) : RoundTrip.Statement (.min c d a b) := by
  intro n g hn hg; cases hn; cases hg
  refine ⟨by simp [encR], fun h p hc hp => ?_⟩
  simp only [decodeSubject, hc, hp]
  rfl
theorem RoundTrip.max (c : Ctl) (d : BitVec 5) (a : BitVec 5) (b : BitVec 5) : RoundTrip.Statement (.max c d a b) := by
  intro n g hn hg; cases hn; cases hg
  refine ⟨by simp [encR], fun h p hc hp => ?_⟩
  simp only [decodeSubject, hc, hp]
  rfl
theorem RoundTrip.minu (c : Ctl) (d : BitVec 5) (a : BitVec 5) (b : BitVec 5) : RoundTrip.Statement (.minu c d a b) := by
  intro n g hn hg; cases hn; cases hg
  refine ⟨by simp [encR], fun h p hc hp => ?_⟩
  simp only [decodeSubject, hc, hp]
  rfl
theorem RoundTrip.maxu (c : Ctl) (d : BitVec 5) (a : BitVec 5) (b : BitVec 5) : RoundTrip.Statement (.maxu c d a b) := by
  intro n g hn hg; cases hn; cases hg
  refine ⟨by simp [encR], fun h p hc hp => ?_⟩
  simp only [decodeSubject, hc, hp]
  rfl
theorem RoundTrip.mul (c : Ctl) (d : BitVec 5) (a : BitVec 5) (b : BitVec 5) : RoundTrip.Statement (.mul c d a b) := by
  intro n g hn hg; cases hn; cases hg
  refine ⟨by simp [encR], fun h p hc hp => ?_⟩
  simp only [decodeSubject, hc, hp]
  rfl
theorem RoundTrip.mulh (c : Ctl) (d : BitVec 5) (a : BitVec 5) (b : BitVec 5) : RoundTrip.Statement (.mulh c d a b) := by
  intro n g hn hg; cases hn; cases hg
  refine ⟨by simp [encR], fun h p hc hp => ?_⟩
  simp only [decodeSubject, hc, hp]
  rfl
theorem RoundTrip.mulhu (c : Ctl) (d : BitVec 5) (a : BitVec 5) (b : BitVec 5) : RoundTrip.Statement (.mulhu c d a b) := by
  intro n g hn hg; cases hn; cases hg
  refine ⟨by simp [encR], fun h p hc hp => ?_⟩
  simp only [decodeSubject, hc, hp]
  rfl
theorem RoundTrip.div (c : Ctl) (d : BitVec 5) (a : BitVec 5) (b : BitVec 5) : RoundTrip.Statement (.div c d a b) := by
  intro n g hn hg; cases hn; cases hg
  refine ⟨by simp [encR], fun h p hc hp => ?_⟩
  simp only [decodeSubject, hc, hp]
  rfl
theorem RoundTrip.divu (c : Ctl) (d : BitVec 5) (a : BitVec 5) (b : BitVec 5) : RoundTrip.Statement (.divu c d a b) := by
  intro n g hn hg; cases hn; cases hg
  refine ⟨by simp [encR], fun h p hc hp => ?_⟩
  simp only [decodeSubject, hc, hp]
  rfl
theorem RoundTrip.rem (c : Ctl) (d : BitVec 5) (a : BitVec 5) (b : BitVec 5) : RoundTrip.Statement (.rem c d a b) := by
  intro n g hn hg; cases hn; cases hg
  refine ⟨by simp [encR], fun h p hc hp => ?_⟩
  simp only [decodeSubject, hc, hp]
  rfl
theorem RoundTrip.remu (c : Ctl) (d : BitVec 5) (a : BitVec 5) (b : BitVec 5) : RoundTrip.Statement (.remu c d a b) := by
  intro n g hn hg; cases hn; cases hg
  refine ⟨by simp [encR], fun h p hc hp => ?_⟩
  simp only [decodeSubject, hc, hp]
  rfl
theorem RoundTrip.clz (c : Ctl) (d : BitVec 5) (a : BitVec 5) : RoundTrip.Statement (.clz c d a) := by
  intro n g hn hg; cases hn; cases hg
  refine ⟨by simp [encR], fun h p hc hp => ?_⟩
  simp only [decodeSubject, hc, hp]
  rfl
theorem RoundTrip.ctz (c : Ctl) (d : BitVec 5) (a : BitVec 5) : RoundTrip.Statement (.ctz c d a) := by
  intro n g hn hg; cases hn; cases hg
  refine ⟨by simp [encR], fun h p hc hp => ?_⟩
  simp only [decodeSubject, hc, hp]
  rfl
theorem RoundTrip.popc (c : Ctl) (d : BitVec 5) (a : BitVec 5) : RoundTrip.Statement (.popc c d a) := by
  intro n g hn hg; cases hn; cases hg
  refine ⟨by simp [encR], fun h p hc hp => ?_⟩
  simp only [decodeSubject, hc, hp]
  rfl
theorem RoundTrip.addi (c : Ctl) (d : BitVec 5) (a : BitVec 5) (i : BitVec 10) : RoundTrip.Statement (.addi c d a i) := by
  intro n g hn hg; cases hn; cases hg
  refine ⟨by simp [encR, encI], fun h p hc hp => ?_⟩
  simp only [decodeSubject, hc, hp]
  exact congrArg (fun j => some (Instr.addi c d a j)) (imm10_join i)
theorem RoundTrip.andi (c : Ctl) (d : BitVec 5) (a : BitVec 5) (i : BitVec 10) : RoundTrip.Statement (.andi c d a i) := by
  intro n g hn hg; cases hn; cases hg
  refine ⟨by simp [encR, encI], fun h p hc hp => ?_⟩
  simp only [decodeSubject, hc, hp]
  exact congrArg (fun j => some (Instr.andi c d a j)) (imm10_join i)
theorem RoundTrip.ori (c : Ctl) (d : BitVec 5) (a : BitVec 5) (i : BitVec 10) : RoundTrip.Statement (.ori c d a i) := by
  intro n g hn hg; cases hn; cases hg
  refine ⟨by simp [encR, encI], fun h p hc hp => ?_⟩
  simp only [decodeSubject, hc, hp]
  exact congrArg (fun j => some (Instr.ori c d a j)) (imm10_join i)
theorem RoundTrip.xori (c : Ctl) (d : BitVec 5) (a : BitVec 5) (i : BitVec 10) : RoundTrip.Statement (.xori c d a i) := by
  intro n g hn hg; cases hn; cases hg
  refine ⟨by simp [encR, encI], fun h p hc hp => ?_⟩
  simp only [decodeSubject, hc, hp]
  exact congrArg (fun j => some (Instr.xori c d a j)) (imm10_join i)
theorem RoundTrip.shli (c : Ctl) (d : BitVec 5) (a : BitVec 5) (i : BitVec 6) : RoundTrip.Statement (.shli c d a i) := by
  intro n g hn hg; cases hn; cases hg
  refine ⟨by simp [encR, encI], fun h p hc hp => ?_⟩
  simp only [decodeSubject, hc, hp]
  exact (if_pos (shamt_top i)).trans (congrArg (fun j => some (Instr.shli c d a j)) (shamt_join i))
theorem RoundTrip.shri (c : Ctl) (d : BitVec 5) (a : BitVec 5) (i : BitVec 6) : RoundTrip.Statement (.shri c d a i) := by
  intro n g hn hg; cases hn; cases hg
  refine ⟨by simp [encR, encI], fun h p hc hp => ?_⟩
  simp only [decodeSubject, hc, hp]
  exact (if_pos (shamt_top i)).trans (congrArg (fun j => some (Instr.shri c d a j)) (shamt_join i))
theorem RoundTrip.shai (c : Ctl) (d : BitVec 5) (a : BitVec 5) (i : BitVec 6) : RoundTrip.Statement (.shai c d a i) := by
  intro n g hn hg; cases hn; cases hg
  refine ⟨by simp [encR, encI], fun h p hc hp => ?_⟩
  simp only [decodeSubject, hc, hp]
  exact (if_pos (shamt_top i)).trans (congrArg (fun j => some (Instr.shai c d a j)) (shamt_join i))
theorem RoundTrip.slti (c : Ctl) (d : BitVec 5) (a : BitVec 5) (i : BitVec 10) : RoundTrip.Statement (.slti c d a i) := by
  intro n g hn hg; cases hn; cases hg
  refine ⟨by simp [encR, encI], fun h p hc hp => ?_⟩
  simp only [decodeSubject, hc, hp]
  exact congrArg (fun j => some (Instr.slti c d a j)) (imm10_join i)
theorem RoundTrip.sltiu (c : Ctl) (d : BitVec 5) (a : BitVec 5) (i : BitVec 10) : RoundTrip.Statement (.sltiu c d a i) := by
  intro n g hn hg; cases hn; cases hg
  refine ⟨by simp [encR, encI], fun h p hc hp => ?_⟩
  simp only [decodeSubject, hc, hp]
  exact congrArg (fun j => some (Instr.sltiu c d a j)) (imm10_join i)
theorem RoundTrip.muli (c : Ctl) (d : BitVec 5) (a : BitVec 5) (i : BitVec 10) : RoundTrip.Statement (.muli c d a i) := by
  intro n g hn hg; cases hn; cases hg
  refine ⟨by simp [encR, encI], fun h p hc hp => ?_⟩
  simp only [decodeSubject, hc, hp]
  exact congrArg (fun j => some (Instr.muli c d a j)) (imm10_join i)
theorem RoundTrip.ldc (c : Ctl) (d : BitVec 5) (k : BitVec 8) : RoundTrip.Statement (.ldc c d k) := by
  intro n g hn hg; cases hn; cases hg
  exact ⟨by simp [encR, encC], fun h p hc hp => by simp [decodeSubject, hc, hp, encC, encR, whenZero, decodePage0, decodePage0M11, Fields.cidx, Fields.funct2, cidx_join, funct2_join]⟩
theorem RoundTrip.addc (c : Ctl) (d : BitVec 5) (a : BitVec 5) (k : BitVec 8) : RoundTrip.Statement (.addc c d a k) := by
  intro n g hn hg; cases hn; cases hg
  exact ⟨by simp [encR, encC], fun h p hc hp => by simp [decodeSubject, hc, hp, encC, encR, decodePage0, decodePage0M11, Fields.cidx, Fields.funct2, cidx_join, funct2_join]⟩
theorem RoundTrip.subc (c : Ctl) (d : BitVec 5) (a : BitVec 5) (k : BitVec 8) : RoundTrip.Statement (.subc c d a k) := by
  intro n g hn hg; cases hn; cases hg
  exact ⟨by simp [encR, encC], fun h p hc hp => by simp [decodeSubject, hc, hp, encC, encR, decodePage0, decodePage0M11, Fields.cidx, Fields.funct2, cidx_join, funct2_join]⟩
theorem RoundTrip.mulc (c : Ctl) (d : BitVec 5) (a : BitVec 5) (k : BitVec 8) : RoundTrip.Statement (.mulc c d a k) := by
  intro n g hn hg; cases hn; cases hg
  exact ⟨by simp [encR, encC], fun h p hc hp => by simp [decodeSubject, hc, hp, encC, encR, decodePage0, decodePage0M11, Fields.cidx, Fields.funct2, cidx_join, funct2_join]⟩
theorem RoundTrip.sextB (c : Ctl) (d : BitVec 5) (a : BitVec 5) : RoundTrip.Statement (.sextB c d a) := by
  intro n g hn hg; cases hn; cases hg
  refine ⟨by simp [encR], fun h p hc hp => ?_⟩
  simp only [decodeSubject, hc, hp]
  rfl
theorem RoundTrip.sextH (c : Ctl) (d : BitVec 5) (a : BitVec 5) : RoundTrip.Statement (.sextH c d a) := by
  intro n g hn hg; cases hn; cases hg
  refine ⟨by simp [encR], fun h p hc hp => ?_⟩
  simp only [decodeSubject, hc, hp]
  rfl
theorem RoundTrip.sextW (c : Ctl) (d : BitVec 5) (a : BitVec 5) : RoundTrip.Statement (.sextW c d a) := by
  intro n g hn hg; cases hn; cases hg
  refine ⟨by simp [encR], fun h p hc hp => ?_⟩
  simp only [decodeSubject, hc, hp]
  rfl
theorem RoundTrip.zextB (c : Ctl) (d : BitVec 5) (a : BitVec 5) : RoundTrip.Statement (.zextB c d a) := by
  intro n g hn hg; cases hn; cases hg
  refine ⟨by simp [encR], fun h p hc hp => ?_⟩
  simp only [decodeSubject, hc, hp]
  rfl
theorem RoundTrip.zextH (c : Ctl) (d : BitVec 5) (a : BitVec 5) : RoundTrip.Statement (.zextH c d a) := by
  intro n g hn hg; cases hn; cases hg
  refine ⟨by simp [encR], fun h p hc hp => ?_⟩
  simp only [decodeSubject, hc, hp]
  rfl
theorem RoundTrip.zextW (c : Ctl) (d : BitVec 5) (a : BitVec 5) : RoundTrip.Statement (.zextW c d a) := by
  intro n g hn hg; cases hn; cases hg
  refine ⟨by simp [encR], fun h p hc hp => ?_⟩
  simp only [decodeSubject, hc, hp]
  rfl
theorem RoundTrip.qset (c : Ctl) (d : BitVec 5) (a : BitVec 5) (b : BitVec 5) : RoundTrip.Statement (.qset c d a b) := by
  intro n g hn hg; cases hn; cases hg
  refine ⟨by simp [encR], fun h p hc hp => ?_⟩
  simp only [decodeSubject, hc, hp]
  rfl
theorem RoundTrip.qget (c : Ctl) (d : BitVec 5) (a : BitVec 5) : RoundTrip.Statement (.qget c d a) := by
  intro n g hn hg; cases hn; cases hg
  refine ⟨by simp [encR], fun h p hc hp => ?_⟩
  simp only [decodeSubject, hc, hp]
  rfl
theorem RoundTrip.liw (c : Ctl) (d : BitVec 5) (w2 : BitVec 32) : RoundTrip.Statement (.liw c d w2) := by
  intro n g hn hg; cases hn; cases hg
  refine ⟨by simp [encR], fun h p hc hp => ?_⟩
  simp only [decodeSubject, hc, hp]
  rfl
theorem RoundTrip.addiw (c : Ctl) (d : BitVec 5) (a : BitVec 5) (w2 : BitVec 32) : RoundTrip.Statement (.addiw c d a w2) := by
  intro n g hn hg; cases hn; cases hg
  refine ⟨by simp [encR], fun h p hc hp => ?_⟩
  simp only [decodeSubject, hc, hp]
  rfl
theorem RoundTrip.rdcyc (c : Ctl) (d : BitVec 5) : RoundTrip.Statement (.rdcyc c d) := by
  intro n g hn hg; cases hn; cases hg
  refine ⟨by simp [encR], fun h p hc hp => ?_⟩
  simp only [decodeSubject, hc, hp]
  rfl
theorem RoundTrip.beq (c : Ctl) (a : BitVec 5) (b : BitVec 5) (i : BitVec 10) : RoundTrip.Statement (.beq c a b i) := by
  intro n g hn hg; cases hn; cases hg
  refine ⟨by simp [encR, encI], fun h p hc hp => ?_⟩
  simp only [decodeSubject, hc, hp]
  exact congrArg (fun j => some (Instr.beq c a b j)) (imm10_join i)
theorem RoundTrip.bne (c : Ctl) (a : BitVec 5) (b : BitVec 5) (i : BitVec 10) : RoundTrip.Statement (.bne c a b i) := by
  intro n g hn hg; cases hn; cases hg
  refine ⟨by simp [encR, encI], fun h p hc hp => ?_⟩
  simp only [decodeSubject, hc, hp]
  exact congrArg (fun j => some (Instr.bne c a b j)) (imm10_join i)
theorem RoundTrip.blt (c : Ctl) (a : BitVec 5) (b : BitVec 5) (i : BitVec 10) : RoundTrip.Statement (.blt c a b i) := by
  intro n g hn hg; cases hn; cases hg
  refine ⟨by simp [encR, encI], fun h p hc hp => ?_⟩
  simp only [decodeSubject, hc, hp]
  exact congrArg (fun j => some (Instr.blt c a b j)) (imm10_join i)
theorem RoundTrip.bge (c : Ctl) (a : BitVec 5) (b : BitVec 5) (i : BitVec 10) : RoundTrip.Statement (.bge c a b i) := by
  intro n g hn hg; cases hn; cases hg
  refine ⟨by simp [encR, encI], fun h p hc hp => ?_⟩
  simp only [decodeSubject, hc, hp]
  exact congrArg (fun j => some (Instr.bge c a b j)) (imm10_join i)
theorem RoundTrip.bltu (c : Ctl) (a : BitVec 5) (b : BitVec 5) (i : BitVec 10) : RoundTrip.Statement (.bltu c a b i) := by
  intro n g hn hg; cases hn; cases hg
  refine ⟨by simp [encR, encI], fun h p hc hp => ?_⟩
  simp only [decodeSubject, hc, hp]
  exact congrArg (fun j => some (Instr.bltu c a b j)) (imm10_join i)
theorem RoundTrip.bgeu (c : Ctl) (a : BitVec 5) (b : BitVec 5) (i : BitVec 10) : RoundTrip.Statement (.bgeu c a b i) := by
  intro n g hn hg; cases hn; cases hg
  refine ⟨by simp [encR, encI], fun h p hc hp => ?_⟩
  simp only [decodeSubject, hc, hp]
  exact congrArg (fun j => some (Instr.bgeu c a b j)) (imm10_join i)
theorem RoundTrip.jal (c : Ctl) (d : BitVec 5) (i : BitVec 15) : RoundTrip.Statement (.jal c d i) := by
  intro n g hn hg; cases hn; cases hg
  refine ⟨by simp [encR, encJ], fun h p hc hp => ?_⟩
  simp only [decodeSubject, hc, hp]
  exact congrArg (fun j => some (Instr.jal c d j)) (imm15_join i)
theorem RoundTrip.jalr (c : Ctl) (d : BitVec 5) (a : BitVec 5) (i : BitVec 10) : RoundTrip.Statement (.jalr c d a i) := by
  intro n g hn hg; cases hn; cases hg
  refine ⟨by simp [encR, encI], fun h p hc hp => ?_⟩
  simp only [decodeSubject, hc, hp]
  exact congrArg (fun j => some (Instr.jalr c d a j)) (imm10_join i)
theorem RoundTrip.jalw (c : Ctl) (d : BitVec 5) (w2 : BitVec 32) : RoundTrip.Statement (.jalw c d w2) := by
  intro n g hn hg; cases hn; cases hg
  refine ⟨by simp [encR], fun h p hc hp => ?_⟩
  simp only [decodeSubject, hc, hp]
  rfl
theorem RoundTrip.loop (c : Ctl) (d : BitVec 5) (a : BitVec 5) (b : BitVec 5) : RoundTrip.Statement (.loop c d a b) := by
  intro n g hn hg; cases hn; cases hg
  refine ⟨by simp [encR], fun h p hc hp => ?_⟩
  simp only [decodeSubject, hc, hp]
  rfl
theorem RoundTrip.loopi (c : Ctl) (d : BitVec 5) (a : BitVec 5) (i : BitVec 10) : RoundTrip.Statement (.loopi c d a i) := by
  intro n g hn hg; cases hn; cases hg
  refine ⟨by simp [encR, encI], fun h p hc hp => ?_⟩
  simp only [decodeSubject, hc, hp]
  exact congrArg (fun j => some (Instr.loopi c d a j)) (imm10_join i)
theorem RoundTrip.lpbrk (c : Ctl) (d : BitVec 5) : RoundTrip.Statement (.lpbrk c d) := by
  intro n g hn hg; cases hn; cases hg
  refine ⟨by simp [encR], fun h p hc hp => ?_⟩
  simp only [decodeSubject, hc, hp]
  rfl
theorem RoundTrip.endTask (c : Ctl) : RoundTrip.Statement (.endTask c) := by
  intro n g hn hg; cases hn; cases hg
  refine ⟨by simp [encR], fun h p hc hp => ?_⟩
  simp only [decodeSubject, hc, hp]
  rfl
theorem RoundTrip.ldB (c : Ctl) (d : BitVec 5) (a : BitVec 5) (i : BitVec 10) : RoundTrip.Statement (.ldB c d a i) := by
  intro n g hn hg; cases hn; cases hg
  refine ⟨by simp [encR, encI], fun h p hc hp => ?_⟩
  simp only [decodeSubject, hc, hp]
  exact congrArg (fun j => some (Instr.ldB c d a j)) (imm10_join i)
theorem RoundTrip.ldH (c : Ctl) (d : BitVec 5) (a : BitVec 5) (i : BitVec 10) : RoundTrip.Statement (.ldH c d a i) := by
  intro n g hn hg; cases hn; cases hg
  refine ⟨by simp [encR, encI], fun h p hc hp => ?_⟩
  simp only [decodeSubject, hc, hp]
  exact congrArg (fun j => some (Instr.ldH c d a j)) (imm10_join i)
theorem RoundTrip.ldW (c : Ctl) (d : BitVec 5) (a : BitVec 5) (i : BitVec 10) : RoundTrip.Statement (.ldW c d a i) := by
  intro n g hn hg; cases hn; cases hg
  refine ⟨by simp [encR, encI], fun h p hc hp => ?_⟩
  simp only [decodeSubject, hc, hp]
  exact congrArg (fun j => some (Instr.ldW c d a j)) (imm10_join i)
theorem RoundTrip.ldD (c : Ctl) (d : BitVec 5) (a : BitVec 5) (i : BitVec 10) : RoundTrip.Statement (.ldD c d a i) := by
  intro n g hn hg; cases hn; cases hg
  refine ⟨by simp [encR, encI], fun h p hc hp => ?_⟩
  simp only [decodeSubject, hc, hp]
  exact congrArg (fun j => some (Instr.ldD c d a j)) (imm10_join i)
theorem RoundTrip.stB (c : Ctl) (a : BitVec 5) (b : BitVec 5) (i : BitVec 10) : RoundTrip.Statement (.stB c a b i) := by
  intro n g hn hg; cases hn; cases hg
  refine ⟨by simp [encR, encI], fun h p hc hp => ?_⟩
  simp only [decodeSubject, hc, hp]
  exact congrArg (fun j => some (Instr.stB c a b j)) (imm10_join i)
theorem RoundTrip.stH (c : Ctl) (a : BitVec 5) (b : BitVec 5) (i : BitVec 10) : RoundTrip.Statement (.stH c a b i) := by
  intro n g hn hg; cases hn; cases hg
  refine ⟨by simp [encR, encI], fun h p hc hp => ?_⟩
  simp only [decodeSubject, hc, hp]
  exact congrArg (fun j => some (Instr.stH c a b j)) (imm10_join i)
theorem RoundTrip.stW (c : Ctl) (a : BitVec 5) (b : BitVec 5) (i : BitVec 10) : RoundTrip.Statement (.stW c a b i) := by
  intro n g hn hg; cases hn; cases hg
  refine ⟨by simp [encR, encI], fun h p hc hp => ?_⟩
  simp only [decodeSubject, hc, hp]
  exact congrArg (fun j => some (Instr.stW c a b j)) (imm10_join i)
theorem RoundTrip.stD (c : Ctl) (a : BitVec 5) (b : BitVec 5) (i : BitVec 10) : RoundTrip.Statement (.stD c a b i) := by
  intro n g hn hg; cases hn; cases hg
  refine ⟨by simp [encR, encI], fun h p hc hp => ?_⟩
  simp only [decodeSubject, hc, hp]
  exact congrArg (fun j => some (Instr.stD c a b j)) (imm10_join i)
theorem RoundTrip.ldBu (c : Ctl) (d : BitVec 5) (a : BitVec 5) (i : BitVec 10) : RoundTrip.Statement (.ldBu c d a i) := by
  intro n g hn hg; cases hn; cases hg
  refine ⟨by simp [encR, encI], fun h p hc hp => ?_⟩
  simp only [decodeSubject, hc, hp]
  exact congrArg (fun j => some (Instr.ldBu c d a j)) (imm10_join i)
theorem RoundTrip.ldHu (c : Ctl) (d : BitVec 5) (a : BitVec 5) (i : BitVec 10) : RoundTrip.Statement (.ldHu c d a i) := by
  intro n g hn hg; cases hn; cases hg
  refine ⟨by simp [encR, encI], fun h p hc hp => ?_⟩
  simp only [decodeSubject, hc, hp]
  exact congrArg (fun j => some (Instr.ldHu c d a j)) (imm10_join i)
theorem RoundTrip.ldWu (c : Ctl) (d : BitVec 5) (a : BitVec 5) (i : BitVec 10) : RoundTrip.Statement (.ldWu c d a i) := by
  intro n g hn hg; cases hn; cases hg
  refine ⟨by simp [encR, encI], fun h p hc hp => ?_⟩
  simp only [decodeSubject, hc, hp]
  exact congrArg (fun j => some (Instr.ldWu c d a j)) (imm10_join i)
theorem RoundTrip.ldvB (c : Ctl) (d : BitVec 5) (a : BitVec 5) (i : BitVec 10) : RoundTrip.Statement (.ldvB c d a i) := by
  intro n g hn hg; cases hn; cases hg
  refine ⟨by simp [encR, encI], fun h p hc hp => ?_⟩
  simp only [decodeSubject, hc, hp]
  exact congrArg (fun j => some (Instr.ldvB c d a j)) (imm10_join i)
theorem RoundTrip.ldvH (c : Ctl) (d : BitVec 5) (a : BitVec 5) (i : BitVec 10) : RoundTrip.Statement (.ldvH c d a i) := by
  intro n g hn hg; cases hn; cases hg
  refine ⟨by simp [encR, encI], fun h p hc hp => ?_⟩
  simp only [decodeSubject, hc, hp]
  exact congrArg (fun j => some (Instr.ldvH c d a j)) (imm10_join i)
theorem RoundTrip.ldvW (c : Ctl) (d : BitVec 5) (a : BitVec 5) (i : BitVec 10) : RoundTrip.Statement (.ldvW c d a i) := by
  intro n g hn hg; cases hn; cases hg
  refine ⟨by simp [encR, encI], fun h p hc hp => ?_⟩
  simp only [decodeSubject, hc, hp]
  exact congrArg (fun j => some (Instr.ldvW c d a j)) (imm10_join i)
theorem RoundTrip.ldvD (c : Ctl) (d : BitVec 5) (a : BitVec 5) (i : BitVec 10) : RoundTrip.Statement (.ldvD c d a i) := by
  intro n g hn hg; cases hn; cases hg
  refine ⟨by simp [encR, encI], fun h p hc hp => ?_⟩
  simp only [decodeSubject, hc, hp]
  exact congrArg (fun j => some (Instr.ldvD c d a j)) (imm10_join i)
theorem RoundTrip.ldvBu (c : Ctl) (d : BitVec 5) (a : BitVec 5) (i : BitVec 10) : RoundTrip.Statement (.ldvBu c d a i) := by
  intro n g hn hg; cases hn; cases hg
  refine ⟨by simp [encR, encI], fun h p hc hp => ?_⟩
  simp only [decodeSubject, hc, hp]
  exact congrArg (fun j => some (Instr.ldvBu c d a j)) (imm10_join i)
theorem RoundTrip.ldvHu (c : Ctl) (d : BitVec 5) (a : BitVec 5) (i : BitVec 10) : RoundTrip.Statement (.ldvHu c d a i) := by
  intro n g hn hg; cases hn; cases hg
  refine ⟨by simp [encR, encI], fun h p hc hp => ?_⟩
  simp only [decodeSubject, hc, hp]
  exact congrArg (fun j => some (Instr.ldvHu c d a j)) (imm10_join i)
theorem RoundTrip.ldvWu (c : Ctl) (d : BitVec 5) (a : BitVec 5) (i : BitVec 10) : RoundTrip.Statement (.ldvWu c d a i) := by
  intro n g hn hg; cases hn; cases hg
  refine ⟨by simp [encR, encI], fun h p hc hp => ?_⟩
  simp only [decodeSubject, hc, hp]
  exact congrArg (fun j => some (Instr.ldvWu c d a j)) (imm10_join i)
theorem RoundTrip.stvB (c : Ctl) (a : BitVec 5) (b : BitVec 5) (i : BitVec 10) : RoundTrip.Statement (.stvB c a b i) := by
  intro n g hn hg; cases hn; cases hg
  refine ⟨by simp [encR, encI], fun h p hc hp => ?_⟩
  simp only [decodeSubject, hc, hp]
  exact congrArg (fun j => some (Instr.stvB c a b j)) (imm10_join i)
theorem RoundTrip.stvH (c : Ctl) (a : BitVec 5) (b : BitVec 5) (i : BitVec 10) : RoundTrip.Statement (.stvH c a b i) := by
  intro n g hn hg; cases hn; cases hg
  refine ⟨by simp [encR, encI], fun h p hc hp => ?_⟩
  simp only [decodeSubject, hc, hp]
  exact congrArg (fun j => some (Instr.stvH c a b j)) (imm10_join i)
theorem RoundTrip.stvW (c : Ctl) (a : BitVec 5) (b : BitVec 5) (i : BitVec 10) : RoundTrip.Statement (.stvW c a b i) := by
  intro n g hn hg; cases hn; cases hg
  refine ⟨by simp [encR, encI], fun h p hc hp => ?_⟩
  simp only [decodeSubject, hc, hp]
  exact congrArg (fun j => some (Instr.stvW c a b j)) (imm10_join i)
theorem RoundTrip.stvD (c : Ctl) (a : BitVec 5) (b : BitVec 5) (i : BitVec 10) : RoundTrip.Statement (.stvD c a b i) := by
  intro n g hn hg; cases hn; cases hg
  refine ⟨by simp [encR, encI], fun h p hc hp => ?_⟩
  simp only [decodeSubject, hc, hp]
  exact congrArg (fun j => some (Instr.stvD c a b j)) (imm10_join i)
theorem RoundTrip.amoAdd (c : Ctl) (w : BitVec 1) (d : BitVec 5) (a : BitVec 5) (b : BitVec 5) : RoundTrip.Statement (.amoAdd c w d a b) := by
  intro n g hn hg; cases hn; cases hg
  exact ⟨by simp [encR, encR], fun h p hc hp => by simp [decodeSubject, hc, hp, encR, decodePage0, decodePage0M54, width_top, width_low]⟩
theorem RoundTrip.amoAnd (c : Ctl) (w : BitVec 1) (d : BitVec 5) (a : BitVec 5) (b : BitVec 5) : RoundTrip.Statement (.amoAnd c w d a b) := by
  intro n g hn hg; cases hn; cases hg
  exact ⟨by simp [encR, encR], fun h p hc hp => by simp [decodeSubject, hc, hp, encR, decodePage0, decodePage0M54, width_top, width_low]⟩
theorem RoundTrip.amoOr (c : Ctl) (w : BitVec 1) (d : BitVec 5) (a : BitVec 5) (b : BitVec 5) : RoundTrip.Statement (.amoOr c w d a b) := by
  intro n g hn hg; cases hn; cases hg
  exact ⟨by simp [encR, encR], fun h p hc hp => by simp [decodeSubject, hc, hp, encR, decodePage0, decodePage0M54, width_top, width_low]⟩
theorem RoundTrip.amoXor (c : Ctl) (w : BitVec 1) (d : BitVec 5) (a : BitVec 5) (b : BitVec 5) : RoundTrip.Statement (.amoXor c w d a b) := by
  intro n g hn hg; cases hn; cases hg
  exact ⟨by simp [encR, encR], fun h p hc hp => by simp [decodeSubject, hc, hp, encR, decodePage0, decodePage0M54, width_top, width_low]⟩
theorem RoundTrip.amoMin (c : Ctl) (w : BitVec 1) (d : BitVec 5) (a : BitVec 5) (b : BitVec 5) : RoundTrip.Statement (.amoMin c w d a b) := by
  intro n g hn hg; cases hn; cases hg
  exact ⟨by simp [encR, encR], fun h p hc hp => by simp [decodeSubject, hc, hp, encR, decodePage0, decodePage0M54, width_top, width_low]⟩
theorem RoundTrip.amoMax (c : Ctl) (w : BitVec 1) (d : BitVec 5) (a : BitVec 5) (b : BitVec 5) : RoundTrip.Statement (.amoMax c w d a b) := by
  intro n g hn hg; cases hn; cases hg
  exact ⟨by simp [encR, encR], fun h p hc hp => by simp [decodeSubject, hc, hp, encR, decodePage0, decodePage0M54, width_top, width_low]⟩
theorem RoundTrip.amoMinu (c : Ctl) (w : BitVec 1) (d : BitVec 5) (a : BitVec 5) (b : BitVec 5) : RoundTrip.Statement (.amoMinu c w d a b) := by
  intro n g hn hg; cases hn; cases hg
  exact ⟨by simp [encR, encR], fun h p hc hp => by simp [decodeSubject, hc, hp, encR, decodePage0, decodePage0M54, width_top, width_low]⟩
theorem RoundTrip.amoMaxu (c : Ctl) (w : BitVec 1) (d : BitVec 5) (a : BitVec 5) (b : BitVec 5) : RoundTrip.Statement (.amoMaxu c w d a b) := by
  intro n g hn hg; cases hn; cases hg
  exact ⟨by simp [encR, encR], fun h p hc hp => by simp [decodeSubject, hc, hp, encR, decodePage0, decodePage0M54, width_top, width_low]⟩
theorem RoundTrip.amoSwap (c : Ctl) (w : BitVec 1) (d : BitVec 5) (a : BitVec 5) (b : BitVec 5) : RoundTrip.Statement (.amoSwap c w d a b) := by
  intro n g hn hg; cases hn; cases hg
  exact ⟨by simp [encR, encR], fun h p hc hp => by simp [decodeSubject, hc, hp, encR, decodePage0, decodePage0M54, width_top, width_low]⟩
theorem RoundTrip.amoCas (c : Ctl) (d : BitVec 5) (a : BitVec 5) (b : BitVec 5) (e : BitVec 5) : RoundTrip.Statement (.amoCas c d a b e) := by
  intro n g hn hg; cases hn; cases hg
  refine ⟨by simp [encR], fun h p hc hp => ?_⟩
  simp only [decodeSubject, hc, hp]
  rfl
theorem RoundTrip.decn (c : Ctl) (a : BitVec 5) (b : BitVec 5) : RoundTrip.Statement (.decn c a b) := by
  intro n g hn hg; cases hn; cases hg
  refine ⟨by simp [encR], fun h p hc hp => ?_⟩
  simp only [decodeSubject, hc, hp]
  rfl
theorem RoundTrip.fence (c : Ctl) (i : BitVec 10) : RoundTrip.Statement (.fence c i) := by
  intro n g hn hg; cases hn; cases hg
  refine ⟨by simp [encR, encI], fun h p hc hp => ?_⟩
  simp only [decodeSubject, hc, hp]
  exact congrArg (fun j => some (Instr.fence c j)) (imm10_join i)
theorem RoundTrip.efence (c : Ctl) : RoundTrip.Statement (.efence c) := by
  intro n g hn hg; cases hn; cases hg
  refine ⟨by simp [encR], fun h p hc hp => ?_⟩
  simp only [decodeSubject, hc, hp]
  rfl
theorem RoundTrip.spawn (c : Ctl) (a : BitVec 5) (b : BitVec 5) : RoundTrip.Statement (.spawn c a b) := by
  intro n g hn hg; cases hn; cases hg
  refine ⟨by simp [encR], fun h p hc hp => ?_⟩
  simp only [decodeSubject, hc, hp]
  rfl
theorem RoundTrip.arm (c : Ctl) (a : BitVec 5) (b : BitVec 5) : RoundTrip.Statement (.arm c a b) := by
  intro n g hn hg; cases hn; cases hg
  refine ⟨by simp [encR], fun h p hc hp => ?_⟩
  simp only [decodeSubject, hc, hp]
  rfl
theorem RoundTrip.bara (c : Ctl) (a : BitVec 5) (b : BitVec 5) : RoundTrip.Statement (.bara c a b) := by
  intro n g hn hg; cases hn; cases hg
  refine ⟨by simp [encR], fun h p hc hp => ?_⟩
  simp only [decodeSubject, hc, hp]
  rfl
theorem RoundTrip.barx (c : Ctl) (a : BitVec 5) (b : BitVec 5) : RoundTrip.Statement (.barx c a b) := by
  intro n g hn hg; cases hn; cases hg
  refine ⟨by simp [encR], fun h p hc hp => ?_⟩
  simp only [decodeSubject, hc, hp]
  rfl
theorem RoundTrip.htset (c : Ctl) (a : BitVec 5) (b : BitVec 5) : RoundTrip.Statement (.htset c a b) := by
  intro n g hn hg; cases hn; cases hg
  refine ⟨by simp [encR], fun h p hc hp => ?_⟩
  simp only [decodeSubject, hc, hp]
  rfl
theorem RoundTrip.htclr (c : Ctl) (a : BitVec 5) : RoundTrip.Statement (.htclr c a) := by
  intro n g hn hg; cases hn; cases hg
  refine ⟨by simp [encR], fun h p hc hp => ?_⟩
  simp only [decodeSubject, hc, hp]
  rfl
theorem RoundTrip.csrr (c : Ctl) (d : BitVec 5) (i : BitVec 10) : RoundTrip.Statement (.csrr c d i) := by
  intro n g hn hg; cases hn; cases hg
  refine ⟨by simp [encR, encI], fun h p hc hp => ?_⟩
  simp only [decodeSubject, hc, hp]
  exact congrArg (fun j => some (Instr.csrr c d j)) (imm10_join i)
theorem RoundTrip.csrw (c : Ctl) (a : BitVec 5) (i : BitVec 10) : RoundTrip.Statement (.csrw c a i) := by
  intro n g hn hg; cases hn; cases hg
  refine ⟨by simp [encR, encI], fun h p hc hp => ?_⟩
  simp only [decodeSubject, hc, hp]
  exact congrArg (fun j => some (Instr.csrw c a j)) (imm10_join i)
theorem RoundTrip.tlbi (c : Ctl) (a : BitVec 5) (b : BitVec 5) : RoundTrip.Statement (.tlbi c a b) := by
  intro n g hn hg; cases hn; cases hg
  refine ⟨by simp [encR], fun h p hc hp => ?_⟩
  simp only [decodeSubject, hc, hp]
  rfl
theorem RoundTrip.halt (c : Ctl) : RoundTrip.Statement (.halt c) := by
  intro n g hn hg; cases hn; cases hg
  refine ⟨by simp [encR], fun h p hc hp => ?_⟩
  simp only [decodeSubject, hc, hp]
  rfl
theorem RoundTrip.brk (c : Ctl) (a : BitVec 5) : RoundTrip.Statement (.brk c a) := by
  intro n g hn hg; cases hn; cases hg
  refine ⟨by simp [encR], fun h p hc hp => ?_⟩
  simp only [decodeSubject, hc, hp]
  rfl
theorem RoundTrip.pwrq (c : Ctl) (d : BitVec 5) (a : BitVec 5) : RoundTrip.Statement (.pwrq c d a) := by
  intro n g hn hg; cases hn; cases hg
  refine ⟨by simp [encR], fun h p hc hp => ?_⟩
  simp only [decodeSubject, hc, hp]
  rfl
theorem RoundTrip.faddS (c : Ctl) (d : BitVec 5) (a : BitVec 5) (b : BitVec 5) : RoundTrip.Statement (.faddS c d a b) := by
  intro n g hn hg; cases hn; cases hg
  refine ⟨by simp [encR], fun h p hc hp => ?_⟩
  simp only [decodeSubject, hc, hp]
  rfl
theorem RoundTrip.fsubS (c : Ctl) (d : BitVec 5) (a : BitVec 5) (b : BitVec 5) : RoundTrip.Statement (.fsubS c d a b) := by
  intro n g hn hg; cases hn; cases hg
  refine ⟨by simp [encR], fun h p hc hp => ?_⟩
  simp only [decodeSubject, hc, hp]
  rfl
theorem RoundTrip.fmulS (c : Ctl) (d : BitVec 5) (a : BitVec 5) (b : BitVec 5) : RoundTrip.Statement (.fmulS c d a b) := by
  intro n g hn hg; cases hn; cases hg
  refine ⟨by simp [encR], fun h p hc hp => ?_⟩
  simp only [decodeSubject, hc, hp]
  rfl
theorem RoundTrip.fdivS (c : Ctl) (d : BitVec 5) (a : BitVec 5) (b : BitVec 5) : RoundTrip.Statement (.fdivS c d a b) := by
  intro n g hn hg; cases hn; cases hg
  refine ⟨by simp [encR], fun h p hc hp => ?_⟩
  simp only [decodeSubject, hc, hp]
  rfl
theorem RoundTrip.fsqrtS (c : Ctl) (d : BitVec 5) (a : BitVec 5) : RoundTrip.Statement (.fsqrtS c d a) := by
  intro n g hn hg; cases hn; cases hg
  refine ⟨by simp [encR], fun h p hc hp => ?_⟩
  simp only [decodeSubject, hc, hp]
  rfl
theorem RoundTrip.fminS (c : Ctl) (d : BitVec 5) (a : BitVec 5) (b : BitVec 5) : RoundTrip.Statement (.fminS c d a b) := by
  intro n g hn hg; cases hn; cases hg
  refine ⟨by simp [encR], fun h p hc hp => ?_⟩
  simp only [decodeSubject, hc, hp]
  rfl
theorem RoundTrip.fmaxS (c : Ctl) (d : BitVec 5) (a : BitVec 5) (b : BitVec 5) : RoundTrip.Statement (.fmaxS c d a b) := by
  intro n g hn hg; cases hn; cases hg
  refine ⟨by simp [encR], fun h p hc hp => ?_⟩
  simp only [decodeSubject, hc, hp]
  rfl
theorem RoundTrip.fcsgnS (c : Ctl) (d : BitVec 5) (a : BitVec 5) (b : BitVec 5) : RoundTrip.Statement (.fcsgnS c d a b) := by
  intro n g hn hg; cases hn; cases hg
  refine ⟨by simp [encR], fun h p hc hp => ?_⟩
  simp only [decodeSubject, hc, hp]
  rfl
theorem RoundTrip.fnsgnS (c : Ctl) (d : BitVec 5) (a : BitVec 5) (b : BitVec 5) : RoundTrip.Statement (.fnsgnS c d a b) := by
  intro n g hn hg; cases hn; cases hg
  refine ⟨by simp [encR], fun h p hc hp => ?_⟩
  simp only [decodeSubject, hc, hp]
  rfl
theorem RoundTrip.fxsgnS (c : Ctl) (d : BitVec 5) (a : BitVec 5) (b : BitVec 5) : RoundTrip.Statement (.fxsgnS c d a b) := by
  intro n g hn hg; cases hn; cases hg
  refine ⟨by simp [encR], fun h p hc hp => ?_⟩
  simp only [decodeSubject, hc, hp]
  rfl
theorem RoundTrip.fcmpqS (c : Ctl) (d : BitVec 5) (a : BitVec 5) (b : BitVec 5) : RoundTrip.Statement (.fcmpqS c d a b) := by
  intro n g hn hg; cases hn; cases hg
  refine ⟨by simp [encR], fun h p hc hp => ?_⟩
  simp only [decodeSubject, hc, hp]
  rfl
theorem RoundTrip.fcmpsS (c : Ctl) (d : BitVec 5) (a : BitVec 5) (b : BitVec 5) : RoundTrip.Statement (.fcmpsS c d a b) := by
  intro n g hn hg; cases hn; cases hg
  refine ⟨by simp [encR], fun h p hc hp => ?_⟩
  simp only [decodeSubject, hc, hp]
  rfl
theorem RoundTrip.ftypeS (c : Ctl) (d : BitVec 5) (a : BitVec 5) : RoundTrip.Statement (.ftypeS c d a) := by
  intro n g hn hg; cases hn; cases hg
  refine ⟨by simp [encR], fun h p hc hp => ?_⟩
  simp only [decodeSubject, hc, hp]
  rfl
theorem RoundTrip.faddD (c : Ctl) (d : BitVec 5) (a : BitVec 5) (b : BitVec 5) : RoundTrip.Statement (.faddD c d a b) := by
  intro n g hn hg; cases hn; cases hg
  refine ⟨by simp [encR], fun h p hc hp => ?_⟩
  simp only [decodeSubject, hc, hp]
  rfl
theorem RoundTrip.fsubD (c : Ctl) (d : BitVec 5) (a : BitVec 5) (b : BitVec 5) : RoundTrip.Statement (.fsubD c d a b) := by
  intro n g hn hg; cases hn; cases hg
  refine ⟨by simp [encR], fun h p hc hp => ?_⟩
  simp only [decodeSubject, hc, hp]
  rfl
theorem RoundTrip.fmulD (c : Ctl) (d : BitVec 5) (a : BitVec 5) (b : BitVec 5) : RoundTrip.Statement (.fmulD c d a b) := by
  intro n g hn hg; cases hn; cases hg
  refine ⟨by simp [encR], fun h p hc hp => ?_⟩
  simp only [decodeSubject, hc, hp]
  rfl
theorem RoundTrip.fdivD (c : Ctl) (d : BitVec 5) (a : BitVec 5) (b : BitVec 5) : RoundTrip.Statement (.fdivD c d a b) := by
  intro n g hn hg; cases hn; cases hg
  refine ⟨by simp [encR], fun h p hc hp => ?_⟩
  simp only [decodeSubject, hc, hp]
  rfl
theorem RoundTrip.fsqrtD (c : Ctl) (d : BitVec 5) (a : BitVec 5) : RoundTrip.Statement (.fsqrtD c d a) := by
  intro n g hn hg; cases hn; cases hg
  refine ⟨by simp [encR], fun h p hc hp => ?_⟩
  simp only [decodeSubject, hc, hp]
  rfl
theorem RoundTrip.fminD (c : Ctl) (d : BitVec 5) (a : BitVec 5) (b : BitVec 5) : RoundTrip.Statement (.fminD c d a b) := by
  intro n g hn hg; cases hn; cases hg
  refine ⟨by simp [encR], fun h p hc hp => ?_⟩
  simp only [decodeSubject, hc, hp]
  rfl
theorem RoundTrip.fmaxD (c : Ctl) (d : BitVec 5) (a : BitVec 5) (b : BitVec 5) : RoundTrip.Statement (.fmaxD c d a b) := by
  intro n g hn hg; cases hn; cases hg
  refine ⟨by simp [encR], fun h p hc hp => ?_⟩
  simp only [decodeSubject, hc, hp]
  rfl
theorem RoundTrip.fcsgnD (c : Ctl) (d : BitVec 5) (a : BitVec 5) (b : BitVec 5) : RoundTrip.Statement (.fcsgnD c d a b) := by
  intro n g hn hg; cases hn; cases hg
  refine ⟨by simp [encR], fun h p hc hp => ?_⟩
  simp only [decodeSubject, hc, hp]
  rfl
theorem RoundTrip.fnsgnD (c : Ctl) (d : BitVec 5) (a : BitVec 5) (b : BitVec 5) : RoundTrip.Statement (.fnsgnD c d a b) := by
  intro n g hn hg; cases hn; cases hg
  refine ⟨by simp [encR], fun h p hc hp => ?_⟩
  simp only [decodeSubject, hc, hp]
  rfl
theorem RoundTrip.fxsgnD (c : Ctl) (d : BitVec 5) (a : BitVec 5) (b : BitVec 5) : RoundTrip.Statement (.fxsgnD c d a b) := by
  intro n g hn hg; cases hn; cases hg
  refine ⟨by simp [encR], fun h p hc hp => ?_⟩
  simp only [decodeSubject, hc, hp]
  rfl
theorem RoundTrip.fcmpqD (c : Ctl) (d : BitVec 5) (a : BitVec 5) (b : BitVec 5) : RoundTrip.Statement (.fcmpqD c d a b) := by
  intro n g hn hg; cases hn; cases hg
  refine ⟨by simp [encR], fun h p hc hp => ?_⟩
  simp only [decodeSubject, hc, hp]
  rfl
theorem RoundTrip.fcmpsD (c : Ctl) (d : BitVec 5) (a : BitVec 5) (b : BitVec 5) : RoundTrip.Statement (.fcmpsD c d a b) := by
  intro n g hn hg; cases hn; cases hg
  refine ⟨by simp [encR], fun h p hc hp => ?_⟩
  simp only [decodeSubject, hc, hp]
  rfl
theorem RoundTrip.ftypeD (c : Ctl) (d : BitVec 5) (a : BitVec 5) : RoundTrip.Statement (.ftypeD c d a) := by
  intro n g hn hg; cases hn; cases hg
  refine ⟨by simp [encR], fun h p hc hp => ?_⟩
  simp only [decodeSubject, hc, hp]
  rfl
theorem RoundTrip.fmaddS (c : Ctl) (d : BitVec 5) (a : BitVec 5) (b : BitVec 5) (e : BitVec 5) : RoundTrip.Statement (.fmaddS c d a b e) := by
  intro n g hn hg; cases hn; cases hg
  refine ⟨by simp [encR], fun h p hc hp => ?_⟩
  simp only [decodeSubject, hc, hp]
  rfl
theorem RoundTrip.fmsubS (c : Ctl) (d : BitVec 5) (a : BitVec 5) (b : BitVec 5) (e : BitVec 5) : RoundTrip.Statement (.fmsubS c d a b e) := by
  intro n g hn hg; cases hn; cases hg
  refine ⟨by simp [encR], fun h p hc hp => ?_⟩
  simp only [decodeSubject, hc, hp]
  rfl
theorem RoundTrip.fmaddD (c : Ctl) (d : BitVec 5) (a : BitVec 5) (b : BitVec 5) (e : BitVec 5) : RoundTrip.Statement (.fmaddD c d a b e) := by
  intro n g hn hg; cases hn; cases hg
  refine ⟨by simp [encR], fun h p hc hp => ?_⟩
  simp only [decodeSubject, hc, hp]
  rfl
theorem RoundTrip.fmsubD (c : Ctl) (d : BitVec 5) (a : BitVec 5) (b : BitVec 5) (e : BitVec 5) : RoundTrip.Statement (.fmsubD c d a b e) := by
  intro n g hn hg; cases hn; cases hg
  refine ⟨by simp [encR], fun h p hc hp => ?_⟩
  simp only [decodeSubject, hc, hp]
  rfl
theorem RoundTrip.fcvF64F32 (c : Ctl) (d : BitVec 5) (a : BitVec 5) : RoundTrip.Statement (.fcvF64F32 c d a) := by
  intro n g hn hg; cases hn; cases hg
  refine ⟨by simp [encR], fun h p hc hp => ?_⟩
  simp only [decodeSubject, hc, hp]
  rfl
theorem RoundTrip.fcvF32F64 (c : Ctl) (d : BitVec 5) (a : BitVec 5) : RoundTrip.Statement (.fcvF32F64 c d a) := by
  intro n g hn hg; cases hn; cases hg
  refine ⟨by simp [encR], fun h p hc hp => ?_⟩
  simp only [decodeSubject, hc, hp]
  rfl
theorem RoundTrip.fcvF32I32 (c : Ctl) (d : BitVec 5) (a : BitVec 5) : RoundTrip.Statement (.fcvF32I32 c d a) := by
  intro n g hn hg; cases hn; cases hg
  refine ⟨by simp [encR], fun h p hc hp => ?_⟩
  simp only [decodeSubject, hc, hp]
  rfl
theorem RoundTrip.fcvI32F32 (c : Ctl) (d : BitVec 5) (a : BitVec 5) : RoundTrip.Statement (.fcvI32F32 c d a) := by
  intro n g hn hg; cases hn; cases hg
  refine ⟨by simp [encR], fun h p hc hp => ?_⟩
  simp only [decodeSubject, hc, hp]
  rfl
theorem RoundTrip.fcvF32I64 (c : Ctl) (d : BitVec 5) (a : BitVec 5) : RoundTrip.Statement (.fcvF32I64 c d a) := by
  intro n g hn hg; cases hn; cases hg
  refine ⟨by simp [encR], fun h p hc hp => ?_⟩
  simp only [decodeSubject, hc, hp]
  rfl
theorem RoundTrip.fcvI64F32 (c : Ctl) (d : BitVec 5) (a : BitVec 5) : RoundTrip.Statement (.fcvI64F32 c d a) := by
  intro n g hn hg; cases hn; cases hg
  refine ⟨by simp [encR], fun h p hc hp => ?_⟩
  simp only [decodeSubject, hc, hp]
  rfl
theorem RoundTrip.fcvF64I32 (c : Ctl) (d : BitVec 5) (a : BitVec 5) : RoundTrip.Statement (.fcvF64I32 c d a) := by
  intro n g hn hg; cases hn; cases hg
  refine ⟨by simp [encR], fun h p hc hp => ?_⟩
  simp only [decodeSubject, hc, hp]
  rfl
theorem RoundTrip.fcvI32F64 (c : Ctl) (d : BitVec 5) (a : BitVec 5) : RoundTrip.Statement (.fcvI32F64 c d a) := by
  intro n g hn hg; cases hn; cases hg
  refine ⟨by simp [encR], fun h p hc hp => ?_⟩
  simp only [decodeSubject, hc, hp]
  rfl
theorem RoundTrip.fcvF64I64 (c : Ctl) (d : BitVec 5) (a : BitVec 5) : RoundTrip.Statement (.fcvF64I64 c d a) := by
  intro n g hn hg; cases hn; cases hg
  refine ⟨by simp [encR], fun h p hc hp => ?_⟩
  simp only [decodeSubject, hc, hp]
  rfl
theorem RoundTrip.fcvI64F64 (c : Ctl) (d : BitVec 5) (a : BitVec 5) : RoundTrip.Statement (.fcvI64F64 c d a) := by
  intro n g hn hg; cases hn; cases hg
  refine ⟨by simp [encR], fun h p hc hp => ?_⟩
  simp only [decodeSubject, hc, hp]
  rfl
theorem RoundTrip.fcvF32U64 (c : Ctl) (d : BitVec 5) (a : BitVec 5) : RoundTrip.Statement (.fcvF32U64 c d a) := by
  intro n g hn hg; cases hn; cases hg
  refine ⟨by simp [encR], fun h p hc hp => ?_⟩
  simp only [decodeSubject, hc, hp]
  rfl
theorem RoundTrip.fcvU64F32 (c : Ctl) (d : BitVec 5) (a : BitVec 5) : RoundTrip.Statement (.fcvU64F32 c d a) := by
  intro n g hn hg; cases hn; cases hg
  refine ⟨by simp [encR], fun h p hc hp => ?_⟩
  simp only [decodeSubject, hc, hp]
  rfl
theorem RoundTrip.fcvF64U64 (c : Ctl) (d : BitVec 5) (a : BitVec 5) : RoundTrip.Statement (.fcvF64U64 c d a) := by
  intro n g hn hg; cases hn; cases hg
  refine ⟨by simp [encR], fun h p hc hp => ?_⟩
  simp only [decodeSubject, hc, hp]
  rfl
theorem RoundTrip.fcvU64F64 (c : Ctl) (d : BitVec 5) (a : BitVec 5) : RoundTrip.Statement (.fcvU64F64 c d a) := by
  intro n g hn hg; cases hn; cases hg
  refine ⟨by simp [encR], fun h p hc hp => ?_⟩
  simp only [decodeSubject, hc, hp]
  rfl
theorem RoundTrip.fgetD (c : Ctl) (d : BitVec 5) (a : BitVec 5) : RoundTrip.Statement (.fgetD c d a) := by
  intro n g hn hg; cases hn; cases hg
  refine ⟨by simp [encR], fun h p hc hp => ?_⟩
  simp only [decodeSubject, hc, hp]
  rfl
theorem RoundTrip.fsetD (c : Ctl) (d : BitVec 5) (a : BitVec 5) : RoundTrip.Statement (.fsetD c d a) := by
  intro n g hn hg; cases hn; cases hg
  refine ⟨by simp [encR], fun h p hc hp => ?_⟩
  simp only [decodeSubject, hc, hp]
  rfl
theorem RoundTrip.fgetS (c : Ctl) (d : BitVec 5) (a : BitVec 5) : RoundTrip.Statement (.fgetS c d a) := by
  intro n g hn hg; cases hn; cases hg
  refine ⟨by simp [encR], fun h p hc hp => ?_⟩
  simp only [decodeSubject, hc, hp]
  rfl
theorem RoundTrip.fsetS (c : Ctl) (d : BitVec 5) (a : BitVec 5) : RoundTrip.Statement (.fsetS c d a) := by
  intro n g hn hg; cases hn; cases hg
  refine ⟨by simp [encR], fun h p hc hp => ?_⟩
  simp only [decodeSubject, hc, hp]
  rfl
theorem RoundTrip.fldS (c : Ctl) (d : BitVec 5) (a : BitVec 5) (i : BitVec 10) : RoundTrip.Statement (.fldS c d a i) := by
  intro n g hn hg; cases hn; cases hg
  refine ⟨by simp [encR, encI], fun h p hc hp => ?_⟩
  simp only [decodeSubject, hc, hp]
  exact congrArg (fun j => some (Instr.fldS c d a j)) (imm10_join i)
theorem RoundTrip.fldD (c : Ctl) (d : BitVec 5) (a : BitVec 5) (i : BitVec 10) : RoundTrip.Statement (.fldD c d a i) := by
  intro n g hn hg; cases hn; cases hg
  refine ⟨by simp [encR, encI], fun h p hc hp => ?_⟩
  simp only [decodeSubject, hc, hp]
  exact congrArg (fun j => some (Instr.fldD c d a j)) (imm10_join i)
theorem RoundTrip.fstS (c : Ctl) (a : BitVec 5) (b : BitVec 5) (i : BitVec 10) : RoundTrip.Statement (.fstS c a b i) := by
  intro n g hn hg; cases hn; cases hg
  refine ⟨by simp [encR, encI], fun h p hc hp => ?_⟩
  simp only [decodeSubject, hc, hp]
  exact congrArg (fun j => some (Instr.fstS c a b j)) (imm10_join i)
theorem RoundTrip.fstD (c : Ctl) (a : BitVec 5) (b : BitVec 5) (i : BitVec 10) : RoundTrip.Statement (.fstD c a b i) := by
  intro n g hn hg; cases hn; cases hg
  refine ⟨by simp [encR, encI], fun h p hc hp => ?_⟩
  simp only [decodeSubject, hc, hp]
  exact congrArg (fun j => some (Instr.fstD c a b j)) (imm10_join i)
theorem RoundTrip.poalloc (c : Ctl) (d : BitVec 5) : RoundTrip.Statement (.poalloc c d) := by
  intro n g hn hg; cases hn; cases hg
  refine ⟨by simp [encR], fun h p hc hp => ?_⟩
  simp only [decodeSubject, hc, hp]
  rfl
theorem RoundTrip.poallocX (c : Ctl) (d : BitVec 5) (a : BitVec 5) : RoundTrip.Statement (.poallocX c d a) := by
  intro n g hn hg; cases hn; cases hg
  refine ⟨by simp [encR], fun h p hc hp => ?_⟩
  simp only [decodeSubject, hc, hp]
  rfl
theorem RoundTrip.pofree (c : Ctl) (d : BitVec 5) : RoundTrip.Statement (.pofree c d) := by
  intro n g hn hg; cases hn; cases hg
  refine ⟨by simp [encR], fun h p hc hp => ?_⟩
  simp only [decodeSubject, hc, hp]
  rfl
theorem RoundTrip.poadd (c : Ctl) (d : BitVec 5) (a : BitVec 5) (b : BitVec 5) : RoundTrip.Statement (.poadd c d a b) := by
  intro n g hn hg; cases hn; cases hg
  refine ⟨by simp [encR], fun h p hc hp => ?_⟩
  simp only [decodeSubject, hc, hp]
  rfl
theorem RoundTrip.posub (c : Ctl) (d : BitVec 5) (a : BitVec 5) (b : BitVec 5) : RoundTrip.Statement (.posub c d a b) := by
  intro n g hn hg; cases hn; cases hg
  refine ⟨by simp [encR], fun h p hc hp => ?_⟩
  simp only [decodeSubject, hc, hp]
  rfl
theorem RoundTrip.pomul (c : Ctl) (d : BitVec 5) (a : BitVec 5) (b : BitVec 5) : RoundTrip.Statement (.pomul c d a b) := by
  intro n g hn hg; cases hn; cases hg
  refine ⟨by simp [encR], fun h p hc hp => ?_⟩
  simp only [decodeSubject, hc, hp]
  rfl
theorem RoundTrip.podiv (c : Ctl) (d : BitVec 5) (a : BitVec 5) (b : BitVec 5) : RoundTrip.Statement (.podiv c d a b) := by
  intro n g hn hg; cases hn; cases hg
  refine ⟨by simp [encR], fun h p hc hp => ?_⟩
  simp only [decodeSubject, hc, hp]
  rfl
theorem RoundTrip.posqrt (c : Ctl) (d : BitVec 5) (a : BitVec 5) : RoundTrip.Statement (.posqrt c d a) := by
  intro n g hn hg; cases hn; cases hg
  refine ⟨by simp [encR], fun h p hc hp => ?_⟩
  simp only [decodeSubject, hc, hp]
  rfl
theorem RoundTrip.pofma (c : Ctl) (d : BitVec 5) (a : BitVec 5) (b : BitVec 5) (e : BitVec 5) : RoundTrip.Statement (.pofma c d a b e) := by
  intro n g hn hg; cases hn; cases hg
  refine ⟨by simp [encR], fun h p hc hp => ?_⟩
  simp only [decodeSubject, hc, hp]
  rfl
theorem RoundTrip.pocmpEq (c : Ctl) (d : BitVec 5) (a : BitVec 5) (b : BitVec 5) : RoundTrip.Statement (.pocmpEq c d a b) := by
  intro n g hn hg; cases hn; cases hg
  refine ⟨by simp [encR], fun h p hc hp => ?_⟩
  simp only [decodeSubject, hc, hp]
  rfl
theorem RoundTrip.pocmpLt (c : Ctl) (d : BitVec 5) (a : BitVec 5) (b : BitVec 5) : RoundTrip.Statement (.pocmpLt c d a b) := by
  intro n g hn hg; cases hn; cases hg
  refine ⟨by simp [encR], fun h p hc hp => ?_⟩
  simp only [decodeSubject, hc, hp]
  rfl
theorem RoundTrip.pocmpLe (c : Ctl) (d : BitVec 5) (a : BitVec 5) (b : BitVec 5) : RoundTrip.Statement (.pocmpLe c d a b) := by
  intro n g hn hg; cases hn; cases hg
  refine ⟨by simp [encR], fun h p hc hp => ?_⟩
  simp only [decodeSubject, hc, hp]
  rfl
theorem RoundTrip.poldS (c : Ctl) (n : BitVec 4) (d : BitVec 5) (a : BitVec 5) : RoundTrip.Statement (.poldS c n d a) := by
  intro n g hn hg; cases hn; cases hg
  refine ⟨by simp [encR], fun h p hc hp => ?_⟩
  simp [decodeSubject, hc, hp, encR, decodePage1, decodePage1M25, whenZero, gran_low, gran_lt]
  exact gran_pick _ _ _
theorem RoundTrip.poldP (c : Ctl) (d : BitVec 5) (a : BitVec 5) (b : BitVec 5) : RoundTrip.Statement (.poldP c d a b) := by
  intro n g hn hg; cases hn; cases hg
  refine ⟨by simp [encR], fun h p hc hp => ?_⟩
  simp only [decodeSubject, hc, hp]
  rfl
theorem RoundTrip.posvS (c : Ctl) (n : BitVec 4) (d : BitVec 5) (a : BitVec 5) : RoundTrip.Statement (.posvS c n d a) := by
  intro n g hn hg; cases hn; cases hg
  refine ⟨by simp [encR], fun h p hc hp => ?_⟩
  simp [decodeSubject, hc, hp, encR, decodePage1, decodePage1M26, whenZero, gran_low, gran_lt]
  exact gran_pick _ _ _
theorem RoundTrip.posvP (c : Ctl) (d : BitVec 5) (a : BitVec 5) (b : BitVec 5) : RoundTrip.Statement (.posvP c d a b) := by
  intro n g hn hg; cases hn; cases hg
  refine ⟨by simp [encR], fun h p hc hp => ?_⟩
  simp only [decodeSubject, hc, hp]
  rfl
theorem RoundTrip.pocvtPD (c : Ctl) (d : BitVec 5) (a : BitVec 5) : RoundTrip.Statement (.pocvtPD c d a) := by
  intro n g hn hg; cases hn; cases hg
  refine ⟨by simp [encR], fun h p hc hp => ?_⟩
  simp only [decodeSubject, hc, hp]
  rfl
theorem RoundTrip.pocvtPS (c : Ctl) (d : BitVec 5) (a : BitVec 5) : RoundTrip.Statement (.pocvtPS c d a) := by
  intro n g hn hg; cases hn; cases hg
  refine ⟨by simp [encR], fun h p hc hp => ?_⟩
  simp only [decodeSubject, hc, hp]
  rfl
theorem RoundTrip.pocvtPL (c : Ctl) (d : BitVec 5) (a : BitVec 5) : RoundTrip.Statement (.pocvtPL c d a) := by
  intro n g hn hg; cases hn; cases hg
  refine ⟨by simp [encR], fun h p hc hp => ?_⟩
  simp only [decodeSubject, hc, hp]
  rfl
theorem RoundTrip.pocvtDP (c : Ctl) (d : BitVec 5) (a : BitVec 5) : RoundTrip.Statement (.pocvtDP c d a) := by
  intro n g hn hg; cases hn; cases hg
  refine ⟨by simp [encR], fun h p hc hp => ?_⟩
  simp only [decodeSubject, hc, hp]
  rfl
theorem RoundTrip.pocvtSP (c : Ctl) (d : BitVec 5) (a : BitVec 5) : RoundTrip.Statement (.pocvtSP c d a) := by
  intro n g hn hg; cases hn; cases hg
  refine ⟨by simp [encR], fun h p hc hp => ?_⟩
  simp only [decodeSubject, hc, hp]
  rfl
theorem RoundTrip.pocvtLP (c : Ctl) (d : BitVec 5) (a : BitVec 5) : RoundTrip.Statement (.pocvtLP c d a) := by
  intro n g hn hg; cases hn; cases hg
  refine ⟨by simp [encR], fun h p hc hp => ?_⟩
  simp only [decodeSubject, hc, hp]
  rfl
theorem RoundTrip.pocvtPP (c : Ctl) (d : BitVec 5) (a : BitVec 5) : RoundTrip.Statement (.pocvtPP c d a) := by
  intro n g hn hg; cases hn; cases hg
  refine ⟨by simp [encR], fun h p hc hp => ?_⟩
  simp only [decodeSubject, hc, hp]
  rfl
theorem RoundTrip.podot (c : Ctl) (d : BitVec 5) (a : BitVec 5) (b : BitVec 5) (e : BitVec 5) : RoundTrip.Statement (.podot c d a b e) := by
  intro n g hn hg; cases hn; cases hg
  refine ⟨by simp [encR], fun h p hc hp => ?_⟩
  simp only [decodeSubject, hc, hp]
  rfl
theorem RoundTrip.tcfg (c : Ctl) (d : BitVec 5) (a : BitVec 5) : RoundTrip.Statement (.tcfg c d a) := by
  intro n g hn hg; cases hn; cases hg
  refine ⟨by simp [encR], fun h p hc hp => ?_⟩
  simp only [decodeSubject, hc, hp]
  rfl
theorem RoundTrip.tzero (c : Ctl) (d : BitVec 5) : RoundTrip.Statement (.tzero c d) := by
  intro n g hn hg; cases hn; cases hg
  refine ⟨by simp [encR], fun h p hc hp => ?_⟩
  simp only [decodeSubject, hc, hp]
  rfl
theorem RoundTrip.tld (c : Ctl) (d : BitVec 5) (a : BitVec 5) : RoundTrip.Statement (.tld c d a) := by
  intro n g hn hg; cases hn; cases hg
  refine ⟨by simp [encR], fun h p hc hp => ?_⟩
  simp only [decodeSubject, hc, hp]
  rfl
theorem RoundTrip.tst (c : Ctl) (d : BitVec 5) (a : BitVec 5) : RoundTrip.Statement (.tst c d a) := by
  intro n g hn hg; cases hn; cases hg
  refine ⟨by simp [encR], fun h p hc hp => ?_⟩
  simp only [decodeSubject, hc, hp]
  rfl
theorem RoundTrip.tldd (c : Ctl) (d : BitVec 5) (a : BitVec 5) (b : BitVec 5) (w2 : BitVec 32) : RoundTrip.Statement (.tldd c d a b w2) := by
  intro n g hn hg; cases hn; cases hg
  refine ⟨by simp [encR], fun h p hc hp => ?_⟩
  simp only [decodeSubject, hc, hp]
  rfl
theorem RoundTrip.tstd (c : Ctl) (d : BitVec 5) (a : BitVec 5) (b : BitVec 5) (w2 : BitVec 32) : RoundTrip.Statement (.tstd c d a b w2) := by
  intro n g hn hg; cases hn; cases hg
  refine ⟨by simp [encR], fun h p hc hp => ?_⟩
  simp only [decodeSubject, hc, hp]
  rfl
theorem RoundTrip.twait (c : Ctl) (d : BitVec 5) (a : BitVec 5) : RoundTrip.Statement (.twait c d a) := by
  intro n g hn hg; cases hn; cases hg
  refine ⟨by simp [encR], fun h p hc hp => ?_⟩
  simp only [decodeSubject, hc, hp]
  rfl
theorem RoundTrip.wld (c : Ctl) (a : BitVec 5) (b : BitVec 5) : RoundTrip.Statement (.wld c a b) := by
  intro n g hn hg; cases hn; cases hg
  refine ⟨by simp [encR], fun h p hc hp => ?_⟩
  simp only [decodeSubject, hc, hp]
  rfl
theorem RoundTrip.dtld (c : Ctl) (d : BitVec 5) (a : BitVec 5) (w2 : BitVec 32) : RoundTrip.Statement (.dtld c d a w2) := by
  intro n g hn hg; cases hn; cases hg
  refine ⟨by simp [encR], fun h p hc hp => ?_⟩
  simp only [decodeSubject, hc, hp]
  rfl
theorem RoundTrip.mma (c : Ctl) (d : BitVec 5) (a : BitVec 5) (b : BitVec 5) (e : BitVec 5) : RoundTrip.Statement (.mma c d a b e) := by
  intro n g hn hg; cases hn; cases hg
  refine ⟨by simp [encR], fun h p hc hp => ?_⟩
  simp only [decodeSubject, hc, hp]
  rfl
theorem RoundTrip.mmas (c : Ctl) (d : BitVec 5) (a : BitVec 5) (b : BitVec 5) (e : BitVec 5) : RoundTrip.Statement (.mmas c d a b e) := by
  intro n g hn hg; cases hn; cases hg
  refine ⟨by simp [encR], fun h p hc hp => ?_⟩
  simp only [decodeSubject, hc, hp]
  rfl
theorem RoundTrip.mmao (c : Ctl) (d : BitVec 5) (a : BitVec 5) (b : BitVec 5) (e : BitVec 5) : RoundTrip.Statement (.mmao c d a b e) := by
  intro n g hn hg; cases hn; cases hg
  refine ⟨by simp [encR], fun h p hc hp => ?_⟩
  simp only [decodeSubject, hc, hp]
  rfl
theorem RoundTrip.mmad (c : Ctl) (fn : BitVec 5) (d : BitVec 5) (a : BitVec 5) (b : BitVec 5) (w2 : BitVec 32) : RoundTrip.Statement (.mmad c fn d a b w2) := by
  intro n g hn hg; cases hn; cases hg
  refine ⟨by simp [encR], fun h p hc hp => ?_⟩
  simp only [decodeSubject, hc, hp]
  rfl
theorem RoundTrip.mmasd (c : Ctl) (fn : BitVec 5) (d : BitVec 5) (a : BitVec 5) (b : BitVec 5) (w2 : BitVec 32) : RoundTrip.Statement (.mmasd c fn d a b w2) := by
  intro n g hn hg; cases hn; cases hg
  refine ⟨by simp [encR], fun h p hc hp => ?_⟩
  simp only [decodeSubject, hc, hp]
  rfl
theorem RoundTrip.mmaod (c : Ctl) (fn : BitVec 5) (d : BitVec 5) (a : BitVec 5) (b : BitVec 5) (w2 : BitVec 32) : RoundTrip.Statement (.mmaod c fn d a b w2) := by
  intro n g hn hg; cases hn; cases hg
  refine ⟨by simp [encR], fun h p hc hp => ?_⟩
  simp only [decodeSubject, hc, hp]
  rfl
theorem RoundTrip.vadd (c : Ctl) (t : BitVec 5) (d : BitVec 5) (a : BitVec 5) (b : BitVec 5) : RoundTrip.Statement (.vadd c t d a b) := by
  intro n g hn hg; cases hn; cases hg
  refine ⟨by simp [encR], fun h p hc hp => ?_⟩
  simp only [decodeSubject, hc, hp]
  rfl
theorem RoundTrip.vsub (c : Ctl) (t : BitVec 5) (d : BitVec 5) (a : BitVec 5) (b : BitVec 5) : RoundTrip.Statement (.vsub c t d a b) := by
  intro n g hn hg; cases hn; cases hg
  refine ⟨by simp [encR], fun h p hc hp => ?_⟩
  simp only [decodeSubject, hc, hp]
  rfl
theorem RoundTrip.vmul (c : Ctl) (t : BitVec 5) (d : BitVec 5) (a : BitVec 5) (b : BitVec 5) : RoundTrip.Statement (.vmul c t d a b) := by
  intro n g hn hg; cases hn; cases hg
  refine ⟨by simp [encR], fun h p hc hp => ?_⟩
  simp only [decodeSubject, hc, hp]
  rfl
theorem RoundTrip.vfma (c : Ctl) (d : BitVec 5) (a : BitVec 5) (b : BitVec 5) (e : BitVec 5) : RoundTrip.Statement (.vfma c d a b e) := by
  intro n g hn hg; cases hn; cases hg
  refine ⟨by simp [encR], fun h p hc hp => ?_⟩
  simp only [decodeSubject, hc, hp]
  rfl
theorem RoundTrip.vmax (c : Ctl) (t : BitVec 5) (d : BitVec 5) (a : BitVec 5) (b : BitVec 5) : RoundTrip.Statement (.vmax c t d a b) := by
  intro n g hn hg; cases hn; cases hg
  refine ⟨by simp [encR], fun h p hc hp => ?_⟩
  simp only [decodeSubject, hc, hp]
  rfl
theorem RoundTrip.vmin (c : Ctl) (t : BitVec 5) (d : BitVec 5) (a : BitVec 5) (b : BitVec 5) : RoundTrip.Statement (.vmin c t d a b) := by
  intro n g hn hg; cases hn; cases hg
  refine ⟨by simp [encR], fun h p hc hp => ?_⟩
  simp only [decodeSubject, hc, hp]
  rfl
theorem RoundTrip.vexp2 (c : Ctl) (t : BitVec 5) (d : BitVec 5) (a : BitVec 5) : RoundTrip.Statement (.vexp2 c t d a) := by
  intro n g hn hg; cases hn; cases hg
  refine ⟨by simp [encR], fun h p hc hp => ?_⟩
  simp only [decodeSubject, hc, hp]
  rfl
theorem RoundTrip.vlog2 (c : Ctl) (t : BitVec 5) (d : BitVec 5) (a : BitVec 5) : RoundTrip.Statement (.vlog2 c t d a) := by
  intro n g hn hg; cases hn; cases hg
  refine ⟨by simp [encR], fun h p hc hp => ?_⟩
  simp only [decodeSubject, hc, hp]
  rfl
theorem RoundTrip.vrcp (c : Ctl) (t : BitVec 5) (d : BitVec 5) (a : BitVec 5) : RoundTrip.Statement (.vrcp c t d a) := by
  intro n g hn hg; cases hn; cases hg
  refine ⟨by simp [encR], fun h p hc hp => ?_⟩
  simp only [decodeSubject, hc, hp]
  rfl
theorem RoundTrip.vrsq (c : Ctl) (t : BitVec 5) (d : BitVec 5) (a : BitVec 5) : RoundTrip.Statement (.vrsq c t d a) := by
  intro n g hn hg; cases hn; cases hg
  refine ⟨by simp [encR], fun h p hc hp => ?_⟩
  simp only [decodeSubject, hc, hp]
  rfl
theorem RoundTrip.vtanh (c : Ctl) (t : BitVec 5) (d : BitVec 5) (a : BitVec 5) : RoundTrip.Statement (.vtanh c t d a) := by
  intro n g hn hg; cases hn; cases hg
  refine ⟨by simp [encR], fun h p hc hp => ?_⟩
  simp only [decodeSubject, hc, hp]
  rfl
theorem RoundTrip.vrsum (c : Ctl) (t : BitVec 5) (d : BitVec 5) (a : BitVec 5) : RoundTrip.Statement (.vrsum c t d a) := by
  intro n g hn hg; cases hn; cases hg
  refine ⟨by simp [encR], fun h p hc hp => ?_⟩
  simp only [decodeSubject, hc, hp]
  rfl
theorem RoundTrip.vrmax (c : Ctl) (t : BitVec 5) (d : BitVec 5) (a : BitVec 5) : RoundTrip.Statement (.vrmax c t d a) := by
  intro n g hn hg; cases hn; cases hg
  refine ⟨by simp [encR], fun h p hc hp => ?_⟩
  simp only [decodeSubject, hc, hp]
  rfl
theorem RoundTrip.vcvt (c : Ctl) (t : BitVec 5) (d : BitVec 5) (a : BitVec 5) : RoundTrip.Statement (.vcvt c t d a) := by
  intro n g hn hg; cases hn; cases hg
  refine ⟨by simp [encR], fun h p hc hp => ?_⟩
  simp only [decodeSubject, hc, hp]
  rfl
theorem RoundTrip.vxpose (c : Ctl) (t : BitVec 5) (d : BitVec 5) (a : BitVec 5) : RoundTrip.Statement (.vxpose c t d a) := by
  intro n g hn hg; cases hn; cases hg
  refine ⟨by simp [encR], fun h p hc hp => ?_⟩
  simp only [decodeSubject, hc, hp]
  rfl
theorem RoundTrip.vbcast (c : Ctl) (t : BitVec 5) (d : BitVec 5) (a : BitVec 5) : RoundTrip.Statement (.vbcast c t d a) := by
  intro n g hn hg; cases hn; cases hg
  refine ⟨by simp [encR], fun h p hc hp => ?_⟩
  simp only [decodeSubject, hc, hp]
  rfl
theorem RoundTrip.vscale (c : Ctl) (t : BitVec 5) (d : BitVec 5) (a : BitVec 5) (b : BitVec 5) : RoundTrip.Statement (.vscale c t d a b) := by
  intro n g hn hg; cases hn; cases hg
  refine ⟨by simp [encR], fun h p hc hp => ?_⟩
  simp only [decodeSubject, hc, hp]
  rfl
theorem RoundTrip.vcvtd (c : Ctl) (d : BitVec 5) (a : BitVec 5) (b : BitVec 5) (w2 : BitVec 32) : RoundTrip.Statement (.vcvtd c d a b w2) := by
  intro n g hn hg; cases hn; cases hg
  refine ⟨by simp [encR], fun h p hc hp => ?_⟩
  simp only [decodeSubject, hc, hp]
  rfl
theorem RoundTrip.recStart (c : Ctl) (a : BitVec 5) : RoundTrip.Statement (.recStart c a) := by
  intro n g hn hg; cases hn; cases hg
  refine ⟨by simp [encR], fun h p hc hp => ?_⟩
  simp only [decodeSubject, hc, hp]
  rfl
theorem RoundTrip.recStop (c : Ctl) : RoundTrip.Statement (.recStop c) := by
  intro n g hn hg; cases hn; cases hg
  refine ⟨by simp [encR], fun h p hc hp => ?_⟩
  simp only [decodeSubject, hc, hp]
  rfl
theorem RoundTrip.rvs (c : Ctl) (d : BitVec 5) (a : BitVec 5) : RoundTrip.Statement (.rvs c d a) := by
  intro n g hn hg; cases hn; cases hg
  refine ⟨by simp [encR], fun h p hc hp => ?_⟩
  simp only [decodeSubject, hc, hp]
  rfl
theorem RoundTrip.gmap (c : Ctl) (a : BitVec 5) : RoundTrip.Statement (.gmap c a) := by
  intro n g hn hg; cases hn; cases hg
  refine ⟨by simp [encR], fun h p hc hp => ?_⟩
  simp only [decodeSubject, hc, hp]
  rfl
theorem RoundTrip.send (c : Ctl) (a : BitVec 5) (b : BitVec 5) (w2 : BitVec 32) : RoundTrip.Statement (.send c a b w2) := by
  intro n g hn hg; cases hn; cases hg
  refine ⟨by simp [encR], fun h p hc hp => ?_⟩
  simp only [decodeSubject, hc, hp]
  rfl
theorem RoundTrip.cpy (c : Ctl) (d : BitVec 5) (a : BitVec 5) (b : BitVec 5) (e : BitVec 5) (w2 : BitVec 32) : RoundTrip.Statement (.cpy c d a b e w2) := by
  intro n g hn hg; cases hn; cases hg
  refine ⟨by simp [encR], fun h p hc hp => ?_⟩
  simp only [decodeSubject, hc, hp]
  rfl
theorem RoundTrip.cpym (c : Ctl) (d : BitVec 5) (a : BitVec 5) (b : BitVec 5) (e : BitVec 5) (w2 : BitVec 32) : RoundTrip.Statement (.cpym c d a b e w2) := by
  intro n g hn hg; cases hn; cases hg
  refine ⟨by simp [encR], fun h p hc hp => ?_⟩
  simp only [decodeSubject, hc, hp]
  rfl
theorem RoundTrip.coll (c : Ctl) (d : BitVec 5) (a : BitVec 5) (b : BitVec 5) (e : BitVec 5) (w2 : BitVec 32) : RoundTrip.Statement (.coll c d a b e w2) := by
  intro n g hn hg; cases hn; cases hg
  refine ⟨by simp [encR], fun h p hc hp => ?_⟩
  simp only [decodeSubject, hc, hp]
  rfl
theorem RoundTrip.engp (c : Ctl) (d : BitVec 5) (w2 : BitVec 32) : RoundTrip.Statement (.engp c d w2) := by
  intro n g hn hg; cases hn; cases hg
  refine ⟨by simp [encR], fun h p hc hp => ?_⟩
  simp only [decodeSubject, hc, hp]
  rfl
theorem RoundTrip.engq (c : Ctl) (d : BitVec 5) (w2 : BitVec 32) : RoundTrip.Statement (.engq c d w2) := by
  intro n g hn hg; cases hn; cases hg
  refine ⟨by simp [encR], fun h p hc hp => ?_⟩
  simp only [decodeSubject, hc, hp]
  rfl
theorem RoundTrip.hld (c : Ctl) (d : BitVec 5) (a : BitVec 5) (i : BitVec 10) : RoundTrip.Statement (.hld c d a i) := by
  intro n g hn hg; cases hn; cases hg
  refine ⟨by simp [encR, encI], fun h p hc hp => ?_⟩
  simp only [decodeSubject, hc, hp]
  exact congrArg (fun j => some (Instr.hld c d a j)) (imm10_join i)
theorem RoundTrip.hst (c : Ctl) (a : BitVec 5) (b : BitVec 5) (i : BitVec 10) : RoundTrip.Statement (.hst c a b i) := by
  intro n g hn hg; cases hn; cases hg
  refine ⟨by simp [encR, encI], fun h p hc hp => ?_⟩
  simp only [decodeSubject, hc, hp]
  exact congrArg (fun j => some (Instr.hst c a b j)) (imm10_join i)
theorem RoundTrip.hpf (c : Ctl) (a : BitVec 5) (i : BitVec 10) : RoundTrip.Statement (.hpf c a i) := by
  intro n g hn hg; cases hn; cases hg
  refine ⟨by simp [encR, encI], fun h p hc hp => ?_⟩
  simp only [decodeSubject, hc, hp]
  exact congrArg (fun j => some (Instr.hpf c a j)) (imm10_join i)
theorem RoundTrip.hfl (c : Ctl) (a : BitVec 5) (b : BitVec 5) : RoundTrip.Statement (.hfl c a b) := by
  intro n g hn hg; cases hn; cases hg
  refine ⟨by simp [encR], fun h p hc hp => ?_⟩
  simp only [decodeSubject, hc, hp]
  rfl
theorem RoundTrip.variableLatencyResult (node : Nat) (thr : Nat) (k : Nat) : RoundTrip.Statement (.variableLatencyResult node thr k) := by
  intro n g hn hg; cases hn
theorem RoundTrip.wuInstructionStart (node : Nat) (core : Nat) : RoundTrip.Statement (.wuInstructionStart node core) := by
  intro n g hn hg; cases hn
theorem RoundTrip.wuInstructionComplete (node : Nat) (core : Nat) : RoundTrip.Statement (.wuInstructionComplete node core) := by
  intro n g hn hg; cases hn
theorem RoundTrip.wuFault (node : Nat) (core : Nat) : RoundTrip.Statement (.wuFault node core) := by
  intro n g hn hg; cases hn
theorem RoundTrip.wuSlotBoundary (node : Nat) : RoundTrip.Statement (.wuSlotBoundary node) := by
  intro n g hn hg; cases hn
theorem RoundTrip.ballastWindow (node : Nat) : RoundTrip.Statement (.ballastWindow node) := by
  intro n g hn hg; cases hn
theorem RoundTrip.ballastStart (node : Nat) : RoundTrip.Statement (.ballastStart node) := by
  intro n g hn hg; cases hn
theorem RoundTrip.descriptorInsert (node : Nat) : RoundTrip.Statement (.descriptorInsert node) := by
  intro n g hn hg; cases hn
theorem RoundTrip.pop (node : Nat) : RoundTrip.Statement (.pop node) := by
  intro n g hn hg; cases hn
theorem RoundTrip.runEnd (node : Nat) (thr : Nat) : RoundTrip.Statement (.runEnd node thr) := by
  intro n g hn hg; cases hn
theorem RoundTrip.budgetExpiry (node : Nat) (thr : Nat) : RoundTrip.Statement (.budgetExpiry node thr) := by
  intro n g hn hg; cases hn
theorem RoundTrip.slotInject (node : Nat) (k : Nat) : RoundTrip.Statement (.slotInject node k) := by
  intro n g hn hg; cases hn
theorem RoundTrip.retryTimer (node : Nat) (k : Nat) : RoundTrip.Statement (.retryTimer node k) := by
  intro n g hn hg; cases hn
theorem RoundTrip.ctxSlotDrain (node : Nat) (slot : Nat) : RoundTrip.Statement (.ctxSlotDrain node slot) := by
  intro n g hn hg; cases hn
theorem RoundTrip.ctxSlotIn (node : Nat) (slot : Nat) : RoundTrip.Statement (.ctxSlotIn node slot) := by
  intro n g hn hg; cases hn
theorem RoundTrip.ctxSlotOut (node : Nat) (slot : Nat) : RoundTrip.Statement (.ctxSlotOut node slot) := by
  intro n g hn hg; cases hn
theorem RoundTrip.balanceExchange (node : Nat) : RoundTrip.Statement (.balanceExchange node) := by
  intro n g hn hg; cases hn
theorem RoundTrip.balanceMoveSend (node : Nat) : RoundTrip.Statement (.balanceMoveSend node) := by
  intro n g hn hg; cases hn
theorem RoundTrip.barrierTimeout (node : Nat) (k : Nat) : RoundTrip.Statement (.barrierTimeout node k) := by
  intro n g hn hg; cases hn
theorem RoundTrip.msgLoad (k : Nat) : RoundTrip.Statement (.msgLoad k) := by
  intro n g hn hg; cases hn
theorem RoundTrip.msgStore (k : Nat) : RoundTrip.Statement (.msgStore k) := by
  intro n g hn hg; cases hn
theorem RoundTrip.msgAmo (k : Nat) : RoundTrip.Statement (.msgAmo k) := by
  intro n g hn hg; cases hn
theorem RoundTrip.msgCas (k : Nat) : RoundTrip.Statement (.msgCas k) := by
  intro n g hn hg; cases hn
theorem RoundTrip.msgDecn (k : Nat) : RoundTrip.Statement (.msgDecn k) := by
  intro n g hn hg; cases hn
theorem RoundTrip.msgSend (k : Nat) : RoundTrip.Statement (.msgSend k) := by
  intro n g hn hg; cases hn
theorem RoundTrip.msgSpawn (k : Nat) : RoundTrip.Statement (.msgSpawn k) := by
  intro n g hn hg; cases hn
theorem RoundTrip.msgArm (k : Nat) : RoundTrip.Statement (.msgArm k) := by
  intro n g hn hg; cases hn
theorem RoundTrip.msgBara (k : Nat) : RoundTrip.Statement (.msgBara k) := by
  intro n g hn hg; cases hn
theorem RoundTrip.msgBarx (k : Nat) : RoundTrip.Statement (.msgBarx k) := by
  intro n g hn hg; cases hn
theorem RoundTrip.msgCpy (k : Nat) : RoundTrip.Statement (.msgCpy k) := by
  intro n g hn hg; cases hn
theorem RoundTrip.msgCpym (k : Nat) : RoundTrip.Statement (.msgCpym k) := by
  intro n g hn hg; cases hn
theorem RoundTrip.msgColl (k : Nat) : RoundTrip.Statement (.msgColl k) := by
  intro n g hn hg; cases hn
theorem RoundTrip.engineCommandBegin (node : Nat) (k : Nat) : RoundTrip.Statement (.engineCommandBegin node k) := by
  intro n g hn hg; cases hn
theorem RoundTrip.cpyComplete (node : Nat) (k : Nat) : RoundTrip.Statement (.cpyComplete node k) := by
  intro n g hn hg; cases hn
theorem RoundTrip.cpymComplete (node : Nat) (k : Nat) : RoundTrip.Statement (.cpymComplete node k) := by
  intro n g hn hg; cases hn
theorem RoundTrip.collComplete (node : Nat) (k : Nat) : RoundTrip.Statement (.collComplete node k) := by
  intro n g hn hg; cases hn
theorem RoundTrip.engineFault (node : Nat) (k : Nat) : RoundTrip.Statement (.engineFault node k) := by
  intro n g hn hg; cases hn
theorem RoundTrip.msgContrib (k : Nat) : RoundTrip.Statement (.msgContrib k) := by
  intro n g hn hg; cases hn
theorem RoundTrip.msgResult (k : Nat) : RoundTrip.Statement (.msgResult k) := by
  intro n g hn hg; cases hn
theorem RoundTrip.msgLine (node : Nat) (k : Nat) : RoundTrip.Statement (.msgLine node k) := by
  intro n g hn hg; cases hn
theorem RoundTrip.msgData (k : Nat) : RoundTrip.Statement (.msgData k) := by
  intro n g hn hg; cases hn
theorem RoundTrip.msgAck (k : Nat) : RoundTrip.Statement (.msgAck k) := by
  intro n g hn hg; cases hn
theorem RoundTrip.msgInvack (k : Nat) : RoundTrip.Statement (.msgInvack k) := by
  intro n g hn hg; cases hn
theorem RoundTrip.msgNack (k : Nat) : RoundTrip.Statement (.msgNack k) := by
  intro n g hn hg; cases hn
theorem RoundTrip.msgInval (k : Nat) : RoundTrip.Statement (.msgInval k) := by
  intro n g hn hg; cases hn
theorem RoundTrip.msgTaskmove (k : Nat) : RoundTrip.Statement (.msgTaskmove k) := by
  intro n g hn hg; cases hn
theorem RoundTrip.malformedMessage (k : Nat) : RoundTrip.Statement (.malformedMessage k) := by
  intro n g hn hg; cases hn
theorem RoundTrip.strokePeriod (node : Nat) : RoundTrip.Statement (.strokePeriod node) := by
  intro n g hn hg; cases hn
theorem RoundTrip.msgStroke (k : Nat) : RoundTrip.Statement (.msgStroke k) := by
  intro n g hn hg; cases hn
theorem RoundTrip.msgAccuse (k : Nat) : RoundTrip.Statement (.msgAccuse k) := by
  intro n g hn hg; cases hn
theorem RoundTrip.msgFence (k : Nat) : RoundTrip.Statement (.msgFence k) := by
  intro n g hn hg; cases hn
theorem RoundTrip.msgFreeze (k : Nat) : RoundTrip.Statement (.msgFreeze k) := by
  intro n g hn hg; cases hn
theorem RoundTrip.msgFenced (k : Nat) : RoundTrip.Statement (.msgFenced k) := by
  intro n g hn hg; cases hn
theorem RoundTrip.remapToSpare (lid : Nat) : RoundTrip.Statement (.remapToSpare lid) := by
  intro n g hn hg; cases hn
theorem RoundTrip.msgTest (k : Nat) : RoundTrip.Statement (.msgTest k) := by
  intro n g hn hg; cases hn
theorem RoundTrip.selfTestComplete (phys : Nat) (pass : Bool) (sig : BitVec 32) : RoundTrip.Statement (.selfTestComplete phys pass sig) := by
  intro n g hn hg; cases hn
theorem RoundTrip.msgAppeal (k : Nat) : RoundTrip.Statement (.msgAppeal k) := by
  intro n g hn hg; cases hn
theorem RoundTrip.msgAdmit (k : Nat) : RoundTrip.Statement (.msgAdmit k) := by
  intro n g hn hg; cases hn
theorem RoundTrip.msgRefuse (k : Nat) : RoundTrip.Statement (.msgRefuse k) := by
  intro n g hn hg; cases hn
theorem RoundTrip.msgReopen (k : Nat) : RoundTrip.Statement (.msgReopen k) := by
  intro n g hn hg; cases hn
theorem RoundTrip.msgFault (k : Nat) : RoundTrip.Statement (.msgFault k) := by
  intro n g hn hg; cases hn
theorem RoundTrip.lptEntryFenced (deck : Nat) (lid : Nat) : RoundTrip.Statement (.lptEntryFenced deck lid) := by
  intro n g hn hg; cases hn
theorem RoundTrip.tlbMissRetry (die : Nat) : RoundTrip.Statement (.tlbMissRetry die) := by
  intro n g hn hg; cases hn
theorem RoundTrip.walkComplete (die : Nat) : RoundTrip.Statement (.walkComplete die) := by
  intro n g hn hg; cases hn
theorem RoundTrip.cmdNop  : RoundTrip.Statement (.cmdNop) := by
  intro n g hn hg; cases hn
theorem RoundTrip.cmdLaunch  : RoundTrip.Statement (.cmdLaunch) := by
  intro n g hn hg; cases hn
theorem RoundTrip.cmdLinkmap  : RoundTrip.Statement (.cmdLinkmap) := by
  intro n g hn hg; cases hn
theorem RoundTrip.cmdCtxsetIn  : RoundTrip.Statement (.cmdCtxsetIn) := by
  intro n g hn hg; cases hn
theorem RoundTrip.cmdCtxsetDrain  : RoundTrip.Statement (.cmdCtxsetDrain) := by
  intro n g hn hg; cases hn
theorem RoundTrip.cmdIllegal  : RoundTrip.Statement (.cmdIllegal) := by
  intro n g hn hg; cases hn
theorem RoundTrip.linkmapDrainEnd (timeout : Bool) : RoundTrip.Statement (.linkmapDrainEnd timeout) := by
  intro n g hn hg; cases hn
theorem RoundTrip.linkmapRetuneEnd  : RoundTrip.Statement (.linkmapRetuneEnd) := by
  intro n g hn hg; cases hn
theorem RoundTrip.linkmapTrainEnd (port : Nat) (trained : Bool) (peer : BitVec 12) (peerPort : BitVec 3) : RoundTrip.Statement (.linkmapTrainEnd port trained peer peerPort) := by
  intro n g hn hg; cases hn
theorem RoundTrip.cqTailWrite (v : BitVec 64) : RoundTrip.Statement (.cqTailWrite v) := by
  intro n g hn hg; cases hn
theorem RoundTrip.contextCommit (ctx : Nat) (v : BitVec 64) : RoundTrip.Statement (.contextCommit ctx v) := by
  intro n g hn hg; cases hn
theorem RoundTrip.contextTeardown (ctx : Nat) : RoundTrip.Statement (.contextTeardown ctx) := by
  intro n g hn hg; cases hn
theorem RoundTrip.hostTlbi (v : BitVec 64) : RoundTrip.Statement (.hostTlbi v) := by
  intro n g hn hg; cases hn
theorem RoundTrip.wavelengthPark (port : Nat) (park : BitVec 8) : RoundTrip.Statement (.wavelengthPark port park) := by
  intro n g hn hg; cases hn
theorem RoundTrip.automaticWake (port : Nat) : RoundTrip.Statement (.automaticWake port) := by
  intro n g hn hg; cases hn
theorem RoundTrip.wakeComplete (port : Nat) : RoundTrip.Statement (.wakeComplete port) := by
  intro n g hn hg; cases hn
theorem RoundTrip.opticalFrame (port : Nat) (frame : OptFrame) (crcOk : Bool) : RoundTrip.Statement (.opticalFrame port frame crcOk) := by
  intro n g hn hg; cases hn
theorem RoundTrip.dbgResume (node : Nat) (thr : Nat) : RoundTrip.Statement (.dbgResume node thr) := by
  intro n g hn hg; cases hn
theorem RoundTrip.dbgRetry (node : Nat) (thr : Nat) : RoundTrip.Statement (.dbgRetry node thr) := by
  intro n g hn hg; cases hn
theorem RoundTrip.dbgSkip (node : Nat) (thr : Nat) : RoundTrip.Statement (.dbgSkip node thr) := by
  intro n g hn hg; cases hn
theorem RoundTrip.dbgAbandon (node : Nat) (thr : Nat) : RoundTrip.Statement (.dbgAbandon node thr) := by
  intro n g hn hg; cases hn
theorem RoundTrip.dbgRedeliver (node : Nat) (thr : Nat) : RoundTrip.Statement (.dbgRedeliver node thr) := by
  intro n g hn hg; cases hn
theorem RoundTrip.dbgStep (node : Nat) (thr : Nat) : RoundTrip.Statement (.dbgStep node thr) := by
  intro n g hn hg; cases hn
theorem RoundTrip.dbgFreeze (node : Nat) (thr : Nat) : RoundTrip.Statement (.dbgFreeze node thr) := by
  intro n g hn hg; cases hn
theorem RoundTrip.debugWindowWrite (pa : BitVec 48) (v : BitVec 64) : RoundTrip.Statement (.debugWindowWrite pa v) := by
  intro n g hn hg; cases hn
theorem RoundTrip.registerWrite (host : Bool) (pa : BitVec 48) (v : BitVec 64) : RoundTrip.Statement (.registerWrite host pa v) := by
  intro n g hn hg; cases hn
theorem RoundTrip.hostMemoryAccess (wr : Bool) (pa : BitVec 48) (v : BitVec 64) : RoundTrip.Statement (.hostMemoryAccess wr pa v) := by
  intro n g hn hg; cases hn
theorem RoundTrip.attestationRequest (nonce : List (BitVec 8)) : RoundTrip.Statement (.attestationRequest nonce) := by
  intro n g hn hg; cases hn
theorem RoundTrip.recoveryImage (image : List (BitVec 8)) : RoundTrip.Statement (.recoveryImage image) := by
  intro n g hn hg; cases hn
theorem RoundTrip.temperatureSample (node : Nat) (temp : BitVec 8) : RoundTrip.Statement (.temperatureSample node temp) := by
  intro n g hn hg; cases hn
theorem RoundTrip.ceilingUpdate : RoundTrip.Statement .ceilingUpdate := by
  intro n g hn hg; cases hn
theorem RoundTrip.limitStep (watts10 : BitVec 13) : RoundTrip.Statement (.limitStep watts10) := by
  intro n g hn hg; cases hn
theorem RoundTrip.boostWindowExpiry  : RoundTrip.Statement (.boostWindowExpiry) := by
  intro n g hn hg; cases hn
theorem RoundTrip.boostRecoveryEnd  : RoundTrip.Statement (.boostRecoveryEnd) := by
  intro n g hn hg; cases hn
theorem RoundTrip.opStep (node : Nat) : RoundTrip.Statement (.opStep node) := by
  intro n g hn hg; cases hn
theorem RoundTrip.retentionEntry (node : Nat) : RoundTrip.Statement (.retentionEntry node) := by
  intro n g hn hg; cases hn
theorem RoundTrip.retentionWake (node : Nat) : RoundTrip.Statement (.retentionWake node) := by
  intro n g hn hg; cases hn
theorem RoundTrip.migrationStart (node : Nat) : RoundTrip.Statement (.migrationStart node) := by
  intro n g hn hg; cases hn
theorem RoundTrip.migrationCopy (node : Nat) : RoundTrip.Statement (.migrationCopy node) := by
  intro n g hn hg; cases hn
theorem RoundTrip.migrationSwitch (node : Nat) : RoundTrip.Statement (.migrationSwitch node) := by
  intro n g hn hg; cases hn
theorem RoundTrip.migrationDrain (node : Nat) : RoundTrip.Statement (.migrationDrain node) := by
  intro n g hn hg; cases hn
theorem RoundTrip.overCurrent  : RoundTrip.Statement (.overCurrent) := by
  intro n g hn hg; cases hn
theorem RoundTrip.overVoltage  : RoundTrip.Statement (.overVoltage) := by
  intro n g hn hg; cases hn
theorem RoundTrip.underVoltage  : RoundTrip.Statement (.underVoltage) := by
  intro n g hn hg; cases hn
theorem RoundTrip.powerGoodLoss  : RoundTrip.Statement (.powerGoodLoss) := by
  intro n g hn hg; cases hn
theorem RoundTrip.supplyRecovery (cond : Nat) : RoundTrip.Statement (.supplyRecovery cond) := by
  intro n g hn hg; cases hn
theorem RoundTrip.coolantFault (inlet : BitVec 8) (flow : BitVec 8) : RoundTrip.Statement (.coolantFault inlet flow) := by
  intro n g hn hg; cases hn
theorem RoundTrip.slopeBreach  : RoundTrip.Statement (.slopeBreach) := by
  intro n g hn hg; cases hn
theorem RoundTrip.powerUp  : RoundTrip.Statement (.powerUp) := by
  intro n g hn hg; cases hn
theorem RoundTrip.tamperAlarm  : RoundTrip.Statement (.tamperAlarm) := by
  intro n g hn hg; cases hn
theorem RoundTrip.glitchAlarm  : RoundTrip.Statement (.glitchAlarm) := by
  intro n g hn hg; cases hn
theorem RoundTrip.overtempAlarm  : RoundTrip.Statement (.overtempAlarm) := by
  intro n g hn hg; cases hn
theorem RoundTrip.linkCrcFailure (node : Nat) (dir : Nat) (lanes : Nat) : RoundTrip.Statement (.linkCrcFailure node dir lanes) := by
  intro n g hn hg; cases hn
theorem RoundTrip.linkLost (node : Nat) (dir : Nat) : RoundTrip.Statement (.linkLost node dir) := by
  intro n g hn hg; cases hn
theorem RoundTrip.faultRegionRouting (node : Nat) (dir : Nat) : RoundTrip.Statement (.faultRegionRouting node dir) := by
  intro n g hn hg; cases hn
theorem RoundTrip.laneRecalibration (node : Nat) (dir : Nat) : RoundTrip.Statement (.laneRecalibration node dir) := by
  intro n g hn hg; cases hn
theorem RoundTrip.loftLoss (layer : Nat) (lost : List Nat) : RoundTrip.Statement (.loftLoss layer lost) := by
  intro n g hn hg; cases hn
theorem RoundTrip.eccScrub (node : Nat) (line : Nat) (err : Nat) : RoundTrip.Statement (.eccScrub node line err) := by
  intro n g hn hg; cases hn
theorem RoundTrip.uncorrectableStructureError (node : Nat) (unit : Nat) (k : Nat) (readable : Bool) : RoundTrip.Statement (.uncorrectableStructureError node unit k readable) := by
  intro n g hn hg; cases hn
theorem RoundTrip.decodeFault (cause : BitVec 8) : RoundTrip.Statement (.decodeFault cause) := by
  intro n g hn hg; cases hn
theorem RoundTrip.instructionFetchFault (cause : BitVec 8) (va : BitVec 64) (detail : BitVec 32) : RoundTrip.Statement (.instructionFetchFault cause va detail) := by
  intro n g hn hg; cases hn
theorem RoundTrip.appealAnswerTimeout (phys : Nat) : RoundTrip.Statement (.appealAnswerTimeout phys) := by
  intro n g hn hg; cases hn
theorem RoundTrip.standbyDomainPowerLoss  : RoundTrip.Statement (.standbyDomainPowerLoss) := by
  intro n g hn hg; cases hn

end Sys2Proof.Laws
end

