-- ==== Sys2Proof/Tests/Slice0.lean ====
section
/-! SUPPORT. Tests: each family's words decode to their instructions, the specification's worked examples, one step of many instructions,
what the checks of well-formedness refuse, and, for every statement that has hypotheses, states that meet them. -/

set_option maxRecDepth 100000
set_option Elab.async false

namespace Sys2Proof.Machine
/-- Registers of the current thread. -/
def State.xs (s : State) (l : List (Nat × Word)) : State := s.modThread s.cur.1 s.cur.2 fun th => l.foldl (fun th p => th.setReg .x p.1 p.2) th
def State.fs (s : State) (l : List (Nat × Word)) : State := s.modThread s.cur.1 s.cur.2 fun th => l.foldl (fun th p => th.setReg .f p.1 p.2) th
def State.ws (s : State) (l : List (Nat × Word)) : State := s.modThread s.cur.1 s.cur.2 fun th => l.foldl (fun th p => th.setReg .w p.1 p.2) th
def State.qs (s : State) (l : List (Nat × Word)) : State := s.modThread s.cur.1 s.cur.2 fun th => l.foldl (fun th p => th.setReg .q p.1 p.2) th
def State.run_ (s : State) (f : Run → Run) : State := s.modThread s.cur.1 s.cur.2 fun th => { th with run := f th.run }
def State.ctrl_ (s : State) (f : Ctrl → Ctrl) : State := s.modThread s.cur.1 s.cur.2 fun th => { th with ctrl := f th.ctrl }
/-- The line of an address is poison; the node's errors are precise. -/
def State.bad_ (s : State) (pa : Nat) : State := { s with poison := [pa] }
def State.exact (s : State) : State := s.modErr s.cur.1 fun e => { e with ctl := 0xF3 }
/-- The current context is privileged. -/
def State.privileged (s : State) : State :=
  { s with ctxs := assocSet s.ctxs 0 { words := #v[BitVec.ofNat 64 (0x8000000000000000 + 0x4000000000000000 + placeRoot), 0, 0, 0, 0, 0, 0, 0] } }
/-- Leaves that map the pages of 2^36 bytes: 0 to the local memories, 1 to device system space, 2 to bulk space, 3 to bulk space for reading
only, 4 to host memory, 5 to the first optical port. -/
def State.mapped (s : State) : State :=
  let e : Nat → Nat → TlbEnt := fun p leaf => { die := s.dieOf s.cur.1, ctx := 0, level := 1, vpn := p, leaf := BitVec.ofNat 64 leaf }
  { s with tlb := [e 0 0x1D, e 1 0x40000000001D, e 2 0x1000000001D, e 3 0x10000000005, e 4 0x80000000001D, e 5 0x60000000001D] }
/-- The context's launch covers the whole cube. -/
def State.launched (s : State) : State :=
  { s with cox := { s.cox with launches := [{ seq := 0, ctx := 0, region := { ex := 16, ey := 16, ez := 8 }, sup := none }] } }
/-- The outbox holds `k` messages of `b` bytes. -/
def State.boxed (s : State) (k b : Nat) : State := s.run_ fun r => { r with outbox := List.replicate k { dst := 1, bytes := b }, boxSlots := k, boxBytes := k * b }
/-- The forward buffer holds `k` requests. -/
def State.behind (s : State) (k : Nat) : State := s.modMem s.cur.1 fun m => { m with fwd := List.replicate k { msg := { id := 7, dst := 5 } } }
/-- Cell 5's L1D holds a line of cell 0; cell 0's banks have what `l` says waiting. -/
def State.shared (s : State) (line : Nat) : State := s.modMem 0 fun m => { m with dir := [{ line := line, sharers := [5] }] }
def State.claimed (s : State) (l : List PendReq) : State := s.modMem 0 fun m => { m with pending := l }
/-- `State.mayWrite`, as a computation. -/
def State.mayB (s : State) (n owner : Nat) (lines : List Nat) : Bool :=
  let c := s.claims n owner
  if c.isEmpty then lines.all (s.lineFree n) else decide (c.map PendReq.line = lines) && c.all (s.atHead n)
/-- One message in the network. -/
def State.sent (s : State) (m : Msg) : State := { s with net := [{ m with id := 4 }] }
end Sys2Proof.Machine

namespace Sys2Proof.Tests
open Sys2Proof Sys2Proof.Machine

/-! ### Decoding: one word of every instruction, from the encoding tables of R38 to R59 -/

theorem test_decode_integer_registers_1 :
    decodeWords [0x074D3028#32] = .ok (.add { stall := 5 } 19 6 29)
    ∧ decodeWords [0x0F4D3028#32] = .ok (.sub { stall := 5 } 19 6 29)
    ∧ decodeWords [0x174D3028#32] = .ok (.and { stall := 5 } 19 6 29)
    ∧ decodeWords [0x1F4D3028#32] = .ok (.or { stall := 5 } 19 6 29)
    ∧ decodeWords [0x274D3028#32] = .ok (.xor { stall := 5 } 19 6 29)
    ∧ decodeWords [0x2F4D3028#32] = .ok (.shl { stall := 5 } 19 6 29)
    ∧ decodeWords [0x374D3028#32] = .ok (.shr { stall := 5 } 19 6 29)
    ∧ decodeWords [0x3F4D3028#32] = .ok (.sha { stall := 5 } 19 6 29)
    ∧ decodeWords [0x474D3028#32] = .ok (.rol { stall := 5 } 19 6 29)
    ∧ decodeWords [0x4F4D3028#32] = .ok (.ror { stall := 5 } 19 6 29)
    ∧ decodeWords [0x574D3028#32] = .ok (.slt { stall := 5 } 19 6 29)
    ∧ decodeWords [0x5F4D3028#32] = .ok (.sltu { stall := 5 } 19 6 29)
    ∧ decodeWords [0x674D3028#32] = .ok (.min { stall := 5 } 19 6 29)
    ∧ decodeWords [0x6F4D3028#32] = .ok (.max { stall := 5 } 19 6 29)
    ∧ decodeWords [0x774D3028#32] = .ok (.minu { stall := 5 } 19 6 29)
    ∧ decodeWords [0x7F4D3028#32] = .ok (.maxu { stall := 5 } 19 6 29) := by
  and_intros <;> rfl

theorem test_decode_integer_registers_2 :
    decodeWords [0x874D3028#32] = .ok (.mul { stall := 5 } 19 6 29)
    ∧ decodeWords [0x8F4D3028#32] = .ok (.mulh { stall := 5 } 19 6 29)
    ∧ decodeWords [0x974D3028#32] = .ok (.mulhu { stall := 5 } 19 6 29)
    ∧ decodeWords [0xB80D3028#32] = .ok (.clz { stall := 5 } 19 6)
    ∧ decodeWords [0xC00D3028#32] = .ok (.ctz { stall := 5 } 19 6)
    ∧ decodeWords [0xC80D3028#32] = .ok (.popc { stall := 5 } 19 6)
    ∧ decodeWords [0x9F4D3028#32] = .ok (.div { stall := 5 } 19 6 29)
    ∧ decodeWords [0xA74D3028#32] = .ok (.divu { stall := 5 } 19 6 29)
    ∧ decodeWords [0xAF4D3028#32] = .ok (.rem { stall := 5 } 19 6 29)
    ∧ decodeWords [0xB74D3028#32] = .ok (.remu { stall := 5 } 19 6 29) := by
  and_intros <;> rfl

theorem test_decode_integer_immediates_1 :
    decodeWords [0xAD4D3068#32] = .ok (.addi { stall := 5 } 19 6 693)
    ∧ decodeWords [0xAD4D30A8#32] = .ok (.andi { stall := 5 } 19 6 693)
    ∧ decodeWords [0xAD4D30E8#32] = .ok (.ori { stall := 5 } 19 6 693)
    ∧ decodeWords [0xAD4D3128#32] = .ok (.xori { stall := 5 } 19 6 693)
    ∧ decodeWords [0x0B4D3168#32] = .ok (.shli { stall := 5 } 19 6 45)
    ∧ decodeWords [0x0B4D31A8#32] = .ok (.shri { stall := 5 } 19 6 45)
    ∧ decodeWords [0x0B4D31E8#32] = .ok (.shai { stall := 5 } 19 6 45)
    ∧ decodeWords [0xAD4D3228#32] = .ok (.slti { stall := 5 } 19 6 693)
    ∧ decodeWords [0xAD4D3268#32] = .ok (.sltiu { stall := 5 } 19 6 693)
    ∧ decodeWords [0xAD4D32A8#32] = .ok (.muli { stall := 5 } 19 6 693)
    ∧ decodeWords [0x2D8132E8#32] = .ok (.ldc { stall := 5 } 19 182)
    ∧ decodeWords [0x6D8D32E8#32] = .ok (.addc { stall := 5 } 19 6 182)
    ∧ decodeWords [0xAD8D32E8#32] = .ok (.subc { stall := 5 } 19 6 182)
    ∧ decodeWords [0xED8D32E8#32] = .ok (.mulc { stall := 5 } 19 6 182)
    ∧ decodeWords [0x000D3328#32] = .ok (.sextB { stall := 5 } 19 6)
    ∧ decodeWords [0x080D3328#32] = .ok (.sextH { stall := 5 } 19 6) := by
  and_intros <;> rfl

theorem test_decode_integer_immediates_2 :
    decodeWords [0x100D3328#32] = .ok (.sextW { stall := 5 } 19 6)
    ∧ decodeWords [0x180D3328#32] = .ok (.zextB { stall := 5 } 19 6)
    ∧ decodeWords [0x200D3328#32] = .ok (.zextH { stall := 5 } 19 6)
    ∧ decodeWords [0x280D3328#32] = .ok (.zextW { stall := 5 } 19 6)
    ∧ decodeWords [0x074C3368#32] = .ok (.qset { stall := 5 } 3 6 29)
    ∧ decodeWords [0x000D33A8#32] = .ok (.qget { stall := 5 } 19 6)
    ∧ decodeWords [0x0001302A#32, 0x89ABCDEF#32] = .ok (.liw { stall := 5 } 19 2309737967)
    ∧ decodeWords [0x000D306A#32, 0x89ABCDEF#32] = .ok (.addiw { stall := 5 } 19 6 2309737967)
    ∧ decodeWords [0x20013FA8#32] = .ok (.rdcyc { stall := 5 } 19) := by
  and_intros <;> rfl

theorem test_decode_control_transfer :
    decodeWords [0xAD7A6428#32] = .ok (.beq { stall := 5 } 6 29 693)
    ∧ decodeWords [0xAD7A6468#32] = .ok (.bne { stall := 5 } 6 29 693)
    ∧ decodeWords [0xAD7A64A8#32] = .ok (.blt { stall := 5 } 6 29 693)
    ∧ decodeWords [0xAD7A64E8#32] = .ok (.bge { stall := 5 } 6 29 693)
    ∧ decodeWords [0xAD7A6528#32] = .ok (.bltu { stall := 5 } 6 29 693)
    ∧ decodeWords [0xAD7A6568#32] = .ok (.bgeu { stall := 5 } 6 29 693)
    ∧ decodeWords [0xB47935A8#32] = .ok (.jal { stall := 5 } 19 23100)
    ∧ decodeWords [0xAD4D35E8#32] = .ok (.jalr { stall := 5 } 19 6 693)
    ∧ decodeWords [0x000130AA#32, 0x89ABCDEF#32] = .ok (.jalw { stall := 5 } 19 2309737967)
    ∧ decodeWords [0x074C3628#32] = .ok (.loop { stall := 5 } 3 6 29)
    ∧ decodeWords [0xAD4C3668#32] = .ok (.loopi { stall := 5 } 3 6 693)
    ∧ decodeWords [0x000036A8#32] = .ok (.lpbrk { stall := 5 } 3)
    ∧ decodeWords [0x000006E8#32] = .ok (.endTask { stall := 5 } ) := by
  and_intros <;> rfl

theorem test_decode_local_memory :
    decodeWords [0xAD4D3828#32] = .ok (.ldB { stall := 5 } 19 6 693)
    ∧ decodeWords [0xAD4D3868#32] = .ok (.ldH { stall := 5 } 19 6 693)
    ∧ decodeWords [0xAD4D38A8#32] = .ok (.ldW { stall := 5 } 19 6 693)
    ∧ decodeWords [0xAD4D38E8#32] = .ok (.ldD { stall := 5 } 19 6 693)
    ∧ decodeWords [0xAD4DD928#32] = .ok (.stB { stall := 5 } 6 29 693)
    ∧ decodeWords [0xAD4DD968#32] = .ok (.stH { stall := 5 } 6 29 693)
    ∧ decodeWords [0xAD4DD9A8#32] = .ok (.stW { stall := 5 } 6 29 693)
    ∧ decodeWords [0xAD4DD9E8#32] = .ok (.stD { stall := 5 } 6 29 693)
    ∧ decodeWords [0xAD4D3A28#32] = .ok (.ldBu { stall := 5 } 19 6 693)
    ∧ decodeWords [0xAD4D3A68#32] = .ok (.ldHu { stall := 5 } 19 6 693)
    ∧ decodeWords [0xAD4D3AA8#32] = .ok (.ldWu { stall := 5 } 19 6 693)
    ∧ decodeWords [0xAD4D3229#32] = .ok (.fldS { stall := 5 } 19 6 693)
    ∧ decodeWords [0xAD4D3269#32] = .ok (.fldD { stall := 5 } 19 6 693)
    ∧ decodeWords [0xAD4DD2A9#32] = .ok (.fstS { stall := 5 } 6 29 693)
    ∧ decodeWords [0xAD4DD2E9#32] = .ok (.fstD { stall := 5 } 6 29 693) := by
  and_intros <;> rfl

theorem test_decode_virtual_memory_1 :
    decodeWords [0xAD4D3AE8#32] = .ok (.ldvB { stall := 5 } 19 6 693)
    ∧ decodeWords [0xAD4D3B28#32] = .ok (.ldvH { stall := 5 } 19 6 693)
    ∧ decodeWords [0xAD4D3B68#32] = .ok (.ldvW { stall := 5 } 19 6 693)
    ∧ decodeWords [0xAD4D3BA8#32] = .ok (.ldvD { stall := 5 } 19 6 693)
    ∧ decodeWords [0xAD4D3BE8#32] = .ok (.ldvBu { stall := 5 } 19 6 693)
    ∧ decodeWords [0xAD4D3C28#32] = .ok (.ldvHu { stall := 5 } 19 6 693)
    ∧ decodeWords [0xAD4D3C68#32] = .ok (.ldvWu { stall := 5 } 19 6 693)
    ∧ decodeWords [0xAD4DDCA8#32] = .ok (.stvB { stall := 5 } 6 29 693)
    ∧ decodeWords [0xAD4DDCE8#32] = .ok (.stvH { stall := 5 } 6 29 693)
    ∧ decodeWords [0xAD4DDD28#32] = .ok (.stvW { stall := 5 } 6 29 693)
    ∧ decodeWords [0xAD4DDD68#32] = .ok (.stvD { stall := 5 } 6 29 693)
    ∧ decodeWords [0x874D3DA8#32] = .ok (.amoAdd { stall := 5 } 1 19 6 29)
    ∧ decodeWords [0x8F4D3DA8#32] = .ok (.amoAnd { stall := 5 } 1 19 6 29)
    ∧ decodeWords [0x974D3DA8#32] = .ok (.amoOr { stall := 5 } 1 19 6 29)
    ∧ decodeWords [0x9F4D3DA8#32] = .ok (.amoXor { stall := 5 } 1 19 6 29)
    ∧ decodeWords [0xA74D3DA8#32] = .ok (.amoMin { stall := 5 } 1 19 6 29) := by
  and_intros <;> rfl

theorem test_decode_virtual_memory_2 :
    decodeWords [0xAF4D3DA8#32] = .ok (.amoMax { stall := 5 } 1 19 6 29)
    ∧ decodeWords [0xB74D3DA8#32] = .ok (.amoMinu { stall := 5 } 1 19 6 29)
    ∧ decodeWords [0xBF4D3DA8#32] = .ok (.amoMaxu { stall := 5 } 1 19 6 29)
    ∧ decodeWords [0xC74D3DA8#32] = .ok (.amoSwap { stall := 5 } 1 19 6 29)
    ∧ decodeWords [0x5F4D3DE8#32] = .ok (.amoCas { stall := 5 } 19 6 29 11)
    ∧ decodeWords [0x074C0E28#32] = .ok (.decn { stall := 5 } 6 29)
    ∧ decodeWords [0xAD400E68#32] = .ok (.fence { stall := 5 } 693)
    ∧ decodeWords [0x00000EA8#32] = .ok (.efence { stall := 5 } ) := by
  and_intros <;> rfl

theorem test_decode_tasks_and_system :
    decodeWords [0x074C0EE8#32] = .ok (.spawn { stall := 5 } 6 29)
    ∧ decodeWords [0x0F4C0EE8#32] = .ok (.arm { stall := 5 } 6 29)
    ∧ decodeWords [0x174C0EE8#32] = .ok (.bara { stall := 5 } 6 29)
    ∧ decodeWords [0x1F4C0EE8#32] = .ok (.barx { stall := 5 } 6 29)
    ∧ decodeWords [0x274C0EE8#32] = .ok (.htset { stall := 5 } 6 29)
    ∧ decodeWords [0x280C0EE8#32] = .ok (.htclr { stall := 5 } 6)
    ∧ decodeWords [0xAD413F28#32] = .ok (.csrr { stall := 5 } 19 693)
    ∧ decodeWords [0xAD4C0F68#32] = .ok (.csrw { stall := 5 } 6 693)
    ∧ decodeWords [0x074C0FA8#32] = .ok (.tlbi { stall := 5 } 6 29)
    ∧ decodeWords [0x08000FA8#32] = .ok (.halt { stall := 5 } )
    ∧ decodeWords [0x100C0FA8#32] = .ok (.brk { stall := 5 } 6)
    ∧ decodeWords [0x180D3FA8#32] = .ok (.pwrq { stall := 5 } 19 6) := by
  and_intros <;> rfl

theorem test_decode_float_1 :
    decodeWords [0x074D3029#32] = .ok (.faddS { stall := 5 } 19 6 29)
    ∧ decodeWords [0x0F4D3029#32] = .ok (.fsubS { stall := 5 } 19 6 29)
    ∧ decodeWords [0x174D3029#32] = .ok (.fmulS { stall := 5 } 19 6 29)
    ∧ decodeWords [0x1F4D3029#32] = .ok (.fdivS { stall := 5 } 19 6 29)
    ∧ decodeWords [0x200D3029#32] = .ok (.fsqrtS { stall := 5 } 19 6)
    ∧ decodeWords [0x2F4D3029#32] = .ok (.fminS { stall := 5 } 19 6 29)
    ∧ decodeWords [0x374D3029#32] = .ok (.fmaxS { stall := 5 } 19 6 29)
    ∧ decodeWords [0x3F4D3029#32] = .ok (.fcsgnS { stall := 5 } 19 6 29)
    ∧ decodeWords [0x474D3029#32] = .ok (.fnsgnS { stall := 5 } 19 6 29)
    ∧ decodeWords [0x4F4D3029#32] = .ok (.fxsgnS { stall := 5 } 19 6 29)
    ∧ decodeWords [0x574D3029#32] = .ok (.fcmpqS { stall := 5 } 19 6 29)
    ∧ decodeWords [0x5F4D3029#32] = .ok (.fcmpsS { stall := 5 } 19 6 29)
    ∧ decodeWords [0x600D3029#32] = .ok (.ftypeS { stall := 5 } 19 6)
    ∧ decodeWords [0x074D3069#32] = .ok (.faddD { stall := 5 } 19 6 29)
    ∧ decodeWords [0x0F4D3069#32] = .ok (.fsubD { stall := 5 } 19 6 29)
    ∧ decodeWords [0x174D3069#32] = .ok (.fmulD { stall := 5 } 19 6 29) := by
  and_intros <;> rfl

theorem test_decode_float_2 :
    decodeWords [0x1F4D3069#32] = .ok (.fdivD { stall := 5 } 19 6 29)
    ∧ decodeWords [0x200D3069#32] = .ok (.fsqrtD { stall := 5 } 19 6)
    ∧ decodeWords [0x2F4D3069#32] = .ok (.fminD { stall := 5 } 19 6 29)
    ∧ decodeWords [0x374D3069#32] = .ok (.fmaxD { stall := 5 } 19 6 29)
    ∧ decodeWords [0x3F4D3069#32] = .ok (.fcsgnD { stall := 5 } 19 6 29)
    ∧ decodeWords [0x474D3069#32] = .ok (.fnsgnD { stall := 5 } 19 6 29)
    ∧ decodeWords [0x4F4D3069#32] = .ok (.fxsgnD { stall := 5 } 19 6 29)
    ∧ decodeWords [0x574D3069#32] = .ok (.fcmpqD { stall := 5 } 19 6 29)
    ∧ decodeWords [0x5F4D3069#32] = .ok (.fcmpsD { stall := 5 } 19 6 29)
    ∧ decodeWords [0x600D3069#32] = .ok (.ftypeD { stall := 5 } 19 6)
    ∧ decodeWords [0x5F4D30A9#32] = .ok (.fmaddS { stall := 5 } 19 6 29 11)
    ∧ decodeWords [0x5F4D30E9#32] = .ok (.fmsubS { stall := 5 } 19 6 29 11)
    ∧ decodeWords [0x5F4D3129#32] = .ok (.fmaddD { stall := 5 } 19 6 29 11)
    ∧ decodeWords [0x5F4D3169#32] = .ok (.fmsubD { stall := 5 } 19 6 29 11) := by
  and_intros <;> rfl

theorem test_decode_float_conversions_1 :
    decodeWords [0x000D31A9#32] = .ok (.fcvF64F32 { stall := 5 } 19 6)
    ∧ decodeWords [0x080D31A9#32] = .ok (.fcvF32F64 { stall := 5 } 19 6)
    ∧ decodeWords [0x100D31A9#32] = .ok (.fcvF32I32 { stall := 5 } 19 6)
    ∧ decodeWords [0x180D31A9#32] = .ok (.fcvI32F32 { stall := 5 } 19 6)
    ∧ decodeWords [0x200D31A9#32] = .ok (.fcvF32I64 { stall := 5 } 19 6)
    ∧ decodeWords [0x280D31A9#32] = .ok (.fcvI64F32 { stall := 5 } 19 6)
    ∧ decodeWords [0x300D31A9#32] = .ok (.fcvF64I32 { stall := 5 } 19 6)
    ∧ decodeWords [0x380D31A9#32] = .ok (.fcvI32F64 { stall := 5 } 19 6)
    ∧ decodeWords [0x400D31A9#32] = .ok (.fcvF64I64 { stall := 5 } 19 6)
    ∧ decodeWords [0x480D31A9#32] = .ok (.fcvI64F64 { stall := 5 } 19 6)
    ∧ decodeWords [0x500D31A9#32] = .ok (.fcvF32U64 { stall := 5 } 19 6)
    ∧ decodeWords [0x580D31A9#32] = .ok (.fcvU64F32 { stall := 5 } 19 6)
    ∧ decodeWords [0x600D31A9#32] = .ok (.fcvF64U64 { stall := 5 } 19 6)
    ∧ decodeWords [0x680D31A9#32] = .ok (.fcvU64F64 { stall := 5 } 19 6)
    ∧ decodeWords [0x000D31E9#32] = .ok (.fgetD { stall := 5 } 19 6)
    ∧ decodeWords [0x080D31E9#32] = .ok (.fsetD { stall := 5 } 19 6) := by
  and_intros <;> rfl

theorem test_decode_float_conversions_2 :
    decodeWords [0x100D31E9#32] = .ok (.fgetS { stall := 5 } 19 6)
    ∧ decodeWords [0x180D31E9#32] = .ok (.fsetS { stall := 5 } 19 6) := by
  and_intros <;> rfl

theorem test_decode_poant_1 :
    decodeWords [0x00013429#32] = .ok (.poalloc { stall := 5 } 19)
    ∧ decodeWords [0x080D3429#32] = .ok (.poallocX { stall := 5 } 19 6)
    ∧ decodeWords [0x00013469#32] = .ok (.pofree { stall := 5 } 19)
    ∧ decodeWords [0x074D34A9#32] = .ok (.poadd { stall := 5 } 19 6 29)
    ∧ decodeWords [0x074D34E9#32] = .ok (.posub { stall := 5 } 19 6 29)
    ∧ decodeWords [0x074D3529#32] = .ok (.pomul { stall := 5 } 19 6 29)
    ∧ decodeWords [0x074D3569#32] = .ok (.podiv { stall := 5 } 19 6 29)
    ∧ decodeWords [0x000D35A9#32] = .ok (.posqrt { stall := 5 } 19 6)
    ∧ decodeWords [0x5F4D35E9#32] = .ok (.pofma { stall := 5 } 19 6 29 11)
    ∧ decodeWords [0x074D3629#32] = .ok (.pocmpEq { stall := 5 } 19 6 29)
    ∧ decodeWords [0x0F4D3629#32] = .ok (.pocmpLt { stall := 5 } 19 6 29)
    ∧ decodeWords [0x174D3629#32] = .ok (.pocmpLe { stall := 5 } 19 6 29)
    ∧ decodeWords [0x480D3669#32] = .ok (.poldS { stall := 5 } 9 19 6)
    ∧ decodeWords [0x874D3669#32] = .ok (.poldP { stall := 5 } 19 6 29)
    ∧ decodeWords [0x480D36A9#32] = .ok (.posvS { stall := 5 } 9 19 6)
    ∧ decodeWords [0x874D36A9#32] = .ok (.posvP { stall := 5 } 19 6 29) := by
  and_intros <;> rfl

theorem test_decode_poant_2 :
    decodeWords [0x000D36E9#32] = .ok (.pocvtPD { stall := 5 } 19 6)
    ∧ decodeWords [0x080D36E9#32] = .ok (.pocvtPS { stall := 5 } 19 6)
    ∧ decodeWords [0x100D36E9#32] = .ok (.pocvtPL { stall := 5 } 19 6)
    ∧ decodeWords [0x180D36E9#32] = .ok (.pocvtDP { stall := 5 } 19 6)
    ∧ decodeWords [0x200D36E9#32] = .ok (.pocvtSP { stall := 5 } 19 6)
    ∧ decodeWords [0x280D36E9#32] = .ok (.pocvtLP { stall := 5 } 19 6)
    ∧ decodeWords [0x300D36E9#32] = .ok (.pocvtPP { stall := 5 } 19 6)
    ∧ decodeWords [0x594D3729#32] = .ok (.podot { stall := 5 } 19 6 5 11) := by
  and_intros <;> rfl

theorem test_decode_tiles_and_matrices :
    decodeWords [0x000C3829#32] = .ok (.tcfg { stall := 5 } 3 6)
    ∧ decodeWords [0x00003869#32] = .ok (.tzero { stall := 5 } 3)
    ∧ decodeWords [0x000C38A9#32] = .ok (.tld { stall := 5 } 3 6)
    ∧ decodeWords [0x000C38E9#32] = .ok (.tst { stall := 5 } 3 6)
    ∧ decodeWords [0x074C342A#32, 0x89ABCDEF#32] = .ok (.tldd { stall := 5 } 3 6 29 2309737967)
    ∧ decodeWords [0x074C346A#32, 0x89ABCDEF#32] = .ok (.tstd { stall := 5 } 3 6 29 2309737967)
    ∧ decodeWords [0x000D3929#32] = .ok (.twait { stall := 5 } 19 6)
    ∧ decodeWords [0x074C0969#32] = .ok (.wld { stall := 5 } 6 29)
    ∧ decodeWords [0x000C35AA#32, 0x89ABCDEF#32] = .ok (.dtld { stall := 5 } 3 6 2309737967)
    ∧ decodeWords [0x3F4C39A9#32] = .ok (.mma { stall := 5 } 3 6 29 7)
    ∧ decodeWords [0x4F4C34AA#32, 0x89ABCDEF#32] = .ok (.mmad { stall := 5 } 9 3 6 29 2309737967)
    ∧ decodeWords [0x3F4C39E9#32] = .ok (.mmas { stall := 5 } 3 6 29 7)
    ∧ decodeWords [0x4F4C34EA#32, 0x89ABCDEF#32] = .ok (.mmasd { stall := 5 } 9 3 6 29 2309737967)
    ∧ decodeWords [0x3F4C3A29#32] = .ok (.mmao { stall := 5 } 3 6 29 7)
    ∧ decodeWords [0x4F4C352A#32, 0x89ABCDEF#32] = .ok (.mmaod { stall := 5 } 9 3 6 29 2309737967) := by
  and_intros <;> rfl

theorem test_decode_vectors_1 :
    decodeWords [0x094C3A69#32] = .ok (.vadd { stall := 5 } 1 3 6 5)
    ∧ decodeWords [0x094C3AA9#32] = .ok (.vsub { stall := 5 } 1 3 6 5)
    ∧ decodeWords [0x094C3AE9#32] = .ok (.vmul { stall := 5 } 1 3 6 5)
    ∧ decodeWords [0x394C3B29#32] = .ok (.vfma { stall := 5 } 3 6 5 7)
    ∧ decodeWords [0x094C3B69#32] = .ok (.vmax { stall := 5 } 1 3 6 5)
    ∧ decodeWords [0x094C3BA9#32] = .ok (.vmin { stall := 5 } 1 3 6 5)
    ∧ decodeWords [0x080C3BE9#32] = .ok (.vexp2 { stall := 5 } 1 3 6)
    ∧ decodeWords [0x080C3C29#32] = .ok (.vlog2 { stall := 5 } 1 3 6)
    ∧ decodeWords [0x080C3C69#32] = .ok (.vrcp { stall := 5 } 1 3 6)
    ∧ decodeWords [0x080C3CA9#32] = .ok (.vrsq { stall := 5 } 1 3 6)
    ∧ decodeWords [0x080C3CE9#32] = .ok (.vtanh { stall := 5 } 1 3 6)
    ∧ decodeWords [0x080D3D29#32] = .ok (.vrsum { stall := 5 } 1 19 6)
    ∧ decodeWords [0x080D3D69#32] = .ok (.vrmax { stall := 5 } 1 19 6)
    ∧ decodeWords [0x080C3DA9#32] = .ok (.vcvt { stall := 5 } 1 3 6)
    ∧ decodeWords [0x080C3DE9#32] = .ok (.vxpose { stall := 5 } 1 3 6)
    ∧ decodeWords [0x080C3E29#32] = .ok (.vbcast { stall := 5 } 1 3 6) := by
  and_intros <;> rfl

theorem test_decode_vectors_2 :
    decodeWords [0x0F4C3E69#32] = .ok (.vscale { stall := 5 } 1 3 6 29)
    ∧ decodeWords [0x074C356A#32, 0x89ABCDEF#32] = .ok (.vcvtd { stall := 5 } 3 6 29 2309737967) := by
  and_intros <;> rfl

theorem test_decode_adjoint :
    decodeWords [0x000C0F29#32] = .ok (.recStart { stall := 5 } 6)
    ∧ decodeWords [0x08000F29#32] = .ok (.recStop { stall := 5 } )
    ∧ decodeWords [0x000D3F69#32] = .ok (.rvs { stall := 5 } 19 6)
    ∧ decodeWords [0x000C0FA9#32] = .ok (.gmap { stall := 5 } 6) := by
  and_intros <;> rfl

theorem test_decode_messages_and_bulk :
    decodeWords [0x074C022A#32, 0x89ABCDEF#32] = .ok (.send { stall := 5 } 6 29 2309737967)
    ∧ decodeWords [0x5F4D326A#32, 0x89ABCDEF#32] = .ok (.cpy { stall := 5 } 19 6 29 11 2309737967)
    ∧ decodeWords [0x5F4D32AA#32, 0x89ABCDEF#32] = .ok (.cpym { stall := 5 } 19 6 29 11 2309737967)
    ∧ decodeWords [0x5F4D32EA#32, 0x89ABCDEF#32] = .ok (.coll { stall := 5 } 19 6 29 11 2309737967)
    ∧ decodeWords [0x0001332A#32, 0x89ABCDEF#32] = .ok (.engp { stall := 5 } 19 2309737967)
    ∧ decodeWords [0x0001336A#32, 0x89ABCDEF#32] = .ok (.engq { stall := 5 } 19 2309737967)
    ∧ decodeWords [0x0000004B#32, 0xAD4D302C#32] = .ok (.hld { stall := 5 } 19 6 693)
    ∧ decodeWords [0x0000004B#32, 0xAD4DD06C#32] = .ok (.hst { stall := 5 } 6 29 693)
    ∧ decodeWords [0x0000004B#32, 0xAD4C00AC#32] = .ok (.hpf { stall := 5 } 6 693)
    ∧ decodeWords [0x0000004B#32, 0x074C00EC#32] = .ok (.hfl { stall := 5 } 6 29) := by
  and_intros <;> rfl
/-! ### The spec's worked examples -/

/-- R75, R79: one step of the generator from 1. -/
theorem test_generator_step : srStep 1 = (0x02000001, 0x47E4CE4B896CDD1D) := by decide +kernel

/-- R79: 1 + 5/512 rounded to 9 bits in the seven modes, as units of 2^-8; its neighbours are 258 and 259. -/
theorem test_rounding_row_positive :
    ([0#3, 1, 2, 3, 4, 5, 6].map fun m => (roundTo 9 m 0x47E4CE4B896CDD1D { m := 517, e := -9 }).1.m) = [258, 259, 258, 258, 259, 259, 259] := by
  decide +kernel
theorem test_rounding_row_negative :
    ([0#3, 1, 2, 3, 4, 5].map fun m => (roundTo 9 m 0 { neg := true, m := 517, e := -9 }).1.m) = [258, 259, 258, 259, 258, 259] := by
  decide +kernel

/-- R98: 1.0 at P = 53 has header 0x1BFF_FF00 and three granules of 0. -/
theorem test_poant_one : (poRound 53 0 0 (.num { m := 1 })).po = { hdr := 0x1BFFFF00, gran := [0, 0, 0] } := by decide +kernel

/-- R134's table: 1/3 at P = 9 and P = 25. -/
theorem test_poant_third :
    ([(9, 0#3), (9, 4), (9, 6), (25, 0), (25, 4), (25, 6)].map fun q =>
      let r := poRound q.1 q.2 0x47E4CE4B896CDD1D (opDiv (.num { m := 1 }) (.num { m := 3 })).v
      (r.po.hdr, r.po.gran, r.flags))
      = [(0x03FFFD55, [], 1), (0x03FFFD56, [], 1), (0x03FFFD56, [], 1), (0x0BFFFD55, [0x5555], 1), (0x0BFFFD55, [0x5556], 1), (0x0BFFFD55, [0x5556], 1)] := by
  decide +kernel

/-- R138: 1 + 2^-24 + 2^-60 rounds once to binary32, through binary64 twice; rounding to odd first gives the single rounding's result. -/
theorem test_double_rounding :
    let v : Val := .num { m := 2 ^ 60 + 2 ^ 36 + 1, e := -60 }
    let d := (binary64.deliver false 0 0 v).bits
    let o := (binary64.deliver false 5 0 v).bits
    (binary32.deliver false 0 0 v).bits = 0x3F800001 ∧ d = 0x3FF0000010000000 ∧ o = 0x3FF0000010000001
      ∧ (binary32.deliver false 0 0 (Prec.d.val (BitVec.ofNat 64 d))).bits = 0x3F800000
      ∧ (binary32.deliver false 0 0 (Prec.d.val (BitVec.ofNat 64 o))).bits = 0x3F800001 := by decide +kernel

/-- R90's table: entries 0 to 7 are 0, 0.5, … 3.5, entries 8 to 15 are -4.0, -3.5, … -0.5, in two's complement mode. -/
def exampleTable : DTab :=
  { mode := 2
    ent := Store.fill [] 0 [0x00000, 0x1F800, 0x1FC00, 0x1FE00, 0x20000, 0x20100, 0x20200, 0x20300,
      0x60400, 0x60300, 0x60200, 0x60100, 0x60000, 0x5FE00, 0x5FC00, 0x5F800] }
theorem test_table_encodes :
    exampleTable.wf true = true ∧ exampleTable.zeroCode true = 0
      ∧ exampleTable.encode true (.num { m := 5, e := -2 }) = .code 2 1 ∧ exampleTable.encode true (.num { neg := true, m := 1, e := -2 }) = .code 0 1
      ∧ exampleTable.encode true (.num { m := 7, e := -1 }) = .code 7 0
      ∧ (∃ c, exampleTable.encode true (Prec.s.val 0xFFFFFFFF40666666) = .outlier 0 c) := by
  refine ⟨by decide +kernel, by decide +kernel, by decide +kernel, by decide +kernel, by decide +kernel, 7, by decide +kernel⟩

/-- R18: cell (15, 3, 7), its aperture, and offset 0x1_2340 in line 0x48D of bank 1; its neighbours in +x and +z. -/
theorem test_cell_example :
    cellId 15 3 7 = 0x73F ∧ nodeBase 0x73F = 0x1CFC00000 ∧ bankOf 0x73F 0x12340 = 1 ∧ lineOf (nodeBase 0x73F + 0x12340) = nodeBase 0x73F + 64 * 0x48D
      ∧ neighbour 0x73F 0 = cellId 0 3 7 ∧ neighbour 0x73F 4 = cellId 15 3 0 ∧ deckOfZ 7 = 1 ∧ deckOfZ 0 = 0 := by decide +kernel

/-- R244: with elements of 2 bytes (ESZ 1), source byte 0x46 of a block goes to byte 0xC4. -/
theorem test_relayout_byte : srcOffset 1 1 0xC4 = 0x46 := by decide +kernel

/-! ### One step each -/

/-- What one step of thread 0 of cell 0 leaves, from registers that `f` sets. -/
def ran (ws : List W32) (f : Thread → Thread) : State :=
  match step ((State.reset.place ws).modThread 0 0 f) with
  | .next t => t
  | _ => State.reset
/-- A register after that step. -/
def ranReg (ws : List W32) (f : Thread → Thread) (fl : File) (r : Nat) : Word := ((ran ws f).thread 0 0).reg fl r
/-- Two registers set. -/
def two (a b : Nat) (u v : Word) (th : Thread) : Thread := (th.setReg .x a u).setReg .x b v

/-- R104: the sum saturates under sat=s, wraps without, and an unsigned difference saturates at 0. -/
theorem test_add_saturates : ranReg [0x000001EF, 0x00823004] (two 1 2 0x7FFFFFFFFFFFFFF0 0x20) .x 3 = 0x7FFFFFFFFFFFFFFF := by
  decide +kernel
theorem test_add_wraps : ranReg [0x00823000] (two 1 2 0x7FFFFFFFFFFFFFF0 0x20) .x 3 = 0x8000000000000010 := by decide +kernel
theorem test_sub_saturates_unsigned : ranReg [0x000002EF, 0x08443004] (two 1 2 0x7FFFFFFFFFFFFFF0 0x20) .x 3 = 0 := by decide +kernel
/-- R43's example: addi x5, x6, 0x1234_5678. -/
theorem test_addi_extended : ranReg [0x0091A2A3, 0x9E0C5044] (two 6 5 1 0) .x 5 = 0x12345679 := by decide +kernel
/-- R47's example: the first iteration of a repeated ADD writes x8, and the thread stays at the chain with REP_IDX 1. -/
theorem test_repeat_first : ranReg [0x00222093, 0x04108004] (two 8 16 3 4) .x 8 = 7
    ∧ ((ran [0x00222093, 0x04108004] id).thread 0 0).ctrl.repIdx = 1 ∧ ((ran [0x00222093, 0x04108004] id).thread 0 0).pc = 0x10000 := by decide +kernel
/-- R47: with rs2 = 30 the last rs2 would be 33. -/
theorem test_repeat_range : ((ran [0x00222093, 0x07908004] id).thread 0 0).run.cause = 0x04 := by decide +kernel
/-- R118's example: st.b x9, [x6+3] sat=s stores 0x7F of 300 and 0x80 of -300; without the clause 0x2C. -/
theorem test_store_byte_saturates :
    (ran [0x000001EF, 0x00CC9904] (two 6 9 0x3000 300)).mem.get 0x3003 = 0x7F
      ∧ (ran [0x000001EF, 0x00CC9904] (two 6 9 0x3000 (-300))).mem.get 0x3003 = 0x80
      ∧ (ran [0x00CC9900] (two 6 9 0x3000 300)).mem.get 0x3003 = 0x2C := by decide +kernel
/-- R105: -2^63 by -1, and division by zero. -/
theorem test_division_overflow : ((ran [0x98823000] (two 1 2 0x8000000000000000 (-1))).thread 0 0).outs.map (fun o => (o.reg, o.value)) = [(3, 0x7FFFFFFFFFFFFFFF)] := by
  decide +kernel
theorem test_division_by_zero : ((ran [0x98823000] (two 1 2 (-5) 0)).thread 0 0).outs.map (fun o => (o.reg, o.value)) = [(3, 0x8000000000000000)] := by
  decide +kernel
/-- R112: a taken branch back by one word, and one not taken. -/
theorem test_branch_taken : ((ran [0xFFC41400] (two 1 2 5 5)).thread 0 0).pc = 0xFFFC := by decide +kernel
theorem test_branch_not_taken : ((ran [0xFFC41400] (two 1 2 5 6)).thread 0 0).pc = 0x10004 := by decide +kernel
/-- R113: jalr x1, x1, 4 uses the old x1 and links. -/
theorem test_jalr_links : ((ran [0x010215C0] (two 1 2 0x20002 0)).thread 0 0).pc = 0x20004 ∧ ranReg [0x010215C0] (two 1 2 0x20002 0) .x 1 = 0x10004 := by
  decide +kernel
/-- R113: a target whose upper bits differ freezes the thread with cause 0x20 after the link. -/
theorem test_jalr_not_canonical :
    ((ran [0x010215C0] (two 1 2 0x0200000000000000 0)).thread 0 0).run.cause = 0x20 ∧ ranReg [0x010215C0] (two 1 2 0x0200000000000000 0) .x 1 = 0x10004 := by
  decide +kernel
/-- R119: a doubleword whose last byte is at 0x30_0000 is out of range, before its misalignment is looked at. -/
theorem test_load_range : ((ran [0x000238C0] (two 1 2 0x2FFFF9 0)).thread 0 0).run.cause = 0x25
    ∧ ((ran [0x000238C0] (two 1 2 0x2001 0)).thread 0 0).run.cause = 0x24 := by decide +kernel
/-- R120: a load to x0 at a bad address is a touch. -/
theorem test_touch_counts : ((ran [0x000208C0] (two 1 2 0x2FFFF9 0)).cell 0).err.touch = 1
    ∧ ((ran [0x000208C0] (two 1 2 0x2FFFF9 0)).thread 0 0).run.st = .running := by decide +kernel
/-- R50: a load empties its destination. -/
theorem test_load_empties : ((ran [0x000238C0] (two 1 2 0x3000 0)).thread 0 0).full .x 3 = false := by decide +kernel
/-- R114, R115: loopi x7, 3 opens set 0 with the address of its third word. -/
theorem test_loopi_opens : ((ran [0x00CE0640] (two 7 1 5 0)).thread 0 0).lpStart[0] = 0x10004 ∧ ((ran [0x00CE0640] (two 7 1 5 0)).thread 0 0).lpEnd[0] = 0x1000C
    ∧ ((ran [0x00CE0640] (two 7 1 5 0)).thread 0 0).lpCount[0] = 5 := by decide +kernel
/-- R381: BRK freezes with cause 0x60 after it. -/
theorem test_brk_freezes : ((ran [0x10020F80] (two 1 2 9 0)).thread 0 0).run.cause = 0x60 ∧ ((ran [0x10020F80] (two 1 2 9 0)).thread 0 0).pc = 0x10004 := by
  decide +kernel
/-- R343: HALT without privilege. -/
theorem test_halt_needs_privilege : ((ran [0x08000F80] id).thread 0 0).run.cause = 0x40 := by decide +kernel
/-- R123: 1.0 + 2^-53 is inexact and rounds to even. -/
theorem test_fadd_rounds :
    ranReg [0x00C41041] (fun th => (th.setReg .f 2 0x3FF0000000000000).setReg .f 3 0x3CA0000000000000) .f 1 = 0x3FF0000000000000
      ∨ ((ran [0x00C41041] (fun th => (th.setReg .f 2 0x3FF0000000000000).setReg .f 3 0x3CA0000000000000)).thread 0 0).pend.map PendWrite.value = [0x3FF0000000000000] := by
  decide +kernel

/-! ### Well-formedness: one ill-formed instruction for each check -/

/-- More than four prefixes; three PFX.IMM; one before an instruction without an immediate (R42, R43). -/
theorem test_wf_refuses_prefixes :
    (Instr.addi { imms := [1, 2], reg := some 0, mod := some 7, rep := some 1 } 1 2 3).wf = false
      ∧ (Instr.addi { imms := [1, 2, 3] } 1 2 3).wf = false ∧ (Instr.add { imms := [1] } 1 2 3).wf = false := by decide
/-- PFX.REG with a reserved bit, an EXT, a bank that the slot does not take, and a code for a slot that the subject lacks (R44). -/
theorem test_wf_refuses_banks :
    (Instr.add { reg := some 0x100000 } 1 2 3).wf = false ∧ (Instr.add { reg := some 1 } 1 2 3).wf = false ∧ (Instr.add { reg := some 12 } 1 2 3).wf = false
      ∧ (Instr.clz { reg := some 0x1000 } 1 2).wf = false ∧ (Instr.faddS { reg := some 4 } 1 2 3).wf = false ∧ (Instr.add { reg := some 4 } 1 2 3).wf = true := by decide
/-- PFX.MOD with a reserved bit, SAT 3, PO 5 and 250, and RM, SAT and PO on instructions that do not use them (R46). -/
theorem test_wf_refuses_modifiers :
    (Instr.add { mod := some 0x2007 } 1 2 3).wf = false ∧ (Instr.add { mod := some 0x1F } 1 2 3).wf = false ∧ (Instr.poadd { mod := some 0xA7 } 1 2 3).wf = false
      ∧ (Instr.poadd { mod := some 0x1F47 } 1 2 3).wf = false ∧ (Instr.add { mod := some 0 } 1 2 3).wf = false ∧ (Instr.faddS { mod := some 0xF } 1 2 3).wf = false
      ∧ (Instr.add { mod := some 0x127 } 1 2 3).wf = false ∧ (Instr.poadd { mod := some 0x120 } 1 2 3).wf = true := by decide
/-- PFX.REP on an instruction that is not repeated, with a reserved bit, and with a stride for a field that the subject lacks (R47). -/
theorem test_wf_refuses_repeats :
    (Instr.jal { rep := some 2 } 1 2).wf = false ∧ (Instr.add { rep := some 0x1000002 } 1 2 3).wf = false ∧ (Instr.add { rep := some 0x100002 } 1 2 3).wf = false
      ∧ (Instr.clz { rep := some 0x10002 } 1 2).wf = false ∧ (Instr.add { rep := some 0x11102 } 1 2 3).wf = true := by decide
/-- A register number outside its file, and an element type that the instruction does not have (R39, R51). -/
theorem test_wf_refuses_fields :
    (Instr.tcfg {} 8 1).wf = false ∧ (Instr.tcfg {} 7 1).wf = true ∧ (Instr.vadd {} 6 1 2 3).wf = false ∧ (Instr.vadd {} 5 1 2 3).wf = true := by decide

/-! ### Witnesses: concrete states that meet the hypotheses of the statements

`Wit` is an instruction, a state and a condition; `Wit.Met` says that the instruction issues in that state and that the condition
holds of its operands there. Equations between results that may be faults are compared by `okB` and `errB`. -/

/-- The operands with which the current thread's next instruction would issue. -/
def argsFor (i : Instr) (g : Sig) (s : State) : Args :=
  { argsOf g s.cur.1 s.cur.2 s.issuer.ctrl.repIdx.toNat (vaOf s.issuer.pc) with word := subjectWord i }
/-- `Issues`, as a computation. -/
def issuesB (i : Instr) (g : Sig) (s : State) : Bool :=
  let A := argsFor i g s
  let r := (s.thread s.cur.1 s.cur.2).run
  decide (r.st = .running) && !r.ending && !r.halting && !r.rolling && decide (r.mismatch = 0)
    && coreRuns s.cur.1 i && repInRange g && decide (s.issuer.ctrl.repIdx.toNat < g.ctl.count)
    && (A.regs g).all (fun p => s.issuer.full p.1 p.2)
    && (!s.issuer.ctrl.scoreEn || (A.regs g).all fun p => s.issuer.score.all fun q => !(decide (q.file = p.1) && decide (q.reg = p.2)) || decide (q.left = 0))
    && !A.damaged i g s.startIssue

theorem issues_of {i : Instr} {s : State} {g : Sig} (hg : i.sig = some g) (h : issuesB i g s = true) : Issues i g (argsFor i g s) s := by
  simp only [issuesB, Bool.and_eq_true, decide_eq_true_eq, Bool.not_eq_true', List.all_eq_true, Bool.or_eq_true] at h
  obtain ⟨⟨⟨⟨⟨⟨⟨⟨⟨⟨h1, h2⟩, h3⟩, hr⟩, h4⟩, h5⟩, h6⟩, h7⟩, h8⟩, h9⟩, h10⟩ := h
  refine ⟨hg, rfl, ⟨h1, h2, h3, hr, h4⟩, h5, h6, h7, h8, fun hs p hp q hq e1 e2 => ?_, h10⟩
  obtain h9 | h9 := h9
  · rw [hs] at h9; cases h9
  · have := h9 p hp q hq; simp_all

/-- An instruction, a state, and a condition on its operands and on the state in which its effect runs. -/
structure Wit where
  i : Instr
  s : State
  c : Args → State → Bool
/-- It issues there, and the condition holds. -/
def Wit.Met (w : Wit) : Prop := ∃ g A, Issues w.i g A w.s ∧ w.c A w.s.startIssue = true
def Wit.check (w : Wit) : Bool := w.i.sig.any fun g => issuesB w.i g w.s && w.c (argsFor w.i g w.s) w.s.startIssue
/-- All of them are met. -/
def Mets (l : List Wit) : Prop := ∀ w ∈ l, w.Met
theorem mets {l : List Wit} (h : l.all Wit.check = true) : Mets l := by
  intro w hw
  have h' := List.all_eq_true.1 h w hw
  unfold Wit.check at h'
  cases hg : w.i.sig with
  | none => rw [hg] at h'; cases h'
  | some g =>
    rw [hg] at h'
    simp only [Option.any_some, Bool.and_eq_true] at h'
    exact ⟨g, _, issues_of hg h'.1, h'.2⟩
/-- Several instructions issue in one state. -/
def all_ (s : State) (l : List Instr) : List Wit := l.map fun i => ⟨i, s, fun _ _ => true⟩

def okB {α : Type} [DecidableEq α] (e : Except Fail α) (v : α) : Bool := match e with | .ok x => decide (x = v) | .error _ => false
def errB {α : Type} (e : Except Fail α) (f : Fail) : Bool := match e with | .ok _ => false | .error x => decide (x = f)
def isOk {α β : Type} (e : Except β α) : Bool := match e with | .ok _ => true | .error _ => false
theorem okB_eq {α : Type} [DecidableEq α] {e : Except Fail α} {v : α} (h : okB e v = true) : e = .ok v := by
  cases e <;> simp_all [okB]
theorem errB_eq {α : Type} {e : Except Fail α} {f : Fail} (h : errB e f = true) : e = .error f := by
  cases e <;> simp_all [errB]

/-- Cell 0, or channel core 0, with a thread that runs. -/
def cell0 : State := State.reset.place []
def chan0 : State := State.reset.place [0x4B, 0x02000004]

/-! #### O1 to O8 -/

/-- A word stands at the PC; ADD is the instruction. -/
def placed : State := State.reset.place [0x00823000]
theorem witness_StepRunsDecodedInstruction :
    let clear : State → Bool := fun u => !u.wideFaulted 0 0 && !u.budgetOut 0 0
    let faulty : State := placed.modCore 0 0 fun c => { c with wuq := [{ op := { kind := .tzero }, thr := 0, ctx := 0, slot := 0, pc := 0, st := .faulted 0x12 0 0 }] }
    (placed.schedule = [] ∧ placed.cur = (0, 0) ∧ nodeOk 0 = true ∧ placed.tick.canIssue = true ∧ clear placed.tick = true
        ∧ okB (placed.tick.fetch 0 0) [0x00823000] = true)
      ∧ decodeWords [0x00823000] = .ok (.add {} 3 1 2)
      ∧ (let s := { placed with schedule := [.event (.pop 0)] }; s.schedule = [.event (.pop 0)] ∧ s.misc.stopped = false)
      ∧ whenStopped (.pop 0) = false ∧ whenStopped .powerUp = true
      ∧ (let u : State := { ({ placed with schedule := [.core 0 0], cur := (5, 3) }).tick with schedule := [] }
         let v : State := { u with cur := (0, 0), blocked := false }
         u.picked 0 0 = some 0 ∧ clear v = true ∧ okB (v.fetch 0 0) [0x00823000] = true)
      ∧ (let u : State := { ({ placed with schedule := [.core 0 1] }).tick with schedule := [] }; u.picked 0 1 = none)
      ∧ (placed.ctrl_ fun c => { c with remain := 0 }).tick.budgetOut 0 0 = true ∧ (placed.ctrl_ fun c => { c with remain := 0 }).tick.canIssue = true
      ∧ faulty.tick.wideFaulted 0 0 = true ∧ faulty.tick.canIssue = true
      ∧ isOk (({ placed with ctxs := [] }).tick.fetch 0 0) = false ∧ ({ placed with ctxs := [] }).tick.canIssue = true ∧ clear ({ placed with ctxs := [] }).tick = true
      ∧ okB ((State.reset.place [0x1C]).tick.fetch 0 0) [0x1C] = true ∧ clear (State.reset.place [0x1C]).tick = true := by
  refine ⟨by decide +kernel, rfl, by decide +kernel, rfl, rfl, ?_, ?_, ?_, ?_, ?_, ?_, ?_, ?_, ?_, ?_, ?_⟩ <;> decide +kernel
theorem witness_StepRunsDecodedInstruction_stepDecodeFault : decodeWords [0x1C] = .error (.cause 0x02) := rfl
theorem witness_WordsDecodeToTheirInstructions : isPfx 0x4B = true ∧ isPfx 0x00823000 = false ∧ (0x00823000 : W32).getLsbD 2 = false
    ∧ (0x00823004 : W32).getLsbD 2 = true := by decide
theorem witness_EncodedInstructionsDecode : (Instr.addi { imms := [0x7FFFFFF, 5], mod := some 0xF, stall := 7, reg := none } 31 31 0x3FF).wf = true
    ∧ (Instr.addi { imms := [0x7FFFFFF, 5], mod := some 0xF, stall := 7, reg := none } 31 31 0x3FF).isWord = true := by decide
theorem witness_ChecksBeforeEveryEffect :
    let go : Instr → State → Bool := fun i s => i.enc.isSome && i.sig.isSome && decide ((s.thread s.cur.1 s.cur.2).run.st = .running)
      && !(s.thread s.cur.1 s.cur.2).run.ending && !(s.thread s.cur.1 s.cur.2).run.halting && !(s.thread s.cur.1 s.cur.2).run.rolling
    let g0 : Instr → State → (Args → Sig → Bool) → Bool := fun i s p => i.sig.any fun g => p (argsFor i g s) g
    let e := cell0.modThread 0 0 fun th => th.setFull .x 1 false
    let q := cell0.modThread 0 0 fun th => { th with ctrl := { th.ctrl with scoreEn := true }, score := [{ file := .x, reg := 1, left := 1 }] }
    let b := cell0.run_ fun r => { r with bad := [.reg .x 1] }
    let rep0 : Instr := .add { rep := some 0 } 3 1 2
    let b2 := b.modThread 0 0 fun th => { th with ctrl := { th.ctrl with scoreEn := true }, score := [{ file := .x, reg := 1, left := 0 }] }
    (go (.hld {} 1 2 0) cell0 && !coreRuns 0 (.hld {} 1 2 0)) = true
      ∧ (go (.add { rep := some 0x11104 } 8 8 30) cell0 && g0 (.add { rep := some 0x11104 } 8 8 30) cell0 fun _ g => !repInRange g) = true
      ∧ (go rep0 cell0 && g0 rep0 cell0 fun _ g => decide (g.ctl.count = 0)) = true
      ∧ (go (.add {} 3 1 2) e && g0 (.add {} 3 1 2) e fun A g => (A.regs g).any fun p => !e.issuer.full p.1 p.2) = true
      ∧ (go (.add {} 3 1 2) q && g0 (.add {} 3 1 2) q fun A g => (A.regs g).all (fun p => q.issuer.full p.1 p.2) && q.issuer.ctrl.scoreEn
          && (A.regs g).any fun p => q.issuer.score.any fun x => decide (x.file = p.1) && decide (x.reg = p.2) && decide (0 < x.left)) = true
      ∧ (go (.add {} 3 1 2) b && g0 (.add {} 3 1 2) b fun A g => (A.sources (.add {} 3 1 2) g).any (fun p => b.issuer.run.bad.contains (.reg p.1 p.2))
          && !b.issuer.ctrl.scoreEn && A.damaged (.add {} 3 1 2) g b.startIssue) = true
      ∧ (go (.add {} 3 1 2) b2 && g0 (.add {} 3 1 2) b2 fun A g => b2.issuer.ctrl.scoreEn && A.damaged (.add {} 3 1 2) g b2.startIssue
          && (A.regs g).all fun p => b2.issuer.score.all fun x => !(decide (x.file = p.1) && decide (x.reg = p.2)) || decide (x.left = 0)) = true := by decide +kernel
theorem witness_GoodStatesStayGood : cell0.good = true ∧ (∃ t, step cell0 = .next t) := by
  refine ⟨by decide +kernel, ?_⟩
  cases h : step cell0 with
  | next t => exact ⟨t, rfl⟩
  | fault f => exact absurd (show (match step cell0 with | .next _ => true | _ => false) = true by decide +kernel) (by rw [h]; simp)
  | refused r => exact absurd (show (match step cell0 with | .next _ => true | _ => false) = true by decide +kernel) (by rw [h]; simp)
/-- The boundaries of the ranges: cell ids 0 and 2,047, the last offset of local memory and the first of the hole. -/
theorem witness_CellsNeighboursAndBanks : (15 < 16 ∧ 7 < 8) ∧ (2047 < 2048 ∧ 0x2FFFFF < 0x300000) ∧ (0x300000 ≤ 0x3FFFFF ∧ 0x3FFFFF < 0x400000) := by decide

/-! #### O9 to O15 -/

theorem witness_RegisterResults :
    let s := cell0.modThread 0 0 fun th => { th with outs := [{ file := .x, reg := 31, value := 7 }] }
    (s.thread 0 0).outs[0]? = some { file := .x, reg := 31, value := 7 } ∧ ¬(File.x = .x ∧ 31 = 0) := by decide +kernel
theorem witness_FittedArithmetic : Mets ((all_ cell0 [.add {} 31 1 2, .sub { mod := some 0xF } 3 1 2, .mul { mod := some 0x17 } 3 1 2, .shl {} 3 1 2,
      .addi {} 3 1 0x200, .muli {} 3 1 0x1FF, .addiw {} 3 1 0x80000000, .shli {} 3 1 63]
    ++ [⟨.addc {} 3 1 0xFF, cell0, fun A s => !s.poisoned (nodeBase A.n + constOff A.n A.t (A.slot s) 0xFF)⟩,
        ⟨.subc {} 3 1 0, cell0, fun A s => !s.poisoned (nodeBase A.n + constOff A.n A.t (A.slot s) 0)⟩,
        ⟨.mulc {} 3 1 1, chan0, fun A s => !s.poisoned (nodeBase A.n + constOff A.n A.t (A.slot s) 1)⟩,
        ⟨.ldc {} 3 2, cell0, fun A s => !s.poisoned (nodeBase A.n + constOff A.n A.t (A.slot s) 2)⟩])) := mets (by decide +kernel)
theorem witness_IntegerResults : Mets ((all_ cell0 [.and {} 3 1 2, .or {} 3 1 2, .xor {} 3 1 2, .shr {} 3 1 2, .sha {} 3 1 2, .rol {} 3 1 2, .ror {} 3 1 2,
      .slt {} 3 1 2, .sltu {} 3 1 2, .min {} 3 1 2, .max {} 3 1 2, .minu {} 3 1 2, .maxu {} 3 1 2, .mulh {} 3 1 2, .mulhu {} 3 1 2,
      .andi {} 3 1 5, .ori {} 3 1 5, .xori {} 3 1 5, .shri {} 3 1 63, .shai {} 3 1 0, .slti {} 3 1 5, .sltiu {} 3 1 5, .liw {} 3 5,
      .sextB {} 3 1, .sextH {} 3 1, .sextW {} 3 1, .zextB {} 3 1, .zextH {} 3 1, .zextW {} 3 1, .qset {} 7 1 2, .qget {} 3 7,
      .clz {} 3 1, .ctz {} 3 1, .popc {} 3 1, .rdcyc {} 3])) := mets (by decide +kernel)
/-- Each corner of a division: a zero divisor under each sign of the dividend, −2^63 by −1, and an ordinary one. -/
theorem witness_DivisionsAlwaysDefined : Mets (([(0, 0), (5, 0), (-5, 0), (0x8000000000000000, -1), (-7, 2)] : List (Word × Word)).flatMap fun p =>
      all_ (cell0.xs [(1, p.1), (2, p.2)]) [.div {} 3 1 2, .divu {} 3 1 2, .rem {} 3 1 2, .remu {} 3 1 2]) := mets (by decide +kernel)
theorem witness_DivisionsAlwaysDefined_divisionsTakeNoSat : (0xF : BitVec 27).extractLsb' 3 2 ≠ 0 := by decide
theorem witness_ScalarInstructionsFrame : (Mets (all_ cell0 [.add {} 3 1 2, .clz {} 3 1, .addi {} 3 1 2, .rdcyc {} 3, .faddS {} 3 1 2, .fsqrtD {} 3 1, .fmaddD {} 3 1 2 4])) ∧ cell0.issuer.run.stepping = false := ⟨mets (by decide +kernel), by decide +kernel⟩
theorem witness_TouchesMakeNoAccess : Mets (([.ldB {} 0 1 0, .ldH {} 0 1 0, .ldW {} 0 1 0, .ldD {} 0 1 0, .ldBu {} 0 1 0, .ldHu {} 0 1 0, .ldWu {} 0 1 0,
      .fldS { reg := some 0x4 } 0 1 0, .fldD { reg := some 0x4 } 0 1 0, .ldvB {} 0 1 0, .ldvH {} 0 1 0, .ldvW {} 0 1 0, .ldvD {} 0 1 0, .ldvBu {} 0 1 0, .ldvHu {} 0 1 0,
      .ldvWu {} 0 1 0] : List Instr).map (fun i => ⟨i, cell0, fun A _ => decide (A.fd = .x ∧ A.d = 0)⟩)
    ++ [⟨.hld {} 0 1 0, chan0, fun A _ => decide (A.fd = .x ∧ A.d = 0)⟩]) := mets (by decide +kernel)
/-- The last offset that passes each check of R119 and the first that fails it. -/
theorem witness_OffsetChecksInOrder :
    (0x300000 ≤ (0x2FFFF9 : Word).toNat + 8 - 1) ∧ ((0x2FFFF8 : Word).toNat + 8 - 1 < 0x300000) ∧ (0x2FFFF8 : Word).toNat % 8 = 0
      ∧ (0x2FFFF4 : Word).toNat % 8 ≠ 0 ∧ inGrant (cell0.grant 0 0) 0 0x7F8 8 = true ∧ inGrant (cell0.grant 0 0) 0 0x800 8 = false
      ∧ inGrant (cell0.grant 0 0) 0 0x2000 8 = true ∧ inGrant (cell0.grant 0 0) 0 0x1FF8 8 = false
      ∧ (0x40000 ≤ (0x3FFF9 : Word).toNat + 8 - 1 ∧ ¬(2048 : Nat) < 2048) := by decide +kernel

/-! #### O16 to O21 -/

theorem witness_LocalLoads :
    let at_ : Nat → Word → Bool → Bool → State → Args → State → Bool := fun len o p q _ A s =>
      !(decide (A.fd = .x) && decide (A.d = 0)) && decide (A.ra s + 0 = o) && decide (s.checkLM A.n (A.slot s) o len len 0 = none)
        && decide (s.poisoned (nodeBase A.n + o.toNat) = p) && decide (s.precise A.n (A.slot s) = q)
    let P : State := (cell0.xs [(1, 0x3000)]).bad_ 0x3000
    let K : State := cell0.bad_ (constOff 0 0 0 5 / 64 * 64)
    let k : Bool → Args → State → Bool := fun q A s => s.poisoned (nodeBase A.n + constOff A.n A.t (A.slot s) 5) && decide (s.precise A.n (A.slot s) = q)
    Mets (((([(.ldB {} 3 1 0, 1), (.ldH {} 3 1 0, 2), (.ldW {} 3 1 0, 4), (.ldD {} 3 1 0, 8), (.ldBu {} 3 1 0, 1), (.ldHu {} 3 1 0, 2), (.ldWu {} 3 1 0, 4),
        (.fldS {} 3 1 0, 4), (.fldD {} 3 1 0, 8)] : List (Instr × Nat)).flatMap fun p =>
          [⟨p.1, cell0.xs [(1, 0x2FFFF8)], at_ p.2 0x2FFFF8 false false cell0⟩, ⟨p.1, P, at_ p.2 0x3000 true false cell0⟩, ⟨p.1, P.exact, at_ p.2 0x3000 true true cell0⟩,
           ⟨p.1, cell0.xs [(1, 0x300000)], fun A s => decide (s.checkLM A.n (A.slot s) 0x300000 p.2 p.2 0 = some { cause := 0x25, addr := 0x300000, detail := 0 })⟩])
      ++ [⟨.ldc {} 3 5, K.exact, k true⟩, ⟨.addc {} 3 1 5, K.exact, k true⟩, ⟨.subc {} 3 1 5, K.exact, k true⟩, ⟨.mulc {} 3 1 5, K.exact, k true⟩,
          ⟨.ldc {} 3 5, K, k false⟩, ⟨.addc {} 3 1 5, K, k false⟩, ⟨.subc {} 3 1 5, K, k false⟩, ⟨.mulc {} 3 1 5, K, k false⟩])) := mets (by decide +kernel)
theorem witness_LocalLoads_earliest : let th : Thread := { run := { pendErr := some { addr := 8, src := 0, ord := 4 } } }
    ({} : Thread).run.pendErr = none ∧ th.run.pendErr = some { addr := 8, src := 0, ord := 4 } ∧ 4 ≤ 4 ∧ 3 < 4 := ⟨rfl, rfl, by decide, by decide⟩
theorem witness_LocalStores :
    Mets ((([(.stB {} 1 2 0, 1), (.stH {} 1 2 0, 2), (.stW {} 1 2 0, 4), (.stD {} 1 2 0, 8), (.fstS {} 1 2 0, 4), (.fstD {} 1 2 0, 8)] : List (Instr × Nat)).flatMap fun p =>
          [⟨p.1, cell0.xs [(1, 0x2000)], fun A s => s.mem.wf && decide (s.checkLM A.n (A.slot s) 0x2000 p.2 p.2 1 = none) && s.mayB A.n A.t [0x2000]⟩,
           ⟨p.1, (cell0.xs [(1, 0x2000)]).claimed [{ msg := {}, line := 0x2000, left := [], owner := some 0 }], fun A s => decide (s.checkLM A.n (A.slot s) 0x2000 p.2 p.2 1 = none) && s.mayB A.n A.t [0x2000] && !(s.claims A.n A.t).isEmpty⟩,
           ⟨p.1, (cell0.xs [(1, 0x2000)]).shared 0x2000, fun A s => decide (s.checkLM A.n (A.slot s) 0x2000 p.2 p.2 1 = none) && !s.mayB A.n A.t [0x2000]⟩,
           ⟨p.1, cell0.xs [(1, 0x1FF8)], fun A s => decide (s.checkLM A.n (A.slot s) 0x1FF8 p.2 p.2 1 = some { cause := 0x40, addr := 0x1FF8, detail := 4 })⟩])) := mets (by decide +kernel)
theorem witness_MemoryReadsWhatWasWritten : cell0.mem.wf = true
    ∧ (let u : Thread := { run := { undo := (List.range 31).map fun i => { line := i, bytes := [], mask := 0 } } }
       (∀ x ∈ u.run.undo, x.line ≠ 99) ∧ u.run.undo.length < 32 ∧ ∃ x ∈ u.run.undo, x.line = 5)
    ∧ (let u : Thread := { run := { undo := (List.range 32).map fun i => { line := i, bytes := [], mask := 0 } } }
       (∀ x ∈ u.run.undo, x.line ≠ 99) ∧ 32 ≤ u.run.undo.length) := by decide +kernel
/-- Operands that are equal, and that lie on both sides of one another as signed and as unsigned numbers. -/
theorem witness_BranchesGoWhereTheySay :
    let eq := cell0.xs [(1, 5), (2, 5)]
    let lo := cell0.xs [(1, -1), (2, 1)]
    let hi := cell0.xs [(1, 1), (2, -1)]
    Mets (([⟨.beq {} 1 2 1, eq, fun A s => decide (A.ra s = A.rb s)⟩, ⟨.beq {} 1 2 1, lo, fun A s => decide (A.ra s ≠ A.rb s)⟩,
      ⟨.bne {} 1 2 1, lo, fun A s => decide (A.ra s ≠ A.rb s)⟩, ⟨.bne {} 1 2 1, eq, fun A s => decide (A.ra s = A.rb s)⟩,
      ⟨.blt {} 1 2 1, lo, fun A s => decide ((A.ra s).toInt < (A.rb s).toInt)⟩, ⟨.blt {} 1 2 1, eq, fun A s => decide (¬(A.ra s).toInt < (A.rb s).toInt)⟩,
      ⟨.bge {} 1 2 1, eq, fun A s => decide ((A.rb s).toInt ≤ (A.ra s).toInt)⟩, ⟨.bge {} 1 2 1, lo, fun A s => decide (¬(A.rb s).toInt ≤ (A.ra s).toInt)⟩,
      ⟨.bltu {} 1 2 1, hi, fun A s => decide ((A.ra s).toNat < (A.rb s).toNat)⟩, ⟨.bltu {} 1 2 1, lo, fun A s => decide (¬(A.ra s).toNat < (A.rb s).toNat)⟩,
      ⟨.bgeu {} 1 2 1, lo, fun A s => decide ((A.rb s).toNat ≤ (A.ra s).toNat)⟩, ⟨.bgeu {} 1 2 1, hi, fun A s => decide (¬(A.rb s).toNat ≤ (A.ra s).toNat)⟩])) := mets (by decide +kernel)
theorem witness_JumpsLinkAndTransfer : (Mets (all_ cell0 [.jal {} 1 5, .jalr {} 1 2 0, .jalw {} 1 5]))
    ∧ canonical 0x01FFFFFFFFFFFFFF = true ∧ canonical 0x0200000000000000 = false ∧ canonical 0xFE00000000000000 = true
    ∧ (cell0.thread 0 0).run.stepping = false
    ∧ (cell0.thread 0 0).ctrl.repIdx.toNat + 1 < ({ rep := some 2 } : Ctl).count ∧ ({ rep := some 1 } : Ctl).count ≤ (cell0.thread 0 0).ctrl.repIdx.toNat + 1
    ∧ (let s := cell0.run_ fun r => { r with stepping := true }; (s.thread 0 0).run.stepping = true ∧ (s.thread 0 0).run.st = .running) :=
  ⟨mets (by decide +kernel), by decide +kernel⟩
theorem witness_LoopsOpenAndClose :
    let body : State := (State.reset.place [0x00CE0640, 0x4B, 0x00823004, 0x00823000]).xs [(7, 0)]
    Mets ([⟨.loop {} 0 7 8, cell0.xs [(7, 5), (8, 0x10008)], fun A s => decide ((A.ra s).extractLsb' 0 32 ≠ 0)⟩,
      ⟨.loop {} 3 7 8, body.xs [(7, 0xF00000000), (8, 0x1000C)], fun A s => decide ((A.ra s).extractLsb' 0 32 = 0) && okB (s.shapeFrom A.n (A.ctx s) (vaOf (((A.rb s) &&& ~~~3).setWidth 58)) 0 5) 1⟩,
      ⟨.loop {} 3 7 8, body.xs [(7, 0), (8, 0x1000000)], fun A s => decide ((A.ra s).extractLsb' 0 32 = 0) && errB (s.shapeFrom A.n (A.ctx s) (vaOf (((A.rb s) &&& ~~~3).setWidth 58)) 0 5)
        { cause := 0x20, addr := 0x1000000, detail := 15 }⟩,
      ⟨.loopi {} 0 7 1, cell0.xs [(7, 5)], fun A s => decide ((A.ra s).extractLsb' 0 32 ≠ 0)⟩,
      ⟨.loopi {} 0 7 1, body, fun A s => decide ((A.ra s).extractLsb' 0 32 = 0) && okB (s.shapeFrom A.n (A.ctx s) (vaOf ((A.pc + 4 * ({} : Ctl).immU 1#10).setWidth 58)) 0 5) 2⟩,
      ⟨.loopi {} 0 7 1023, body.xs [(7, 0)], fun A s => decide ((A.ra s).extractLsb' 0 32 = 0) && isOk (s.shapeFrom A.n (A.ctx s) (vaOf ((A.pc + 4 * ({} : Ctl).immU 1023#10).setWidth 58)) 0 5)⟩,
      ⟨.loopi {} 0 7 0, cell0, fun _ _ => true⟩, ⟨.lpbrk {} 3, cell0, fun _ _ => true⟩])
    ∧ (let th : Thread := { lpCount := #v[1, 0, 0, 2], lpEnd := #v[0x10008, 0, 0, 0x10008] }
       (vget th.lpCount 3 ≠ 0 ∧ vget th.lpEnd 3 = (0x10008 &&& 0x3FFFFFFFFFFFFFF) ∧ (vget th.lpCount 3).toNat ≠ 1) ∧ (vget th.lpCount 0).toNat = 1
        ∧ ¬(vget th.lpCount 1 ≠ 0)) := ⟨mets (by decide +kernel), by decide +kernel⟩

/-! #### O22 to O31 -/

/-- An exact value, one marked as not exact, a tie, and a value on either side of it; the quantum is 4 units. -/
theorem witness_RoundingsFollowTheirModes :
    let part : Nat → Nat → Nat := fun num den => num % (2 ^ 2 * den)
    (part 8 1 = 0 ∧ ({ m := 8 } : Ex).st = false) ∧ (part 5 1 ≠ 0 ∧ ¬4 < 2 * part 5 1) ∧ (2 * part 6 1 = 4 ∧ 6 / 4 % 2 = 1) ∧ 4 < 2 * part 7 1
      ∧ (let x : Ex := { m := 5, st := true }; x.st = true ∧ 1 ≤ 2 ∧ x.m * 2 < 11 ∧ 11 < (x.m + 1) * 2 ∧ part 11 2 ≠ 0) ∧ 64 ≤ 64
      ∧ (0x9E3779B97F4A7C15 : Word) ≠ 0 := by decide
theorem witness_ScalarResultsRoundOnce :
    let F := binary32
    let y : Ex → Ex := fun x => let q := max (x.top - F.p + 1) (F.emin - F.fb); { neg := x.neg, m := (roundAt q 0 5 x).1, e := q }
    let least : Ex := { m := 1, e := -149 }
    let most : Ex := { m := 0xFFFFFF, e := 104 }
    let past : Ex := { neg := true, m := 1, e := 128 }
    let none_ : Ex := { m := 1, e := -200 }
    (0 < least.m ∧ (y least).top ≤ F.bias) ∧ (y most).top ≤ F.bias ∧ ((y past).m ≠ 0 ∧ (F.bias : Int) < (y past).top) ∧ (y none_).m = 0 ∧ (0 : BitVec 3).toNat ≤ 6 := by
  decide +kernel
theorem witness_OperationsAreExact :
    let x : Ex := { m := 3, e := -2 }
    let y : Ex := { neg := true, m := 3, e := -2 }
    let z : Ex := {}
    let nz : Ex := { neg := true }
    ((-2 : Int) ≤ x.e ∧ -2 ≤ y.e ∧ -2 ≤ (addEx 0 x x).e ∧ x.st = false) ∧ (addEx 0 x y).m = 0 ∧ (addEx 3 x y).neg = true ∧ (addEx 0 nz nz).neg = true
      ∧ (addEx 0 z nz).m = 0 ∧ y.m ≠ 0 ∧ ((Val.nan true).isNan = true ∧ (Val.num x).isNan = false) ∧ (Val.nan true).sNan = true ∧ (z.zero = true ∧ z.m = 0)
      ∧ (y.m ≠ 0 ∧ y.neg = true) ∧ x.neg = false := by decide +kernel
theorem witness_FloatArithmetic : Mets (all_ cell0 [.faddS {} 3 1 2, .faddD { mod := some 6 } 3 1 2, .fsubS {} 3 1 2, .fsubD {} 3 1 2, .fmulS {} 3 1 2, .fmulD {} 3 1 2,
    .fdivS {} 3 1 2, .fdivD {} 3 1 2, .fsqrtS {} 3 1, .fsqrtD {} 3 1, .fmaddS {} 3 1 2 4, .fmaddD {} 3 1 2 4, .fmsubS {} 3 1 2 4, .fmsubD {} 3 1 2 4]) := mets (by decide +kernel)
/-- NaNs, zeros of both signs, and numbers on either side of one another, in binary64; infinities and a number that clamps for the conversions. -/
theorem witness_FloatSelectionConversionsAndMoves :
    let nan : Word := 0x7FF8000000000000
    let p : State → (Val → Val → Bool) → List Wit := fun s q =>
      ([.fminD {} 3 1 2, .fmaxD {} 3 1 2, .fcmpqD {} 3 1 2, .fcmpsD {} 3 1 2] : List Instr).map fun i => ⟨i, s, fun A s => q (Prec.d.val (A.ra s)) (Prec.d.val (A.rb s))⟩
    let v : Word → Word → State := fun x y => cell0.fs [(1, x), (2, y)]
    let t : Word → (Val → Bool) → List Wit := fun x q =>
      ([.fcvF64I32 {} 3 1, .fcvF64I64 {} 3 1, .fcvF64U64 {} 3 1] : List Instr).map fun i => ⟨i, v x 0, fun A s => q (Prec.d.val (A.ra s))⟩
    Mets (p (v nan nan) (fun x y => x.isNan && y.isNan) ++ p (v nan 0) (fun x y => x.isNan && !y.isNan) ++ p (v 0 nan) (fun x y => !x.isNan && y.isNan)
      ++ p (v 0x8000000000000000 0) (fun x y => !x.isNan && !y.isNan && decide (cmpVal x y = 0) && x.neg? && !y.neg?)
      ++ p (v 0 0x8000000000000000) (fun x y => decide (cmpVal x y = 0) && !x.neg? && y.neg?) ++ p (v 0 0) (fun x y => decide (cmpVal x y = 0) && decide (x.neg? = y.neg?))
      ++ p (v 0 0x3FF0000000000000) (fun x y => decide (cmpVal x y < 0)) ++ p (v 0x3FF0000000000000 0) (fun x y => decide (0 < cmpVal x y))
      ++ t nan Val.isNan ++ t 0xFFF0000000000000 (fun x => decide (x = .inf true)) ++ t 0x3FE0000000000000 (fun x => match x with | .num _ => true | _ => false)
      ++ all_ cell0 [.fminS {} 3 1 2, .fmaxS {} 3 1 2, .fcsgnS {} 3 1 2, .fnsgnS {} 3 1 2, .fxsgnS {} 3 1 2, .fcsgnD {} 3 1 2, .fnsgnD {} 3 1 2, .fxsgnD {} 3 1 2,
        .fcmpqS {} 3 1 2, .fcmpsS {} 3 1 2, .ftypeS {} 3 1, .ftypeD {} 3 1, .fcvF64F32 {} 3 1, .fcvF32F64 {} 3 1, .fcvI32F32 {} 3 1, .fcvI64F32 {} 3 1, .fcvI32F64 {} 3 1,
        .fcvI64F64 {} 3 1, .fcvU64F32 {} 3 1, .fcvU64F64 {} 3 1, .fcvF32I32 {} 3 1, .fcvF32I64 {} 3 1, .fcvF32U64 {} 3 1, .fgetD {} 3 1, .fsetD {} 3 1, .fgetS {} 3 1,
        .fsetS {} 3 1]) := mets (by decide +kernel)
theorem witness_PoantResultsRoundOnce :
    let top : Nat → Ex → Int := fun p x => (roundTo p 0 5 x).1.top
    let big : BitVec 3 → Bool → Bool := fun m n => decide (m = 0 ∨ m = 1 ∨ m = 6 ∨ (m = 3 ∧ n = true) ∨ (m = 4 ∧ n = false))
    let least : BitVec 3 → Bool → Bool := fun m n => decide (m = 5 ∨ (m = 3 ∧ n = true) ∨ (m = 4 ∧ n = false))
    (9 ≤ 9 ∧ 249 ≤ 249) ∧ (-262142 ≤ top 9 { m := 1, e := -262142 } ∧ top 249 { m := 1, e := 262143 } ≤ 262143)
      ∧ 262143 < top 9 { m := 1, e := 262144 } ∧ top 9 { m := 1, e := -262143 } < -262142
      ∧ (big 0 false = true ∧ big 2 true = false ∧ big 3 true = true ∧ big 3 false = false) ∧ (least 5 true = true ∧ least 4 true = false ∧ least 4 false = true)
      ∧ (15 < 16 ∧ 0x7FFFF < 2 ^ 19 ∧ 255 < 256) := by decide +kernel

/-- Windows: 1 holds 1, 2 holds 1 + 2^-8, 3 holds three granules' room; the pool's first granules are theirs. -/
def wins : State := cell0.ws [(1, 0x03FFFF0000001000), (2, 0x03FFFF0100001000), (3, 0x1300)]
theorem witness_WindowsReadBack :
    (let th := wins.thread 0 0; th.pool.wf = true ∧ ({ hdr := 0x08000000, gran := [5] } : Poant).gran.length = poN 0x08000000 ∧ winV (th.reg .w 3) = true ∧ 0 < winLen (th.reg .w 3))
    ∧ (let taken : Args → State → Nat → Bool := fun A s k => (List.range 32).any fun r => decide (r ≠ A.d) && winV (vget (A.th s).w r)
        && (List.range (winLen (vget (A.th s).w r))).any fun i => decide (k = winIx (vget (A.th s).w r) i)
       let fits : Args → State → Nat → Nat → Bool := fun A s len b => decide (b + len ≤ 256) && (List.range len).all fun i => !taken A s (b + i)
       let full := cell0.ws ((List.range 17).map fun i => (i + 1, BitVec.ofNat 64 (0x1F00 + 15 * i)))
       let len : Args → State → Nat := fun A s => (poPrec A s - 9 + 15) / 16
       let lx : Args → State → Nat := fun A s => min 15 (A.ra s).toNat
       let none_ : (Args → State → Nat) → Args → State → Bool := fun n A s => (List.range 257).all fun b => !fits A s (n A s) b
       Mets [⟨.poalloc {} 4, wins, fun A s => fits A s (len A s) 3 && (List.range 3).all fun k => !fits A s (len A s) k⟩, ⟨.poalloc {} 0, full, none_ len⟩,
         ⟨.poallocX {} 4 1, wins.xs [(1, 16)], fun A s => decide (lx A s = 15) && fits A s (lx A s) 3 && (List.range 3).all fun k => !fits A s (lx A s) k⟩,
         ⟨.poallocX {} 4 1, wins, fun A s => decide (lx A s = 0) && fits A s (lx A s) 0⟩, ⟨.poallocX {} 0 1, full.xs [(1, 2)], none_ lx⟩, ⟨.pofree {} 3, wins, fun _ _ => true⟩]) :=
  ⟨by decide +kernel, mets (by decide +kernel)⟩

/-- The three outcomes of po_result for a value `v` at precision `p`: 0 the window is too small under XE, 1 inexact under XI, 2 delivered. -/
def poCase (k : Nat) (p : Args → State → Nat) (v : Args → State → Val) (A : Args) (s : State) : Bool :=
  let len := if winV (A.rd s) then winLen (A.rd s) else 0
  let wide := (match v A s with | .num x => !x.zero | _ => false) && decide (len < granCount (p A s))
  let xe := wide && precXe (A.th s).ctrl.prec
  let q := if wide then 9 + 16 * len else p A s
  let xi := precXi (A.th s).ctrl.prec && (poRound q (poMode A s) (A.th s).draw (v A s)).flags.getLsbD 0
  match k with | 0 => xe | 1 => !xe && xi | _ => !xe && !xi
/-- The instruction meets each outcome: to a window with no room, to one with room at precision 9, and to one with room. -/
def po3 (i : Ctl → BitVec 5 → Instr) (v : Args → State → Val) (s : State) : List Wit :=
  let traps := s.ctrl_ fun c => { c with prec := 53 + 2 ^ 11 + 2 ^ 12 }
  let p : Args → State → Nat := fun A s => A.ctl.poOr ((A.th s).ctrl.prec.extractLsb' 0 8).toNat
  [⟨i {} 4, traps, poCase 0 p v⟩, ⟨i { mod := some 0x127 } 4, traps, poCase 1 p v⟩, ⟨i {} 3, s, poCase 2 p v⟩]
theorem witness_PoantArithmetic :
    let va : Args → State → Val := fun A s => ((A.th s).readW A.fa A.a).val
    let vb : Args → State → Val := fun A s => ((A.th s).readW A.fb A.b).val
    let ve : Args → State → Val := fun A s => ((A.th s).readW A.fe A.e).val
    let m : Args → State → BitVec 3 := poMode
    let tiny := wins.ws [(1, 0x03FFFF0000001000), (2, 0x03F0000100001000)]
    let odd := (wins.ws [(1, 0x0BFFFF0000001110), (2, 0x03FFFF0300001000)]).xs [(5, 0x1234567)]
    let odd := odd.fs [(1, 0x3FD5555555555555), (2, 0xFFFFFFFF3EAAAAAB)]
    let odd := odd.modThread 0 0 fun th => { th with pool := [(16, 0x5555)] }
    Mets (po3 (fun c d => .poadd c d 1 2) (fun A s => opAdd (m A s) (va A s) (vb A s) |>.v) tiny ++ po3 (fun c d => .posub c d 1 2) (fun A s => (opAdd (m A s) (va A s) (vb A s).negate).v) tiny
      ++ po3 (fun c d => .pomul c d 2 2) (fun A s => (opMul (va A s) (vb A s)).v) odd ++ po3 (fun c d => .podiv c d 1 2) (fun A s => (opDiv (va A s) (vb A s)).v) odd
      ++ po3 (fun c d => .posqrt c d 2) (fun A s => (opSqrt (va A s)).v) odd ++ po3 (fun c d => .pofma c d 1 2 2) (fun A s => (opFma (m A s) (va A s) (vb A s) (ve A s)).v) odd
      ++ po3 (fun c d => .pocvtPD c d 1) (fun A s => Prec.d.val (A.ra s)) odd ++ po3 (fun c d => .pocvtPS c d 2) (fun A s => Prec.s.val (A.ra s)) odd
      ++ po3 (fun c d => .pocvtPL c d 5) (fun A s => .num { neg := decide ((A.ra s).toInt < 0), m := (A.ra s).toInt.natAbs, e := 0 }) odd
      ++ po3 (fun c d => .pocvtPP c d 1) va odd) := mets (by decide +kernel)
theorem witness_PoantComparisonsConversionsAndSums :
    let run : Args → State → Except Fail (Dot × State) := fun A s =>
      dotGo (A.ctl.rmOr ((A.th s).ctrl.prec.extractLsb' 8 3)) (bitsOf (A.re s).toNat 32 2) (bitsOf (A.re s).toNat 34 2) A s {} ((A.re s).toNat % 2 ^ 20)
    let acc : Args → State → Val := fun A s => match run A s with
      | .ok (k, u) => match k.val with
        | none => ((A.th u).readW A.fd A.d).val
        | some v => (opAdd (poMode A s) ((A.th u).readW A.fd A.d).val v).v
      | .error _ => .nan false
    let two := wins.qs [(1, 0x800003000), (2, 0x800004000)]
    let x : List (Nat × Word) := [(5, 0x500000002)]
    let some_ := ((two.xs x).put 0x3000 (natBytes 8 0x3FF5555555555555 ++ natBytes 8 0x3FD5555555555555)).put 0x4000 (natBytes 8 0x3FF0000000000001)
    Mets ([.pocmpEq {} 3 1 2, .pocmpLt {} 3 1 2, .pocmpLe {} 3 1 2, .pocvtDP {} 3 1, .pocvtSP {} 3 1, .pocvtLP {} 3 1].map (fun i => ⟨i, wins, fun _ _ => true⟩)
      ++ [⟨.podot {} 3 1 2 5, (wins.qs [(1, 0x300000), (2, 0x4000)]).xs x, fun A s => errB (run A s) { cause := 0x25, addr := 0x300000, detail := 0 }⟩,
          ⟨.podot {} 3 1 2 5, two, fun A s => isOk (run A s) && decide ((A.re s).toNat = 0)⟩]
      ++ po3 (fun c d => .podot c d 1 2 5) (fun A s => acc A s) some_) := mets (by decide +kernel)
theorem witness_PoantComparisonsConversionsAndSums_sumsOfProducts : let k : Dot := { sum := some { m := 3, e := -1 } }
    k.nan = false ∧ k.invalid = false ∧ k.pos = false ∧ k.neg = false ∧ ({ m := 5, e := 2 } : Ex).st = false ∧ (∀ z, k.sum = some z → z.st = false)
      ∧ -1 ≤ (2 : Int) + 2 := by
  refine ⟨rfl, rfl, rfl, rfl, rfl, ?_, by decide⟩
  intro z h; cases h; rfl

/-- The three outcomes of po_result for a Poant load, whose precision is the element's own. -/
def poLoad (k : Nat) (f : Args → State → Except Fail Poant) (A : Args) (s : State) : Bool :=
  match f A s with
  | .error _ => false
  | .ok p => poCase k (fun _ _ => 9 + 16 * poN p.hdr) (fun _ _ => p.val) A s
theorem witness_PoantLoadsAndStores :
    let q : Args → State → Nat := fun A s => ((A.ra s).extractLsb' 0 22).toNat
    let str : Args → State → Except Fail Poant := fun A s => (s.loadPoant A (q A s) (4 + 2 * 15)).map Prod.fst
    let pk : Args → State → Except Fail Poant := fun A s => match s.sideEntries A 0 with
      | .error f => .error f
      | .ok (lo, hi, u) => if slotOk lo hi then (u.loadPoant A (packedBase (A.ra u) + lo) (hi - lo)).map Prod.fst else .error { cause := 0 }
    let bad : Args → State → Bool := fun A s => match s.sideEntries A 0 with | .error _ => false | .ok (lo, hi, _) => !slotOk lo hi
    let elem := (wins.qs [(1, 0x600003000), (2, 0x300000)]).put 0x3000 (natBytes 4 0x0BFFFF00 ++ [0x55, 0x55])
    let side := (elem.xs [(1, 0x500000003000), (2, 3), (4, 0x30000000000000), (5, 0x5000002FFFFE)]).put 0x500C (natBytes 4 0 ++ natBytes 4 6 ++ natBytes 4 5)
    let side := (side.put 0x5018 (natBytes 4 0 ++ natBytes 4 4)).xs [(7, 6), (8, 5)]
    let xe : State → State := fun s => s.ctrl_ fun c => { c with prec := 53 + 2 ^ 11 }
    let xi : State → State := fun s => s.ctrl_ fun c => { c with prec := 53 + 2 ^ 12 }
    let room : Args → State → Nat := fun A s => match s.sideEntries A 0 with | .error _ => 0 | .ok (lo, hi, _) => hi - lo
    let at_ : Args → State → Nat := fun A s => match s.sideEntries A 0 with | .error _ => 0 | .ok (lo, _, _) => ((A.ra s).extractLsb' 0 22).toNat + lo
    let st : Nat → (Args → State → Nat) → (Args → State → Nat) → Args → State → Bool := fun k o room A s =>
      let r := poStored (room A s) ((A.th s).readW A.fd A.d) (poMode A s) (A.th s).draw
      let ok := (s.checkLM A.n (A.slot s) (offWord (o A s)) (room A s) 2 1).isNone
      let inx := precXi (A.th s).ctrl.prec && r.flags.getLsbD 0
      match k with | 0 => !ok | 1 => ok && inx | _ => ok && !inx
    let wide := (side.ws [(3, 0x0BFFFF0000001100)]).modThread 0 0 fun th => { th with pool := [(0, 0x5555)] }
    let four : Args → State → Nat := fun _ _ => 4
    Mets [⟨.poldS {} 15 3 2, elem, fun A s => errB (s.loadPoant A (q A s) (4 + 2 * 15)) { cause := 0x25, addr := 0x300000 }⟩,
      ⟨.poldS {} 15 4 1, xe elem, poLoad 0 str⟩, ⟨.poldS {} 15 4 1, xi elem, poLoad 1 str⟩, ⟨.poldS {} 15 3 1, elem, poLoad 2 str⟩,
      ⟨.poldP {} 3 4 2, side, fun A s => !isOk (s.sideEntries A 0)⟩, ⟨.poldP {} 3 5 2, side, fun A s => !isOk (pk A s) && !bad A s && isOk (s.sideEntries A 0)⟩,
      ⟨.poldP {} 4 1 2, xe side, poLoad 0 pk⟩, ⟨.poldP {} 4 1 2, xi side, poLoad 1 pk⟩, ⟨.poldP {} 3 1 2, side, poLoad 2 pk⟩,
      ⟨.poldP {} 3 1 6, side.xs [(6, 4)], bad⟩,
      ⟨.posvS {} 0 3 2, wide, st 0 q four⟩, ⟨.posvS {} 0 3 1, xi wide, st 1 q four⟩, ⟨.posvS {} 0 3 1, wide, st 2 q four⟩,
      ⟨.posvP {} 3 5 2, wide, fun A s => isOk (s.sideEntries A 0) && !bad A s && st 0 at_ room A s⟩,
      ⟨.posvP {} 3 1 7, xi wide, fun A s => isOk (s.sideEntries A 0) && !bad A s && st 1 at_ room A s⟩,
      ⟨.posvP {} 3 1 7, wide, fun A s => isOk (s.sideEntries A 0) && !bad A s && st 2 at_ room A s⟩,
      ⟨.posvS {} 0 3 1, wide.shared 0x3000, fun A s => st 2 q four A s && !s.mayB A.n A.t (linesOf (q A s) 4)⟩,
      ⟨.posvS {} 0 3 1, wide, fun A s => st 2 q four A s && s.mayB A.n A.t (linesOf (q A s) 4)⟩,
      ⟨.posvP {} 3 4 2, wide, fun A s => !isOk (s.sideEntries A 0)⟩, ⟨.posvP {} 3 1 8, wide, fun A s => decide ((A.rb s).toNat = 5) && isOk (s.sideEntries A 0)⟩,
      ⟨.posvP {} 3 1 6, wide.xs [(6, 4)], bad⟩] := mets (by decide +kernel)

/-- What memory holds of an element: a range that fails, one whose granules exceed the room, one whose granules alone fail, and a clean one;
the side table's two entries, each failing alone; the values that a slot receives. -/
theorem witness_PoantLoadsAndStores_elements :
    let A : Args := argsOf { ctl := {} } 0 0 0 0
    let s := cell0.put 0x3000 (natBytes 4 0x0BFFFF00)
    let edge := cell0.put 0x2FFFFA (natBytes 4 0x1BFFFF00)
    let fails (s : State) (o len : Nat) : Bool := (s.checkLM 0 (A.slot s) (offWord o) len 2 0).isSome
    let n (s : State) (o : Nat) : Nat := ((BitVec.ofNat 32 (s.readNat o 4)).extractLsb' 27 4).toNat
    fails s 0x2FFFFE 4 = true
      ∧ (fails s 0x3000 4 = false ∧ (List.range 6).all (fun k => !s.poisoned (0x3000 + k)) = true ∧ n s 0x3000 = 1 ∧ 4 < 4 + 2 * n s 0x3000 ∧ fails s 0x3000 6 = false)
      ∧ (fails edge 0x2FFFFA 4 = false ∧ n edge 0x2FFFFA = 3 ∧ fails edge 0x2FFFFA 10 = true)
      ∧ ((s.checkLM 0 (A.slot s) (offWord 0x2FFFFC) 4 4 0).isSome = false ∧ (s.checkLM 0 (A.slot s) (offWord (0x2FFFFC + 4)) 4 4 0).isSome = true)
      ∧ (poNan.val.isNan = true ∧ poNan.val ≠ .inf false)
      ∧ (({ hdr := 0x07FFFF00, gran := [] } : Poant).val = .inf false ∧ poN 0x07FFFF00 ≤ 0)
      ∧ (match ({ hdr := 0x0BFFFF00, gran := [1] } : Poant).val with | .num _ => true | _ => false) = true ∧ poN 0x0BFFFF00 = 1 := by decide +kernel

/-! #### O32 to O36 -/

theorem witness_TranslationChecksInOrder :
    let s := cell0.mapped
    let e (v : Nat) : Word := BitVec.ofNat 64 v
    let leaf (t : TlbEnt) (va : Word) : Nat := leafPa t.level t.leaf va
    let t0 : TlbEnt := { die := 0, ctx := 0, level := 1, vpn := 0, leaf := 0x1D }
    let t1 : TlbEnt := { die := 0, ctx := 0, level := 1, vpn := 1, leaf := 0x40000000001D }
    let t3 : TlbEnt := { die := 0, ctx := 0, level := 1, vpn := 3, leaf := 0x10000000005 }
    (canonical 0x0200000000000000 = false ∧ canonical 0x01FFFFFFFFFFFFFF = true)
      ∧ (cell0.tlbHit 0 0 0x1000000 = none ∧ isOk (cell0.walkFrom 0x1000000 (cell0.ptRoot 0) 0 4) = false)
      ∧ (s.dieOf 0 = 0 ∧ s.tlbHit 0 0 0x3000 = some t0 ∧ spaceLdSt (spaceOf (leaf t0 0x3000)) = true ∧ s.permits 0 .load t0.leaf (leaf t0 0x3000) = true)
      ∧ (s.tlbHit 0 0 0x1000000008 = some t1 ∧ spaceBank (spaceOf (leaf t1 0x1000000008)) = false)
      ∧ (s.tlbHit 0 0 0x3000000008 = some t3 ∧ spaceBulk (spaceOf (leaf t3 0x3000000008)) = true ∧ s.permits 0 .store t3.leaf (leaf t3 0x3000000008) = false)
      ∧ (3 : Word).toNat % 8 ≠ 0
      ∧ (let u := State.reset.put 0x10000000000 (natBytes 8 0x10000004003); u.readWord 0x10000000000 = e 0x10000004003 ∧ spaceOf 0x10000000000 = .bulk ∧ u.poisoned 0x10000000000 = false
          ∧ (e 0x10000004003).getLsbD 0 = true ∧ (e 0x10000004003).getLsbD 1 = true ∧ (e 0x10000004003).extractLsb' 48 16 = 0 ∧ (e 0x10000004003).extractLsb' 2 12 = 0)
      ∧ (e 0x100000040F3).extractLsb' 2 12 ≠ 0 ∧ (e 0).getLsbD 0 = false ∧ ((e 0x1D).getLsbD 0 = true ∧ (e 0x1D).getLsbD 1 = false ∧ leafOk 0x1D 3 = true)
      ∧ spaceOf 0x1000 ≠ .bulk ∧ (leafW 0x9 = true ∧ leafR 0x9 = false) ∧ leafContig 0x40 = true ∧ (0x100 : Word).extractLsb' 8 6 ≠ 0 ∧ (0x20000000000000 : Word).extractLsb' 53 5 ≠ 0 := by
  decide +kernel
/-- Each permission met and missed; a page of a CONTIG group beside the page that was walked. -/
theorem witness_TranslationChecksInOrder_permissionsAndGroups :
    let s := cell0.mapped
    let p := s.privileged
    let owner : State := { s with ctxs := assocSet s.ctxs 0 { words := #v[BitVec.ofNat 64 (0x8001000000000000 + placeRoot), 0, 0, 0, 0, 0, 0, 0] } }
    let e : TlbEnt := { die := 0, ctx := 0, level := 2, vpn := 0x21, leaf := 0x10000000045 }
    (s.permits 0 .load 5 0x3000 = true ∧ s.permits 0 .store 5 0x3000 = false ∧ s.permits 0 .amo 0x9 0x3000 = false ∧ s.permits 0 .amo 0xD 0x3000 = true ∧ s.permits 0 .fetch 5 0x3000 = false ∧ s.permits 0 .fetch 0x11 0x3000 = true)
      ∧ (s.permits 0 .load 0x25 0x3000 = false ∧ p.permits 0 .load 0x25 0x3000 = true)
      ∧ (s.permits 0 .load 5 0x600000000000 = false ∧ owner.permits 0 .load 5 0x600000000000 = true)
      ∧ (s.permits 0 .load 5 0x400000000000 = false ∧ p.permits 0 .load 5 0x400000000000 = true)
      ∧ (e.groupHas (BitVec.ofNat 64 (0x22 * pageSize 2)) = true ∧ e.groupHas (BitVec.ofNat 64 (0x20 * pageSize 2)) = true ∧ e.groupHas (BitVec.ofNat 64 (0x30 * pageSize 2)) = false)
      ∧ e.vpn = pageNo (BitVec.ofNat 64 (0x21 * pageSize 2)) e.level := by decide +kernel

/-- Addresses by where they lead from cell 0: its own memory, cell 1's, a register, and one that does not translate. -/
def own : State := cell0.mapped.privileged.xs [(1, 0x3000), (2, 0x403000), (4, 0x1000000000), (5, 0x6000000000), (6, 0x1010000400), (7, 7)]
/-- A load's translation, its home and offset. -/
def ldvAt (len h o : Nat) (A : Args) (s : State) : Bool :=
  !(decide (A.fd = .x) && decide (A.d = 0)) && (match s.translateAligned A.n (A.ctx s) .load spaceLdSt (A.ra s) len with | .ok pa => decide (homeOf pa = some (h, o)) | .error _ => false)
def ldvDev (len : Nat) (ok : Bool) (A : Args) (s : State) : Bool :=
  match s.translateAligned A.n (A.ctx s) .load spaceLdSt (A.ra s) len with | .ok pa => decide (homeOf pa = none) && decide (devWidthOk pa len true = ok) | .error _ => false
theorem witness_LoadsByVirtualAddress :
    let P := own.bad_ 0x3000
    let all : State → Nat → Nat → Bool := fun s o len => (((s.seen 0 0 (lineOf (0x400000 + o))).drop (o % 64)).take len).all Option.isSome
    let fresh : Args → State → Nat → Bool := fun A s len => (A.th s).outs.all (fun x => !x.held) && !s.atomicAhead A.n 0x403000 len
    let held (w : Option Nat) (p : Bool) : State := own.exact.modThread 0 0 fun th => { th with outs := [{ file := .x, reg := 3, value := 7, wait := w, held := true, poison := p }] }
    let first : Args → State → (Outst → Bool) → Bool := fun A s p => ((A.th s).outs.find? fun y => y.held).any p
    let ahead := (own.xs [(1, 0x403000)]).modMem 0 fun m => { m with fwd := [{ msg := { id := 7, kind := 4, dst := 1, opa := 0x3000 } }] }
    let boxed := own.run_ fun r => { r with outbox := [{ kind := 1, dst := 1, opa := 0x3000, opb := 5, payload := [], aux := 3, bytes := 0 }] }
    let cached := own.modCore 0 0 fun c => { c with l1d := [{ line := lineOf 0x403000, bytes := List.replicate 64 0 }] }
    Mets ((([(.ldvB {} 3 1 0, 1), (.ldvH {} 3 1 0, 2), (.ldvW {} 3 1 0, 4), (.ldvD {} 3 1 0, 8), (.ldvBu {} 3 1 0, 1), (.ldvHu {} 3 1 0, 2), (.ldvWu {} 3 1 0, 4)] : List (Instr × Nat)).flatMap fun p =>
        [⟨p.1, own, fun A s => ldvAt p.2 0 0x3000 A s && !s.poisoned 0x3000⟩, ⟨p.1, P, fun A s => ldvAt p.2 0 0x3000 A s && s.poisoned 0x3000 && !s.precise A.n (A.slot s)⟩,
         ⟨p.1, P.exact, fun A s => ldvAt p.2 0 0x3000 A s && s.poisoned 0x3000 && s.precise A.n (A.slot s)⟩,
         ⟨p.1, own.xs [(1, 0x403000)], fun A s => ldvAt p.2 1 0x3000 A s && fresh A s p.2 && !all s 0x3000 p.2 && !s.precise A.n (A.slot s)⟩,
         ⟨p.1, own.exact.xs [(1, 0x403000)], fun A s => ldvAt p.2 1 0x3000 A s && fresh A s p.2 && !all s 0x3000 p.2 && s.precise A.n (A.slot s)⟩,
         ⟨p.1, cached.xs [(1, 0x403000)], fun A s => ldvAt p.2 1 0x3000 A s && fresh A s p.2 && all s 0x3000 p.2⟩,
         ⟨p.1, ahead, fun A s => ldvAt p.2 1 0x3000 A s && (A.th s).outs.isEmpty && s.atomicAhead A.n 0x403000 p.2⟩,
         ⟨p.1, (held (some 4) false).xs [(1, 0x403000)], fun A s => ldvAt p.2 1 0x3000 A s && first A s fun x => x.wait.isSome⟩,
         ⟨p.1, (held none false).xs [(1, 0x403000)], fun A s => ldvAt p.2 1 0x3000 A s && first A s fun x => x.wait.isNone && !x.poison⟩,
         ⟨p.1, (held none true).xs [(1, 0x403000)], fun A s => ldvAt p.2 1 0x3000 A s && first A s fun x => x.wait.isNone && x.poison⟩,
         ⟨p.1, own.xs [(1, 0x6000000000)], fun A s => !isOk (s.translateAligned A.n (A.ctx s) .load spaceLdSt (A.ra s) p.2)⟩])
      ++ [⟨.ldvD {} 0 5 0, own, fun A _ => decide (A.fd = .x ∧ A.d = 0)⟩, ⟨.ldvD {} 3 4 0, own, ldvDev 8 true⟩, ⟨.ldvWu {} 3 4 0, own.xs [(4, 0x1000100000)], ldvDev 4 true⟩, ⟨.ldvW {} 3 4 0, own, ldvDev 4 false⟩,
        ⟨.ldvB {} 3 4 0, own, ldvDev 1 false⟩, ⟨.ldvBu {} 3 2 0, boxed, fun A s => ldvAt 1 1 0x3000 A s && fresh A s 1 && all s 0x3000 1⟩, ⟨.ldvD {} 3 2 0, boxed, fun A s => ldvAt 8 1 0x3000 A s && fresh A s 8 && all s 0x3000 8⟩]) :=
  mets (by decide +kernel)
/-- A store and an AMO over bytes of a line: bytes inside and outside of them, known and not known. -/
theorem witness_LoadsByVirtualAddress_overALine :
    let st : Msg := { kind := 1, dst := 1, opa := 0x3008, opb := 5, aux := 3 }
    let am : Msg := { kind := 2, dst := 1, opa := 0x3008, opb := 5, aux := 16 }
    let known : List (Option Byte) := List.replicate 64 (some 0)
    known.length = 64 ∧ st.pa % 64 = 8 ∧ st.pa % 64 + st.width ≤ 64 ∧ am.kind ≠ 1 ∧ am.pa % 64 + am.width ≤ 64
      ∧ (List.range am.width).all (fun j => decide (known[am.pa % 64 + j]? = some (some 0))) = true
      ∧ (List.replicate 64 (none : Option Byte))[am.pa % 64 + 0]? = some none ∧ 0 < am.width := by decide +kernel
/-- No port of the device after reset is closed, and no forward buffer holds anything. -/
theorem witness_LoadsByVirtualAddress_message : State.reset.portsOpen ∧ ∀ n, (State.reset.cell n).mem.fwd = [] := by
  refine ⟨⟨fun n d => ?_, fun n => rfl⟩, fun n => rfl⟩
  simp only [State.vote, State.cell]
  show Vote.closed ((Vector.replicate 6 ({} : Vote))[d]?.getD default) = false
  by_cases h : d < 6 <;> simp [h]
  rfl
def stvAt (len h o : Nat) (A : Args) (s : State) : Bool :=
  match s.translateAligned A.n (A.ctx s) .store spaceLdSt (A.ra s) len with | .ok pa => decide (homeOf pa = some (h, o)) | .error _ => false
def stvDev (len : Nat) (ok : Bool) (w : Option (Nat × Nat)) (A : Args) (s : State) : Bool :=
  match s.translateAligned A.n (A.ctx s) .store spaceLdSt (A.ra s) len with
  | .ok pa => decide (homeOf pa = none) && decide (devWidthOk pa len false = ok) && decide (windowOf pa = w)
  | .error _ => false
theorem witness_StoresByVirtualAddress :
    let full := own.boxed 128 0
    Mets ((([(.stvB {} 1 7 0, 1), (.stvH {} 1 7 0, 2), (.stvW {} 1 7 0, 4), (.stvD {} 1 7 0, 8)] : List (Instr × Nat)).flatMap fun p =>
        [⟨p.1, own, fun A s => stvAt p.2 0 0x3000 A s && s.mayB A.n A.t [0x3000]⟩, ⟨p.1, own.shared 0x3000, fun A s => stvAt p.2 0 0x3000 A s && !s.mayB A.n A.t [0x3000]⟩,
         ⟨p.1, own.xs [(1, 0x403000)], fun A s => stvAt p.2 1 0x3000 A s && (A.th s).outboxRoom 0⟩,
         ⟨p.1, full.xs [(1, 0x403000)], fun A s => stvAt p.2 1 0x3000 A s && !(A.th s).outboxRoom 0⟩,
         ⟨p.1, own.xs [(1, 0x3000000000)], fun A s => !isOk (s.translateAligned A.n (A.ctx s) .store spaceLdSt (A.ra s) p.2)⟩])
      ++ [⟨.stvD {} 4 7 0, own, stvDev 8 true none⟩, ⟨.stvW {} 4 7 0, own, stvDev 4 false none⟩,
        ⟨.stvD {} 6 7 0, own, fun A s => stvDev 8 true (some (0, 0)) A s && (match (s.wake 0).windowWrite 0 0 (windowOff 0x400010000400) (BitVec.ofNat 64 (A.rb s).toNat) with | .done _ => true | .held => false)⟩]) :=
  mets (by decide +kernel)
theorem witness_AtomicsAtTheirBank :
    let s := cell0.put 0x3000 (natBytes 8 5)
    s.mem.wf = true ∧ 0x3000 % amoBytes 31 = 0 ∧ 31 < 32 ∧ s.poisoned 0x3000 = false ∧ (s.bad_ 0x3000).poisoned 0x3000 = true ∧ s.readNat 0x3000 8 = (5 : Word).toNat
      ∧ s.readNat 0x3000 8 ≠ (6 : Word).toNat := by decide +kernel
def amoAt (len h : Nat) (A : Args) (s : State) : Bool :=
  match s.translateAligned A.n (A.ctx s) .amo spaceBank (A.ra s) len with | .ok pa => decide ((homeOf pa).map Prod.fst = some h) | .error _ => false
theorem witness_AtomicInstructions :
    let there := own.xs [(1, 0x403000)]
    let P := own.bad_ 0x3000
    let none_ : Args → Bool := fun A => decide (A.fd = .x) && decide (A.d = 0)
    let rel : Args → State → State × Released := fun A s => (s.noRestart A.n A.t).releaseAll A.n A.t
    let fam : List (BitVec 5 → Instr × Nat) := [fun d => (.amoAdd {} 1 d 1 7, 8), fun d => (.amoAnd {} 0 d 1 7, 4), fun d => (.amoOr {} 1 d 1 7, 8), fun d => (.amoXor {} 0 d 1 7, 4),
      fun d => (.amoMin {} 1 d 1 7, 8), fun d => (.amoMax {} 0 d 1 7, 4), fun d => (.amoMinu {} 1 d 1 7, 8), fun d => (.amoMaxu {} 0 d 1 7, 4), fun d => (.amoSwap {} 1 d 1 7, 8), fun d => (.amoCas {} d 1 7 2, 8)]
    Mets (fam.flatMap fun f => let p := f 3; let z := f 0
        [⟨p.1, own, fun A s => amoAt p.2 0 A s && !s.poisoned 0x3000 && s.mayB A.n A.t [0x3000] && (s.claims A.n A.t).isEmpty⟩,
         ⟨p.1, own.put 0x3000 [7], fun A s => amoAt p.2 0 A s && !s.poisoned 0x3000 && s.mayB A.n A.t [0x3000] && decide (s.readNat 0x3000 8 = (A.rb s).toNat)⟩,
         ⟨p.1, (own.put 0x3000 [7]).shared 0x3000, fun A s => amoAt p.2 0 A s && !s.poisoned 0x3000 && !s.mayB A.n A.t [0x3000] && decide (s.readNat 0x3000 8 = (A.rb s).toNat)⟩, ⟨z.1, P.exact, fun A s => amoAt p.2 0 A s && s.poisoned 0x3000 && none_ A⟩,
         ⟨p.1, P, fun A s => amoAt p.2 0 A s && s.poisoned 0x3000 && !s.precise A.n (A.slot s)⟩,
         ⟨p.1, P.exact, fun A s => amoAt p.2 0 A s && s.poisoned 0x3000 && s.precise A.n (A.slot s) && !none_ A⟩,
         ⟨p.1, own.xs [(1, 0x1000000000)], fun A s => !isOk (s.translateAligned A.n (A.ctx s) .amo spaceBank (A.ra s) p.2)⟩,
         ⟨p.1, there.boxed 128 0, fun A s => amoAt p.2 1 A s && !(A.th s).outboxRoom 0⟩, ⟨z.1, there, fun A s => amoAt p.2 1 A s && (A.th s).outboxRoom 0 && none_ A⟩,
         ⟨p.1, there.boxed 1 0, fun A s => amoAt p.2 1 A s && (A.th s).outboxRoom 0 && !none_ A && decide ((rel A s).2 = .all) && decide (((rel A s).1.cell A.n).mem.fwdUsed < fwdPlaces A.n)⟩,
         ⟨p.1, (there.boxed 1 0).behind 512, fun A s => amoAt p.2 1 A s && (A.th s).outboxRoom 0 && !none_ A && decide ((rel A s).2 = .full)⟩])
    ∧ Mets [⟨.decn {} 1 7, there, fun A s => amoAt 4 1 A s && (A.th s).outboxRoom 0⟩, ⟨.decn {} 1 7, own, fun A s => amoAt 4 0 A s && (A.th s).outboxRoom 0⟩,
         ⟨.decn {} 1 7, there.boxed 128 0, fun A s => amoAt 4 1 A s && !(A.th s).outboxRoom 0⟩,
         ⟨.decn {} 1 7, own.xs [(1, 0x3002)], fun A s => errB (s.translateAligned A.n (A.ctx s) .amo spaceBank (A.ra s) 4) { cause := 0x24, addr := 0x3002, detail := 8 }⟩] :=
  ⟨mets (by decide +kernel), mets (by decide +kernel)⟩

/-! #### O37 to O42 -/

theorem witness_FencesWait :
    let w := own.run_ fun r => { r with outbox := [{ kind := 1, dst := 1, id := 9 }] }
    let late := own.modThread 0 0 fun th => { th with outs := [{ file := .x, reg := 9, value := 0 }] }
    let wl := w.modThread 0 0 fun th => { th with outs := [{ file := .x, reg := 9, value := 0 }] }
    let ready : List Nat → Args → State → Bool := fun ids A s => (A.th s).outs.isEmpty && !s.anyInFlight ids
    let rel : Args → State → State × Released := fun A s => (s.noRestart A.n A.t).releaseAll A.n A.t
    let none_ : Args → State → Bool := fun A s => (A.th s).run.fence.isNone
    let waits (s : State) : State := (s.behind 1).run_ fun r => { r with fence := some [7] }
    let err (s : State) : State := s.run_ fun r => { r with pendErr := some { addr := 0x3000, src := 0 } }
    let undo (s : State) : State := s.run_ fun r => { r with undo := [{ line := 0x3000, bytes := List.replicate 64 0, mask := 1 }] }
    let out : State := own.modMem 0 fun m => { m with fwd := [{ msg := { id := 7, cls := 2, dst := coxNode, opa := 0x800000000000 } }] }
    let stale : State := own.run_ fun r => { r with outbox := [{ kind := 1, dst := 1, id := 9, va := some 0x6000000000, retr := true }] }
    let work (s : State) : State := s.modCore 0 0 fun c => { c with wuq := [{ op := { kind := .tzero }, thr := 0, ctx := 0, slot := 0, pc := 0 }] }
    let busy : Args → State → Bool := fun A s => !(A.th s).outs.isEmpty || (s.cell A.n).mem.fwd.any fun e => decide (e.msg.cls = 0) && decide (e.msg.thr = A.t)
    let retry : Args → State → Bool := fun A s => !busy A s && (A.th s).run.pendErr.isSome && s.mayRetry A.n A.t
    Mets [⟨.fence {} 6, own, fun _ _ => true⟩, ⟨.fence {} 0, own, fun A s => none_ A s && ready [] A s⟩, ⟨.fence {} 0, late, fun A s => none_ A s && !ready [] A s⟩,
      ⟨.fence {} 1, w, fun A s => none_ A s && decide ((rel A s).2 = .all) && ready [] A (rel A s).1⟩,
      ⟨.fence {} 2, wl, fun A s => none_ A s && decide ((rel A s).2 = .all) && !ready [] A (rel A s).1⟩,
      ⟨.fence {} 3, w, fun A s => none_ A s && decide ((rel A s).2 = .all) && !ready ((rel A s).1.cell A.n).mem.writeIds A (rel A s).1⟩,
      ⟨.fence {} 5, own, fun A s => none_ A s && decide ((rel A s).2 = .all) && ready ((rel A s).1.cell A.n).mem.writeIds A (rel A s).1⟩,
      ⟨.fence {} 1, w.behind 512, fun A s => none_ A s && decide ((rel A s).2 = .full)⟩,
      ⟨.fence {} 5, waits own, fun A s => decide ((A.th s).run.fence = some [7]) && !ready [7] A s⟩,
      ⟨.fence {} 0, own.run_ fun r => { r with fence := some [7] }, fun A s => decide ((A.th s).run.fence = some [7]) && ready [7] A s⟩,
      ⟨.fence {} 5, out, fun A s => none_ A s && decide ((rel A s).2 = .all) && !((rel A s).1.cell A.n).mem.fwd.isEmpty && ((rel A s).1.cell A.n).mem.writeIds.isEmpty && !ready (((rel A s).1.cell A.n).mem.fwd.map fun e => e.msg.id) A (rel A s).1⟩,
      ⟨.fence {} 2, stale, fun A s => none_ A s && (match (rel A s).2 with | .fault f => decide (f.cause = 0x20) | _ => false)⟩,
      ⟨.efence {}, late, busy⟩, ⟨.efence {}, own.behind 1, busy⟩, ⟨.efence {}, own, fun A s => !busy A s && decide ((A.th s).run.pendErr = none)⟩,
      ⟨.efence {}, (err own).run_ fun r => { r with restart := false }, fun A s => !busy A s && (A.th s).run.pendErr.isSome && !s.mayRetry A.n A.t⟩,
      ⟨.efence {}, work (err own), fun A s => retry A s && !s.wuIdle A.n A.t⟩,
      ⟨.efence {}, undo ((err own).shared 0x3000), fun A s => retry A s && s.wuIdle A.n A.t && !s.mayB A.n A.t (A.th s).undoLines⟩,
      ⟨.efence {}, undo (err own), fun A s => retry A s && s.wuIdle A.n A.t && s.mayB A.n A.t (A.th s).undoLines && !(A.th s).undoLines.isEmpty⟩] := mets (by decide +kernel)
theorem witness_FencesWait_outboxHasRoom : (own.boxed 127 64).issuer.outboxRoom 64 = true ∧ (own.boxed 127 64).issuer.outboxRoom 65 = false
    ∧ (own.boxed 128 0).issuer.outboxRoom 0 = false ∧ (own.boxed 0 0).issuer.outboxRoom 8192 = true := by decide +kernel

/-- Launched, with operands: x1 a cell, x2 a descriptor, x4 a counter. -/
def lau : State := own.launched.xs [(1, 5), (2, 0x4000), (4, 0x3000)]
theorem witness_SpawnAndArm :
    let desc : Args → State → Option Fail := fun A s => s.checkLM A.n (A.slot s) (A.rb s) 32 8 0
    let ctr : Args → State → Option Fail := fun A s => s.checkLM A.n (A.slot s) (A.ra s) 4 4 0
    let sp1 : Args → State → Bool := fun A s => decide ((A.ra s).toNat < 2 ^ 11) && decide ((A.rb s).toNat < 2 ^ 22)
    let sp4 : Args → State → Bool := fun A s => sp1 A s && (desc A s).isNone && s.inRegions (A.ctx s) (A.ra s).toNat && (A.th s).outboxRoom 32
    let ar1 : Args → State → Bool := fun A s => decide ((A.ra s).toNat < 2 ^ 22) && decide ((A.rb s).toNat < 2 ^ 22)
    let ar3 : Args → State → Bool := fun A s => ar1 A s && (ctr A s).isNone && (desc A s).isNone
    let full : Args → State → Bool := fun A s => decide (armPlaces A.n ≤ (s.cell A.n).sched.armsUsed A.n (bankOf A.n (A.ra s).toNat))
    let bound : Args → State → Bool := fun A s => (s.cell A.n).sched.arms.any fun x => decide (x.ctr.toNat = (A.ra s).toNat) && decide (x.st ≠ .fired)
    let load : Args → State → Bool := fun A s => isOk (s.loadUnits A (A.rb s).toNat 32 8 0)
    let P := (lau.bad_ 0x4000).exact
    let arms (l : List ArmEnt) : State := lau.modSched 0 fun c => { c with arms := l }
    let e (k : Nat) : ArmEnt := { ctr := BitVec.ofNat 22 k, st := .armed, desc := { entry := 0 } }
    Mets [⟨.spawn {} 1 2, lau.xs [(1, 2048)], fun A s => !sp1 A s⟩, ⟨.spawn {} 1 2, lau.xs [(2, 0x400000)], fun A s => !sp1 A s⟩,
      ⟨.spawn {} 1 2, lau.xs [(2, 0x4004)], fun A s => sp1 A s && (desc A s).isSome⟩,
      ⟨.spawn {} 1 2, own.xs [(1, 5), (2, 0x4000)], fun A s => sp1 A s && (desc A s).isNone && !s.inRegions (A.ctx s) (A.ra s).toNat⟩,
      ⟨.spawn {} 1 2, lau.boxed 1 8161, fun A s => sp1 A s && (desc A s).isNone && s.inRegions (A.ctx s) (A.ra s).toNat && !(A.th s).outboxRoom 32⟩,
      ⟨.spawn {} 1 2, lau.boxed 1 8160, fun A s => sp4 A s && load A s⟩, ⟨.spawn {} 1 2, P, fun A s => sp4 A s && !load A s⟩,
      ⟨.arm {} 4 2, lau.xs [(4, 0x400000)], fun A s => !ar1 A s⟩, ⟨.arm {} 4 2, lau.xs [(4, 0x3FFFFC)], fun A s => ar1 A s && (ctr A s).isSome⟩,
      ⟨.arm {} 4 2, lau.xs [(2, 0x4004)], fun A s => ar1 A s && (ctr A s).isNone && (desc A s).isSome⟩, ⟨.arm {} 4 2, lau.boxed 128 0, fun A s => ar3 A s && !(A.th s).outboxRoom 0⟩,
      ⟨.arm {} 4 2, arms (List.replicate 1024 (e 0x3004)), fun A s => ar3 A s && (A.th s).outboxRoom 0 && full A s⟩,
      ⟨.arm {} 4 2, arms (List.replicate 1023 (e 0x3000)), fun A s => ar3 A s && (A.th s).outboxRoom 0 && !full A s && bound A s⟩,
      ⟨.arm {} 4 2, arms (List.replicate 1023 (e 0x3004)), fun A s => ar3 A s && (A.th s).outboxRoom 0 && !full A s && !bound A s && load A s⟩,
      ⟨.arm {} 4 2, P, fun A s => ar3 A s && (A.th s).outboxRoom 0 && !full A s && !bound A s && !load A s⟩] := mets (by decide +kernel)
theorem witness_SpawnAndArm_descriptorsFields : (10 ≤ 10 ∧ 24 ≤ 24 ∧ ¬(10 ≤ 9 ∧ 9 ≤ 24) ∧ ¬25 ≤ 24) ∧ (2047 < 2048 ∧ 2048 ≤ 2048) := by decide
theorem witness_BarriersAndHandlers :
    let tr : Args → State → Except Fail Nat := fun A s => s.translateAligned A.n (A.ctx s) .amo spaceBank (A.ra s) 8
    let home : Args → State → Nat → Bool := fun A s h => match tr A s with | .ok pa => decide ((homeOf pa).map Prod.fst = some h) | .error _ => false
    let s := lau.xs [(1, 0x403000), (2, 1)]
    let B (i : Instr) (n : Nat) : List Wit :=
      let okb : Args → State → Bool := fun A s => decide ((A.rb s).toNat < 2 ^ n)
      [⟨i, s.xs [(2, 128)], fun A s => !okb A s⟩, ⟨i, s.xs [(1, 0x403004)], fun A s => okb A s && !isOk (tr A s)⟩,
       ⟨i, own.xs [(1, 0x403000), (2, 1)], fun A s => okb A s && home A s 1 && !s.inRegions (A.ctx s) 1⟩,
       ⟨i, s.boxed 128 0, fun A s => okb A s && home A s 1 && s.inRegions (A.ctx s) 1 && !(A.th s).outboxRoom 0⟩,
       ⟨i, s, fun A s => okb A s && home A s 1 && s.inRegions (A.ctx s) 1 && (A.th s).outboxRoom 0⟩]
    let H (i : Instr) (n : Nat) (ok : Args → State → Bool) : List Wit :=
      let h : Args → State → Word := fun A s => vget (s.cell A.n).sched.handlers ((A.ra s).toNat % 64)
      let okb : Args → State → Bool := fun A s => decide ((A.ra s).toNat < 2 ^ n) && ok A s
      let other : Args → State → Bool := fun A s => (h A s).getLsbD 63 && decide ((h A s).extractLsb' 61 2 ≠ A.slot s)
      let s := lau.xs [(1, 63), (2, 0x10000)]
      [⟨i, s.xs [(1, BitVec.ofNat 64 (2 ^ n))], fun A s => !okb A s⟩,
       ⟨i, s.modSched 0 fun c => { c with handlers := vset c.handlers 63 0xA000000000000000 }, fun A s => okb A s && other A s⟩,
       ⟨i, s.modSched 0 fun c => { c with handlers := vset c.handlers 63 0x8000000000000000 }, fun A s => okb A s && !other A s⟩]
    Mets (B (.bara {} 1 2) 7 ++ B (.barx {} 1 2) 1 ++ H (.htset {} 1 2) 10 (fun A s => canonical (A.rb s)) ++ H (.htclr {} 1) 6 (fun _ _ => true)
      ++ [⟨.htset {} 1 2, lau.xs [(1, 0), (2, 0x0200000000000000)], fun A s => !canonical (A.rb s)⟩]) := mets (by decide +kernel)
theorem witness_ControlRegisters :
    let known : Nat → Args → Bool := fun k A => csrKnown A.n k
    let may : Nat → Args → State → Bool := fun k A s => decide (k < 0x200) || s.priv (A.ctx s) || (decide (0x240 ≤ k) && decide (k < 0x248) && s.ownsPort (A.ctx s) (k - 0x240))
    let c (k : Nat) : BitVec 10 := BitVec.ofNat 10 k
    let u := cell0.mapped
    let ported : State := { u with ctxs := assocSet u.ctxs 0 { words := #v[BitVec.ofNat 64 (0x8001000000000000 + placeRoot), 0, 0, 0, 0, 0, 0, 0] } }
    Mets ([⟨.csrr {} 3 (c 0x3FF), own, fun A _ => !known 0x3FF A⟩, ⟨.csrw {} 1 (c 0x3FF), own, fun A _ => !known 0x3FF A⟩,
      ⟨.csrr {} 3 (c 0x240), u, fun A s => known 0x240 A && !may 0x240 A s⟩, ⟨.csrw {} 1 (c 0x280), u, fun A s => known 0x280 A && !may 0x280 A s⟩,
      ⟨.csrr {} 3 (c 0x240), ported, fun A s => known 0x240 A && may 0x240 A s⟩, ⟨.csrw {} 1 (c 0x240), ported, fun A s => known 0x240 A && may 0x240 A s⟩,
      ⟨.csrw {} 1 (c 0x283), own, fun A s => known 0x283 A && may 0x283 A s⟩, ⟨.csrw {} 1 (c 0x2F0), own, fun A s => known 0x2F0 A && may 0x2F0 A s⟩,
      ⟨.csrw {} 1 (c 0x282), own, fun A s => known 0x282 A && may 0x282 A s⟩]
      ++ ([0, 1].map fun k => ⟨.csrw {} 1 (c k), u, fun A s => known k A && may k A s⟩)
      ++ ([0x40, 0x100].flatMap fun k => [⟨.csrr {} 3 (c k), u, fun A s => known k A && may k A s⟩, ⟨.csrw {} 1 (c k), u, fun A s => known k A && may k A s⟩])) := mets (by decide +kernel)
theorem witness_ControlRegisters_translationsAreRemoved :
    let idle : Args → State → Bool := fun A s => (A.th s).run.fence.isNone && (tlbiFail A s).isNone
    let x : Args → State → Tlbi := fun A s => { what := bitsOf (A.rb s).toNat 4 2, ctx := bitsOf (A.rb s).toNat 8 6, va := A.ra s, dies := s.tlbiDies A.n (bitsOf (A.rb s).toNat 8 6) (bitsOf (A.rb s).toNat 0 3) }
    let scope : Args → State → Nat → Bool := fun A s n => if bitsOf (A.rb s).toNat 0 3 = 2 then decide (n = A.n) else (x A s).dies.contains (s.dieOf n)
    let ids : Args → State → List Nat := fun A s => (s.tlbi (x A s) (scope A s)).tlbiWaits (x A s) (scope A s)
    let f (s : State) : State := s.modMem 0 fun m => { m with fwd := [{ msg := { id := 7, dst := 5, va := some 0x403000, lvl := 1 } }] }
    let u := cell0.mapped.xs [(1, 0x403000), (2, 2)]
    Mets [⟨.tlbi {} 1 2, u.xs [(2, 1)], fun A s => (A.th s).run.fence.isNone && decide (tlbiFail A s = some { cause := 0x01 })⟩,
      ⟨.tlbi {} 1 2, u.xs [(2, 0x102)], fun A s => (A.th s).run.fence.isNone && decide (tlbiFail A s = some { cause := 0x40 })⟩,
      ⟨.tlbi {} 1 2, u, fun A s => idle A s && (ids A s).isEmpty⟩, ⟨.tlbi {} 1 2, f u, fun A s => idle A s && !(ids A s).isEmpty⟩,
      ⟨.tlbi {} 1 2, (f u).xs [(2, 4)], fun A s => idle A s && !(ids A s).isEmpty⟩,
      ⟨.tlbi {} 1 2, (f u).run_ fun r => { r with fence := some [7] }, fun A s => decide ((A.th s).run.fence = some [7]) && s.anyInFlight [7]⟩,
      ⟨.tlbi {} 1 2, u.run_ fun r => { r with fence := some [7] }, fun A s => decide ((A.th s).run.fence = some [7]) && !s.anyInFlight [7]⟩] := mets (by decide +kernel)
theorem witness_EndHaltBreakPowerAndBulk :
    let okp : Args → State → Bool := fun A s => decide ((A.ra s).toNat < 16) && (!(A.ra s).getLsbD 3 || decide ((A.ra s).toNat % 8 = 0))
    let c := chan0.mapped.xs [(1, 0x2000000000), (2, 64)]
    let P := c.bad_ 0x10000000000
    let rd : Args → State → Except Fail Nat := fun A s => s.translateAligned A.n (A.ctx s) .load spaceBulk (A.ra s) 8
    let wr : Args → State → Except Fail Nat := fun A s => s.translateAligned A.n (A.ctx s) .store spaceBulk (A.ra s) 8
    let at_ : Args → State → Word → Except Fail Nat := fun A s v => s.translate A.n (A.ctx s) .load spaceBulk v
    let pa := 0x10000000000
    let len : Args → State → Nat := fun A s => (A.rb s).toNat % 2 ^ 32
    Mets [⟨.endTask {}, cell0, fun _ _ => true⟩, ⟨.halt {}, own, fun A s => s.priv (A.ctx s)⟩, ⟨.halt {}, cell0, fun A s => !s.priv (A.ctx s)⟩, ⟨.brk {} 1, cell0, fun _ _ => true⟩,
      ⟨.pwrq {} 3 1, cell0.xs [(1, 16)], fun A s => !okp A s⟩, ⟨.pwrq {} 3 1, cell0.xs [(1, 9)], fun A s => !okp A s⟩, ⟨.pwrq {} 3 1, cell0.xs [(1, 8)], okp⟩, ⟨.pwrq {} 3 1, cell0.xs [(1, 7)], okp⟩,
      ⟨.hld {} 0 1 0, c, fun A _ => decide (A.fd = .x ∧ A.d = 0)⟩, ⟨.hld {} 3 1 0, c.xs [(1, 0)], fun A s => !isOk (rd A s)⟩,
      ⟨.hld {} 3 1 0, c, fun A s => okB (rd A s) pa && !s.poisoned pa⟩, ⟨.hld {} 3 1 0, P.exact, fun A s => okB (rd A s) pa && s.poisoned pa && s.precise A.n (A.slot s)⟩,
      ⟨.hld {} 3 1 0, P, fun A s => okB (rd A s) pa && s.poisoned pa && !s.precise A.n (A.slot s)⟩,
      ⟨.hst {} 1 2 0, c.xs [(1, 0x3000000000)], fun A s => !isOk (wr A s)⟩, ⟨.hst {} 1 2 0, c, fun A s => s.mem.wf && okB (wr A s) pa && decide (homeOf pa = none)⟩,
      ⟨.hpf {} 1 0, c, fun A s => isOk (at_ A s (A.ra s))⟩, ⟨.hpf {} 1 0, c.xs [(1, 0x6000000000)], fun A s => !isOk (at_ A s (A.ra s))⟩, ⟨.hfl {} 1 2, c, fun A s => !s.priv (A.ctx s)⟩, ⟨.hfl {} 1 2, c.privileged.xs [(2, 0x100000000)], fun A s => s.priv (A.ctx s) && decide (len A s = 0)⟩,
      ⟨.hfl {} 1 2, c.privileged, fun A s => s.priv (A.ctx s) && decide (len A s ≠ 0) && okB (at_ A s (A.ra s)) pa && okB (at_ A s (A.ra s + BitVec.ofNat 64 (len A s - 1))) (pa + 63)⟩,
      ⟨.hfl {} 1 2, c.privileged.xs [(1, 0)], fun A s => s.priv (A.ctx s) && decide (len A s ≠ 0) && !isOk (at_ A s (A.ra s))⟩,
      ⟨.hfl {} 1 2, { c.privileged.xs [(1, 0x3FFFFFFFC0), (2, 65)] with ctxs := (c.privileged).ctxs }, fun A s => s.priv (A.ctx s) && isOk (at_ A s (A.ra s))
        && !isOk (at_ A s (A.ra s + BitVec.ofNat 64 (len A s - 1)))⟩] := mets (by decide +kernel)

/-- A line that the loft holds, in a layer with room, and one that it does not; with both layers gone no layer takes it. -/
theorem witness_EndHaltBreakPowerAndBulk_loft :
    let m : DevMisc := { cell0.misc with loft := [{ line := 0x10000000000, layer := 1, dirty := true }], loftSt := #v[1, 0] }
    (m.loft.find? fun e => e.line = 0x10000000000) = some { line := 0x10000000000, layer := 1, dirty := true } ∧ 1 < 2
      ∧ (m.loft.find? fun e => e.line = 0x10000000040) = none ∧ m.loftLayer 0x10000000040 = some 1 ∧ (m.loft.filter fun e => e.layer = 1).length < loftLines
      ∧ ({ m with loftSt := #v[1, 1] } : DevMisc).loftLayer 0x10000000040 = none
      ∧ (m.loft = [{ line := 0x10000000000, layer := 1, dirty := true }] ∧ 0x10000000000 ≤ 0x10000000000 ∧ 0x10000000000 < 0x10000000001) := by decide +kernel

/-- Streams at 0x4000 with 64 bytes between elements, tile 1 and 3 accumulators with the pair code 4, and operands in x1. -/
def wide0 : State :=
  (((cell0.qs ((List.range 8).map fun k => (k, 0x4000004000))).xs [(1, 0x3C0F), (2, 0x4000)]).modCell 0 fun c =>
    { c with wide := { c.wide with tiles := vset (vset c.wide.tiles 1 { cfg := 0x4003C0F }) 3 { cfg := 0x4003C0F } } })
theorem witness_WideInstructionsEnqueue :
    let full (s : State) : State := s.modCore 0 0 fun c => { c with wuq := List.replicate 16 { op := { kind := .tzero }, thr := 0, ctx := 0, slot := 0, pc := 0 } }
    let E : Instr → (Args → State → WuEnt) → (Args → State → Bool) → List Wit := fun i mk bad =>
      let fail : Args → State → Option Fail := fun A s => enqueueFail (bad A s) A s (A.recorded s (mk A s))
      let fullB : Args → State → Bool := fun A s => decide (16 ≤ ((s.core A.n A.t).wuq.filter fun e => e.st = .queued).length)
      [⟨i, wide0, fun A s => (fail A s).isNone && !fullB A s⟩, ⟨i, full wide0, fun A s => (fail A s).isNone && fullB A s⟩,
       ⟨i, wide0.modErr 0 fun e => { e with grants := vset e.grants 0 0 }, fun A s => (fail A s).isSome⟩]
    let op : Args → WuKind → Nat → BitVec 32 → WuOp := fun A k fn w2 =>
      { kind := k, fn := fn, d := A.d, a := A.a, b := A.b, e := A.e, file := A.fd, w1 := A.word, w2 := w2 }
    let ok : Args → State → Bool := fun _ _ => false
    let V : Instr → WuKind → Nat → (Args → State → Word) → List Wit := fun i k ty xs => E i (fun A s => A.entry s (op A k ty 0) (xs A s)) ok
    let zero : Args → State → Word := fun _ _ => 0
    let short : WuKind → Args → State → WuEnt := fun k A s =>
      let cfg := (vget (s.cell A.n).wide.tiles A.d).cfg
      A.entry s (op A k (cfg.extractLsb' 24 4).toNat (impliedWord cfg A.e)) (A.rb s)
    let long : WuKind → BitVec 5 → BitVec 32 → Args → State → WuEnt := fun k fn w2 A s => A.entry s (op A k fn.toNat w2) (A.rb s)
    let S : Instr → WuKind → List Wit := fun i k => E i (short k) fun A s => mmaBad true (A.recorded s (short k A s))
    let L : Instr → WuKind → List Wit := fun i k => E i (long k 4 0) fun A s => mmaBad false (A.recorded s (long k 4 0 A s))
    let D : Instr → (WuEnt → Bool) → WuKind → BitVec 32 → List Wit := fun i bad k w2 => E i (long k 0 w2) fun A s => bad (A.recorded s (long k 0 w2 A s))
    Mets ((E (.tcfg {} 1 1) (fun A s => A.entry s (op A .tcfg 0 0) (A.ra s)) (fun A s => !tcfgOk (A.ra s)) ++ V (.tzero {} 1) .tzero 0 zero ++ V (.tld {} 1 1) .tld 0 zero ++ V (.tst {} 1 1) .tst 0 zero
        ++ D (.tldd {} 1 1 0 0) blockBad .tldd 0 ++ D (.tstd {} 1 1 0 0) blockBad .tstd 0 ++ V (.wld {} 1 0) .wld 0 (fun A s => A.rb s)
        ++ E (.dtld {} 1 2 0) (fun A s => { A.entry s (op A .dtld 0 0) (A.ra s + ({} : Ctl).imm 0#32) with s1 := { addr := (A.ra s + ({} : Ctl).imm 0#32).setWidth 22 } }) ok)
      ++ (S (.mma {} 1 1 0 0) .mma ++ S (.mmas {} 1 1 0 0) .mmas ++ S (.mmao {} 3 1 0 0) .mmao ++ L (.mmad {} 4 1 1 0 0) .mmad ++ L (.mmasd {} 4 1 1 0 0) .mmasd ++ L (.mmaod {} 4 1 1 0 0) .mmaod)
      ++ (V (.vadd {} 5 1 2 3) .vadd 5 zero ++ V (.vsub {} 0 1 2 3) .vsub 0 zero ++ V (.vmul {} 3 1 2 3) .vmul 3 zero ++ V (.vfma {} 1 2 3 4) .vfma 0 zero ++ V (.vmax {} 0 1 2 3) .vmax 0 zero
        ++ V (.vmin {} 4 1 2 3) .vmin 4 zero ++ V (.vexp2 {} 0 1 2) .vexp2 0 zero ++ V (.vlog2 {} 1 1 2) .vlog2 1 zero ++ V (.vrcp {} 2 1 2) .vrcp 2 zero ++ V (.vrsq {} 0 1 2) .vrsq 0 zero
        ++ V (.vtanh {} 0 1 2) .vtanh 0 zero ++ V (.vrsum {} 0 1 2) .vrsum 0 zero ++ V (.vrmax {} 3 1 2) .vrmax 3 zero ++ V (.vcvt {} 1 1 2) .vcvt 1 zero ++ V (.vxpose {} 0 1 2) .vxpose 0 zero
        ++ V (.vbcast {} 3 1 2) .vbcast 3 (fun A s => A.ra s) ++ V (.vscale {} 0 1 2 3) .vscale 0 (fun A s => A.rb s) ++ D (.vcvtd {} 1 2 0 0x10) cvtBad .vcvtd 0x10)) := mets (by decide +kernel)
/-- The checks of an enqueue: an instruction for each that fails first. -/
theorem witness_WideInstructionsEnqueue_enqueueChecks :
    let A : Args := argsOf { ctl := {} } 0 0 0 0
    let e (o : Nat) : WuEnt := { op := { kind := .wld }, thr := 0, ctx := 0, slot := 0, pc := 0, s1 := { addr := BitVec.ofNat 22 o } }
    let rs (o : Nat) : List Range := A.touches wide0 (e o)
    let g := wide0.grant 0 (A.slot wide0)
    (A.records wide0 (e 0x4000) = false ∧ rs 0x4000 ≠ []) ∧ (rs 0x2FFFC1).all (fun r => decide (r.o.toNat + r.len ≤ nodeLimit 0)) = false
      ∧ ((rs 0x2FFFC0).all (fun r => decide (r.o.toNat + r.len ≤ nodeLimit 0)) = true ∧ (rs 0x4020).all (fun r => decide (r.o.toNat % r.align = 0)) = false)
      ∧ ((rs 0x1FC0).all (fun r => decide (r.o.toNat % r.align = 0)) = true ∧ (rs 0x1FC0).all (fun r => inGrant g (A.slot wide0) r.o.toNat r.len) = false)
      ∧ ((rs 0x2000).all (fun r => inGrant g (A.slot wide0) r.o.toNat r.len) = true ∧ (e 0x2000).lines.all (fun p => grantsLines g p.1 p.2) = true ∧ (e 0x2000).lines.all (fun p => grantsLines 0 p.1 p.2) = false)
      ∧ ((List.range 16).any (fun k => !slotV (wide0.cell 0).wide.inForce k) = true ∧ (List.range 16).any (fun k => !slotV 0x9999999999999999 k || decide (slotCtxOf 0x9999999999999999 k = 0)) = false) := by
  decide +kernel

/-- VRSUM and VRMAX to a register that the enqueue empties. -/
theorem witness_WideInstructionsEnqueue_captured : (∀ k ∈ [WuKind.vrsum, .vrmax], ∃ e : WuEnt, e.op.kind = k) ∧ (File.x = .x ∧ 31 ≠ 0 ∧ 31 < 32) ∧ 7 < 8 := by
  refine ⟨fun k _ => ⟨{ op := { kind := k }, thr := 0, ctx := 0, slot := 0, pc := 0 }, rfl⟩, by decide, by decide⟩

/-! #### O43 to O48 -/

theorem witness_VectorElements :
    (∀ k ∈ [WuKind.vadd, .vsub, .vmul, .vmax, .vmin, .vfma, .vexp2, .vlog2, .vrcp, .vrsq, .vtanh, .vscale, .vcvt, .vbcast, .vrmax, .vxpose, .vrsum], ∀ n ∈ [0, 1, 2, 3, 8],
        ∃ op : WuOp, op.kind = k ∧ op.fn = n)
      ∧ (elInts 3 (List.replicate 256 (5 : Byte)) ≠ [] ∧ elVals 0 (List.replicate 256 (5 : Byte)) ≠ [] ∧ (elVals 0 (List.replicate 256 (5 : Byte))).all (fun v => !v.isNan) = true
        ∧ (elVals 0 (List.replicate 256 (0xFF : Byte))).any Val.isNan = true)
      ∧ ((List.replicate 256 (5 : Byte)).length = 256 ∧ 63 < vecLen 0)
      ∧ (1 / 2 ^ binary32.fb % 2 ^ binary32.eb = 0 ∧ 0 < binary32.eb)
      ∧ (let x : Ex := { m := 1, e := -127 }; 0 < x.m ∧ (roundTo binary32.p 6 5 x).1.top < binary32.emin) := by
  refine ⟨?_, by decide +kernel, by decide +kernel, by decide, by decide +kernel⟩
  intro k _ n _; exact ⟨{ kind := k, fn := n }, rfl, rfl⟩
/-- What the selections and the unary functions tell apart: NaNs, order, zeros of both signs, integers and negative numbers. -/
theorem witness_VectorElements_cases :
    let one : Val := .num { m := 1 }
    let zero : Val := .num {}
    let nz : Val := .num { neg := true }
    ((Val.nan true).isNan = true ∧ one.isNan = false) ∧ cmpVal zero one < 0 ∧ (cmpVal nz zero = 0 ∧ nz.neg? = true ∧ zero.neg? = false)
      ∧ (let x : Ex := { neg := true, m := 3, e := 1 }; 0 < x.m ∧ 0 ≤ x.e ∧ x.neg = true) ∧ ({ } : Ex).m = 0 := by decide +kernel
theorem witness_MatrixSumOrder :
    (let ps : List Op := List.replicate 8 { v := .num {} }; ps ≠ [] ∧ ps.length ≤ 8 ∧ ps.length = 8 ∧ ps.length % 8 = 0)
      ∧ exampleTable.wf true = true ∧ ({ exampleTable with mode := 3 } : DTab).wf true = false
      ∧ (match exampleTable.encode true (.num { m := 1, e := 0 }) with | .code _ _ => true | .outlier _ _ => false) = true
      ∧ (match exampleTable.encode true (.num { m := 1, e := 100 }) with | .code _ _ => false | .outlier _ _ => true) = true
      ∧ (codeSeq exampleTable.mode true).all (fun k => !(exampleTable.value k).isNan) = true
      ∧ (let t : DTab := { exampleTable with ent := exampleTable.ent.set 0xF 0x3FC01 }; (codeSeq t.mode true).any (fun k => (t.value k).isNan) = true ∧ t.wf true = true)
      ∧ (codeSeq exampleTable.mode true).all (fun k => decide (exampleTable.value k ≠ .inf false) && decide (exampleTable.value k ≠ .inf true)) = true
      ∧ (let t : DTab := { exampleTable with ent := exampleTable.ent.set 0x7 0x3FC00 }; (codeSeq t.mode true).any (fun k => decide (t.value k = .inf false)) = true ∧ t.wf true = true) := by
  decide +kernel
theorem witness_TileConfiguration :
    (let e : WuEnt := { op := { kind := .tcfg, d := 7 }, thr := 0, ctx := 0, slot := 0, pc := 0, xs := 0x3C0F }
     e.op.d < 8 ∧ (vget (cell0.cell 0).wide.tiles 7).cfg.extractLsb' 0 24 ≠ e.xs.extractLsb' 0 24 ∧ (vget (wide0.cell 0).wide.tiles 1).cfg.extractLsb' 0 24 = e.xs.extractLsb' 0 24)
    ∧ ((0x1000C0F : Word).extractLsb' 20 4 = 0 ∧ 2 ^ 47 < 2 ^ 48 ∧ 2 ^ 47 / 2 ^ 38 % 512 = 0)
    ∧ (let older : Args → State → List WuEnt := fun A s =>
         let mine := (s.core A.n A.t).wuq.filter fun e => decide (e.thr = A.t) && !e.orphan
         mine.take (mine.length - min 16 ((A.ra s).toNat % 32))
       let done : Args → State → Bool := fun A s => (older A s).all fun e => !(A.ra s).getLsbD 5 && decide (e.st = .started)
       let q (st : WuSt) : State := cell0.modCore 0 0 fun c => { c with wuq := [{ op := { kind := .tzero }, thr := 0, ctx := 0, slot := 0, pc := 0, st := st }] }
       Mets [⟨.twait {} 3 1, cell0, done⟩, ⟨.twait {} 3 1, q .started, done⟩, ⟨.twait {} 3 1, q .queued, fun A s => !done A s⟩,
         ⟨.twait {} 3 1, (q .started).xs [(1, 32)], fun A s => !done A s⟩, ⟨.twait {} 3 1, (q .queued).xs [(1, 33)], done⟩]) :=
  ⟨by decide +kernel, by decide, mets (by decide +kernel)⟩
/-- An entry of a kind with second word `w2`, of thread 0, whose streams lie at 0x4000 with 64 bytes between elements. -/
def ent (k : WuKind) (w2 : BitVec 32) : WuEnt :=
  let st : Stream := { addr := 0x4000, stride := 64 }
  { op := { kind := k, fn := 4, d := 3, a := 1, w2 := w2 }, thr := 0, ctx := 0, slot := 0, pc := 0, cfg := 0x4003C0F, sd := st, s1 := st, s2 := st, s3 := st }
/-- The example table stands in decode table 0, and a list of `k` entries at 0x5000. -/
def coded (k : Nat) : State := (wide0.modWide 0 fun w => { w with dtabs := vset w.dtabs 0 exampleTable }).put 0x5000 (natBytes 8 k)
/-- The second row of a block is poisoned, or none is; the second word selects the whole of a conversion's kinds; a list with and without
room, under OLT and without. -/
theorem witness_TileConfiguration_effects :
    let rows (s : State) (k : WuKind) : List Bool := (List.range (ent k 0x400).block.2.1).map fun i => s.poisonedIn (nodeBase 0 + (ent k 0x400).s1.at_ i) ((ent k 0x400).block.2.2.2 * tileWidth 0x4003C0F)
    let big : Val := .num { m := 1, e := 100 }
    let one : Val := .num { m := 1 }
    let go (olt : Bool) (room : Nat) (v : Val) : Except Fail Encoding := encodeAll exampleTable true olt 0 1 0 room [v]
    let cvt (w2 : BitVec 32) : WuEnt := { ent .vcvtd w2 with xs := 0x5000 }
    let src (s : State) (w2 : BitVec 32) : Bool := isOk (s.readSources 0 (cvt w2).uses)
    let loud (s : State) : State := s.ctrl_ fun c => { c with fcsr := 0x20000 }
    let hard (s : State) (w2 : BitVec 32) : Bool := isOk (cvtEffect (cvt w2) 0 s)
    ((rows (wide0.bad_ 0x4080) .tld).take 2 = [false, true] ∧ (rows (wide0.bad_ 0x4040) .tldd).take 2 = [false, true] ∧ (rows wide0 .tld).all (! ·) = true ∧ (rows wide0 .tldd).all (! ·) = true)
      ∧ ([WuKind.mma, .mmas, .mmao, .mmad, .mmasd, .mmaod].all fun k => k.isMma && isOk (wide0.readSources 0 (ent k 0).uses) && decide ((ent k 0).op.d < 8)) = true
      ∧ (isAcc (vget (wide0.cell 0).wide.tiles 3).cfg = true ∧ isAcc (vget (wide0.cell 0).wide.tiles 5).cfg = false)
      ∧ ([0x10, 0x30, 0x60, 0x70].all fun w2 => src (coded 0) w2 && hard (coded 0) w2) = true ∧ (cvtD 0x10 = 1 ∧ cvtD 0x30 = 3 ∧ cvtD 0x70 = 7)
      ∧ (hard ((loud (coded 64)).put 0x4000 (natBytes 4 0x7E800000)) 0x70 = false ∧ hard ((coded 64).put 0x4000 (natBytes 4 0x7E800000)) 0x70 = true)
      ∧ (isOk (go false 1 one) = true ∧ isOk (go false 1 big) = true ∧ isOk (go true 0 big) = false ∧ isOk (go false 0 big) = true)
      ∧ (match exampleTable.encode true big with | .outlier _ _ => true | _ => false) = true ∧ (match exampleTable.encode true one with | .code _ _ => true | _ => false) = true := by
  refine ⟨?_, ?_, ?_, ?_, ?_, ?_, ?_, ?_⟩ <;> decide +kernel
theorem witness_RecordingAndReverse :
    let okp : Args → State → Bool := fun A s => decide ((A.ra s).toNat % 4 ≠ 3) && decide ((A.ra s).toNat / 4 % 4 < 2) && decide ((A.ra s).toNat / 16 % 4 < 2)
    let gran : Args → State → Bool := fun A s => let k := (A.th s).ctrl
      decide (k.granBase.toNat ≤ k.granHead.toNat) && decide (k.granHead.toNat ≤ k.granLimit.toNat) && decide (32 * k.granLimit.toNat ≤ 0x300000)
    let s := cell0.ctrl_ fun c => { c with granBase := 0x100, granHead := 0x100, granLimit := 0x18000 }
    let bad := cell0.ctrl_ fun c => { c with granBase := 0x100, granHead := 0x100, granLimit := 0x18001 }
    let rec_ (s : State) : State := s.ctrl_ fun c => { c with recd := true }
    let chk : Args → State → Option Fail := fun A s => s.checkLM A.n (A.slot s) (A.ra s) 256 8 0
    let v : Args → State → Option Nat := fun A s => match s.loadUnits A (A.ra s).toNat 256 8 0 with | .ok (v, _) => some v | .error _ => none
    let okm : Nat → Bool := fun v => (gmapOf (natBytes 256 v)).all fun g => !g.v || g.ok
    let m := s.xs [(1, 0x3000)]
    let lim : Args → State → Nat := fun A s => (A.ra s).toNat % 2 ^ 32
    let over_ : Args → State → Bool := fun A s => decide ((A.th s).ctrl.granHead.toNat ≤ (A.th s).ctrl.granBase.toNat) || (decide (lim A s ≠ 0) && decide (lim A s ≤ (A.th s).run.rvsDone))
    let busy (s : State) : State := s.modCore 0 0 fun c => { c with wuq := [{ op := { kind := .tzero }, thr := 0, ctx := 0, slot := 0, pc := 0 }] }
    let longer := (cell0.ctrl_ fun c => { c with granBase := 0x100, granHead := 0x200, granLimit := 0x18000 }).run_ fun r => { r with rvsDone := 3 }
    Mets [⟨.recStart {} 1, s.xs [(1, 3)], fun A s => !okp A s⟩, ⟨.recStart {} 1, s.xs [(1, 8)], fun A s => !okp A s⟩, ⟨.recStart {} 1, s.xs [(1, 0x20)], fun A s => !okp A s⟩,
      ⟨.recStart {} 1, bad, fun A s => okp A s && !gran A s⟩, ⟨.recStart {} 1, s.xs [(1, 0x16)], fun A s => okp A s && gran A s⟩, ⟨.recStart {} 1, rec_ s, fun A s => okp A s && gran A s⟩,
      ⟨.recStop {}, rec_ s, fun _ _ => true⟩, ⟨.gmap {} 1, s.xs [(1, 0x3004)], fun A s => (chk A s).isSome⟩,
      ⟨.gmap {} 1, (m.bad_ 0x3000).exact, fun A s => (chk A s).isNone && (v A s).isNone⟩,
      ⟨.gmap {} 1, m.put 0x3000 (List.replicate 16 0xFF), fun A s => (chk A s).isNone && (v A s).any fun v => !okm v⟩, ⟨.gmap {} 1, m, fun A s => (chk A s).isNone && (v A s).any okm⟩,
      ⟨.rvs {} 3 1, rec_ s, fun A s => (A.th s).ctrl.recd⟩, ⟨.rvs {} 3 1, bad, fun A s => !(A.th s).ctrl.recd && !gran A s⟩,
      ⟨.rvs {} 3 1, busy s, fun A s => !(A.th s).ctrl.recd && gran A s && decide ((A.th s).run.rvsDone = 0) && !s.wuIdle A.n A.t⟩,
      ⟨.rvs {} 3 1, s, fun A s => !(A.th s).ctrl.recd && gran A s && s.wuIdle A.n A.t && over_ A s⟩,
      ⟨.rvs {} 3 1, longer.xs [(1, 3)], fun A s => !(A.th s).ctrl.recd && gran A s && decide ((A.th s).run.rvsDone ≠ 0) && over_ A s⟩] := mets (by decide +kernel)
/-- The granary holds one sheaf of two units, with the bytes `b`; the queue holds `k` instructions. -/
def sheafed (b : List Byte) (k : Nat) : State :=
  let s := (cell0.ctrl_ fun c => { c with granBase := 0x100, granHead := 0x102, granLimit := 0x18000 }).put 0x2000 b
  s.modCore 0 0 fun c => { c with wuq := List.replicate k { op := { kind := .tzero }, thr := 1, ctx := 0, slot := 0, pc := 0 } }
/-- The sheaf of a TCFG or TZERO of tile 1. -/
def oneTile (k : WuKind) (clr : Bool) : List Byte :=
  { op := { kind := k, d := 1 }, thr := 0, ctx := 0, slot := 0, pc := 0, ents := [{ flag := 3, kind := 1, role := 0, addr := 1 }] : WuEnt }.sheafBytes 2 clr [] []
/-- RVS at a malformed sheaf, a void one, one without an adjoint, one whose adjoint enters the queue, one that finds the queue full and one
that fails its checks. -/
theorem witness_RecordingAndReverse_walk :
    let A : Args := argsOf ((Instr.rvs {} 3 1).sig.getD default) 0 0 0 0
    let h (s : State) : Sheaf := s.sheafAt 0 (0x102 - 1)
    let at_ (s : State) : Bool := decide ((A.th s).ctrl.granBase.toNat < (A.th s).ctrl.granHead.toNat) && decide ((A.th s).run.rvsDone = 0) && !s.poisonedIn (nodeBase 0 + (32 * 0x102 - 32)) 32
    let bad (s : State) : Bool := (h s).malformed 0x102 0x100
    let e (s : State) : Option WuEnt := (h s).decode.map fun e => e.forRvs A s
    let none_ (s : State) : Bool := (e s).any fun e => decide (e.op.kind = .tcfg) && !e.clr
    let fails (s : State) : Bool := (e s).any fun e => (s.adjointFail 0 (A.slot s) (h s).start (h s).len e).isSome
    let go (s : State) : Nat := match rvsLoop A 64 s with | .done _ => 0 | .wait _ => 1 | .trapIn _ _ => 2 | _ => 3
    let v := sheafed (voidSheaf 2) 0
    let t := sheafed (oneTile .tcfg false) 0
    let z := sheafed (oneTile .tzero true) 0
    let f := sheafed (oneTile .tzero true) 16
    let g := z.modErr 0 fun e => { e with grants := vset e.grants 0 0 }
    ([sheafed [] 0, v, t, z, f, g].all at_ = true) ∧ (bad (sheafed [] 0) = true ∧ go (sheafed [] 0) = 2) ∧ (bad v = false ∧ (h v).void = true ∧ go v = 0)
      ∧ (bad t = false ∧ (h t).void = false ∧ none_ t = true ∧ go t = 0) ∧ (bad z = false ∧ (h z).void = false ∧ none_ z = false ∧ fails z = false ∧ go z = 0)
      ∧ (none_ f = false ∧ ((f.core 0 0).wuq.filter fun e => e.st = .queued).length = 16 ∧ go f = 1) ∧ (fails g = true ∧ go g = 2) := by decide +kernel
/-- The gradient map holds elements of tile 2, in staging tile 3, and words of LM from 0x3000, in words from 0x4000; an element outside it. -/
theorem witness_RecordingAndReverse_gradients :
    let acc : GEnt := { w0 := BitVec.ofNat 64 (2 ^ 63 + 2 ^ 60 + 2 ^ 56 + 3 * 2 ^ 53 + 2), w1 := 256 }
    let lm : GEnt := { w0 := BitVec.ofNat 64 (2 ^ 63 + 3 * 2 ^ 57 + 0x3000), w1 := BitVec.ofNat 64 (0x4000 * 2 ^ 32 + 64) }
    let gm := [acc, lm]
    (acc.v ∧ acc.ok ∧ lm.v ∧ lm.ok) ∧ gmapFind gm (.tile 2 255) = some (acc, 255) ∧ acc.acc = true ∧ acc.stile = 3 ∧ acc.stile < 8
      ∧ 255 < tileCount (vget (wide0.cell 0).wide.tiles 3).cfg ∧ (vget (wide0.cell 0).wide.tiles 3).el.wf = true
      ∧ gmapFind gm (.lm (2 * 0x30FC)) = some (lm, 63) ∧ lm.acc = false ∧ gmapFind gm (.reg 32) = none ∧ gmapFind gm (.tile 2 256) = none := by decide +kernel

/-- Operands of the engine commands in x1 (source), x2 (length), x4 (destination), x5 (counter). -/
def eng : State := lau.xs [(1, 0x3000), (2, 64), (4, 0x403000), (5, 0x5000)]
theorem witness_MessagesAndEngineCommands :
    let w (k : Nat) : BitVec 32 := BitVec.ofNat 32 k
    let chk (n : Nat) : Args → State → Option Fail := fun A s => s.checkLM A.n (A.slot s) (A.rb s) (32 * n) 8 0
    let okS (v : BitVec 32) : Args → State → Bool := fun A s => decide (v.extractLsb' 13 19 = 0) && decide (v.toNat % 128 ≤ 64) && decide ((A.ra s).toNat < 2 ^ 11) && decide ((A.rb s).toNat < 2 ^ 22)
    let reg : Args → State → Bool := fun A s => s.inRegions (A.ctx s) (A.ra s).toNat
    let room (k : Nat) : Args → State → Bool := fun A s => (A.th s).outboxRoom k
    let load (n : Nat) : Args → State → Bool := fun A s => isOk (s.loadUnits A (A.rb s).toNat (32 * n) 8 0)
    let send (n : Nat) (s : State) (c : Args → State → Bool) : Wit := ⟨.send {} 1 2 (w n), s, fun A s => okS (w n) A s && c A s⟩
    let P := (lau.bad_ 0x4000).exact
    let src (v : BitVec 32) : Args → State → Except Fail Nat := fun A s => cpyRange A s .load (spaceCopySrc (isChan A.n)) (A.ra s) (A.rb s).toNat (cpyEsz v)
    let dst (box : Bool) (v : BitVec 32) : Args → State → Except Fail Nat := fun A s =>
      cpyRange A s .store (if box then spaceCopySrc (isChan A.n) else spaceCopyDst (isChan A.n)) (A.rd s) (A.rb s).toNat (cpyEsz v)
    let C (i : BitVec 5 → BitVec 32 → Instr) (box : Bool) : List Wit :=
      let ok (v : BitVec 32) : Args → State → Bool := fun A s => !cpyBad box v (A.ra s) (A.rb s)
      let order (v : BitVec 32) (pa : Nat) : Bool := decide (cpyOrd v ≠ 1) || decide (spaceOf pa = .bulk)
      let both (v : BitVec 32) (c : Nat → Nat → Args → State → Bool) : Args → State → Bool := fun A s =>
        ok v A s && match src v A s, dst box v A s with | .ok p, .ok q => c p q A s | _, _ => false
      let last (v : BitVec 32) (q : Nat) (z : Option (Nat × Nat)) : Args → State → Bool := fun A s => if box then (boxFail2 A s v q z).isSome else false
      let full (v : BitVec 32) (r : Bool) : Args → State → Bool := both v fun p q A s => order v p && match counterVa A s with
        | .ok z => !last v q z A s && decide ((A.th s).outboxRoom 0 = r) | .error _ => false
      let e := if box then eng.xs [(5, 0x404000)] else eng
      [⟨i 5 (w 0x80), e, fun A s => !ok (w 0x80) A s⟩, ⟨i 5 0, e.xs [(1, 0x6000000000)], fun A s => ok 0 A s && !isOk (src 0 A s)⟩, ⟨i 5 (w 0x40), e.xs [(1, 0x3002)], fun A s => ok (w 0x40) A s && !isOk (src (w 0x40) A s)⟩,
       ⟨i 5 0, e.xs [(4, 0x6000000000)], fun A s => ok 0 A s && isOk (src 0 A s) && !isOk (dst box 0 A s)⟩,
       ⟨i 5 (w 8), e.xs [(1, 0x3000), (2, 0x400)], both (w 8) fun p _ _ _ => !order (w 8) p⟩,
       ⟨i 5 0, e.xs [(5, 0x404002)], both 0 fun p _ A s => order 0 p && !isOk (counterVa A s)⟩, ⟨i 5 0, e.boxed 128 0, full 0 false⟩, ⟨i 5 0, e, full 0 true⟩, ⟨i 0 0, e, full 0 true⟩]
      ++ if box then [⟨i 5 0, e.xs [(5, 0x5000)], both 0 fun p q A s => order 0 p && match counterVa A s with | .ok z => last 0 q z A s | .error _ => false⟩] else []
    let cv := w (2 * 2 ^ 10)
    let okL (v : BitVec 32) : Args → State → Bool := fun A s => !collBad v (A.rb s).toNat (s.regionOf (A.th s).launch) && decide ((A.ra s).toNat % collSize (collType v) = 0) && decide ((A.rd s).toNat % collSize (collType v) = 0)
    let any : Space → Bool := fun p => match p with | .none | .port _ => false | _ => true
    let rl (v : BitVec 32) : Args → State → Except Fail Nat := fun A s => rangeVa A s .load any (A.ra s) ((A.rb s).toNat * collSize (collType v))
    let rs (v : BitVec 32) : Args → State → Except Fail Nat := fun A s => rangeVa A s .store any (A.rd s) ((A.rb s).toNat * collSize (collType v))
    let mine (v : BitVec 32) : Args → State → Word → Bool := fun A s va => (pageParts va ((A.rb s).toNat * collSize (collType v))).all fun p =>
      match s.leafFor (s.dieOf A.n) (A.ctx s) p.1 with | .ok (l, e) => !leafHashed e && decide (spaceOf (leafPa l e p.1) = .cell A.n) | .error _ => true
    let bothL (v : BitVec 32) (c : Bool → Args → State → Bool) : Args → State → Bool := fun A s =>
      okL v A s && match rl v A s, rs v A s with | .ok _, .ok _ => c (mine v A s (A.ra s) && mine v A s (A.rd s)) A s | _, _ => false
    let col := eng.xs [(4, 0x4000)]
    let coll (s : State) (c : Args → State → Bool) : Wit := ⟨.coll {} 4 1 2 5 cv, s, c⟩
    Mets ([⟨.send {} 1 2 (w 65), lau, fun A s => !okS (w 65) A s⟩, ⟨.send {} 1 2 (w 0x2000), lau, fun A s => !okS (w 0x2000) A s⟩, send 64 (lau.xs [(2, 0x2FFFC8)]) (fun A s => (chk 64 A s).isSome),
        send 0 (own.xs [(1, 5), (2, 0x4000)]) (fun A s => (chk 0 A s).isNone && !reg A s), send 64 (lau.boxed 1 6145) (fun A s => (chk 64 A s).isNone && reg A s && !room 2048 A s),
        send 64 (lau.boxed 1 6144) (fun A s => (chk 64 A s).isNone && reg A s && room 2048 A s && load 64 A s), send 0 lau (fun A s => (chk 0 A s).isNone && reg A s && room 0 A s && load 0 A s),
        send 1 P (fun A s => (chk 1 A s).isNone && reg A s && room 32 A s && !load 1 A s)]
      ++ C (fun e v => .cpy {} 4 1 2 e v) false ++ C (fun e v => .cpym {} 4 1 2 e v) true
      ++ [⟨.coll {} 4 1 2 5 (w 0x18), col, fun A s => !okL (w 0x18) A s⟩, coll (col.xs [(2, 0)]) (fun A s => !okL cv A s), coll (col.xs [(1, 0x6000000000)]) (fun A s => okL cv A s && !isOk (rl cv A s)),
          coll (col.xs [(4, 0x6000000000)]) (fun A s => okL cv A s && isOk (rl cv A s) && !isOk (rs cv A s)), coll (col.xs [(4, 0x403000)]) (bothL cv fun o _ _ => !o),
          coll (col.xs [(4, 0x5000000000)]) (fun A s => okL cv A s && isOk (rl cv A s) && (match rs cv A s with | .error f => decide (f.cause = 0x26) | .ok _ => false)),
          coll (col.xs [(5, 2)]) (bothL cv fun o A s => o && !isOk (counterVa A s)), coll (col.boxed 128 0) (bothL cv fun o A s => o && isOk (counterVa A s) && !room 0 A s),
          coll col (bothL cv fun o A s => o && isOk (counterVa A s) && room 0 A s)]
      ++ [⟨.engp {} 3 (w 2), cell0, fun _ _ => true⟩, ⟨.engp {} 3 (w 1), cell0, fun A _ => !isChan A.n⟩, ⟨.engp {} 3 (w 1), chan0, fun A _ => isChan A.n⟩, ⟨.engq {} 3 (w 2), cell0, fun _ _ => true⟩,
          ⟨.engq {} 3 (w 1), cell0, fun A _ => !isChan A.n⟩, ⟨.engq {} 3 (w 0), chan0, fun _ _ => true⟩, ⟨.engq {} 3 (w 1), chan0, fun A _ => isChan A.n⟩]) := mets (by decide +kernel)
theorem witness_MessagesAndEngineCommands_relayoutBounds : (2 ≤ 2 ∧ 31 < 32 ∧ 7 < 32 / 2 ^ 2 ∧ 3 < 2 ^ 2) ∧ (0 ≤ 2 ∧ 31 < 32 / 2 ^ 0 ∧ 0 < 2 ^ 0) := by decide

/-- Fault packets: a launch with a supervisor in cell 9, and its fault ring at 0x8000 with its counter before it. -/
def faults : State :=
  let s := { cell0 with cox := { cell0.cox with launches := [{ seq := 0, ctx := 0, region := { ex := 16, ey := 16, ez := 8 }, sup := some 9 }] } }
  { s with net := [{ id := 4, cls := 5, kind := 0x20, src := 0, dst := 9, payload := List.replicate 8 1, ctx := 0 }] }
theorem witness_TrapsFreezeTheThread :
    ((cell0.thread 0 0).run.st = .running ∧ (cell0.thread 0 0).pend = [])
    ∧ (let s := cell0.ctrl_ fun c => { c with remain := 0 }; (s.thread 0 0).run.st = .running ∧ (s.thread 0 0).remainAt (s.now 0 0) = 0 ∧ (s.thread 0 0).run.leaving = false ∧ (s.thread 0 0).run.rolling = false ∧ (s.cell 0).paused = false)
    ∧ (let s := { cell0 with cox := { cell0.cox with hfqBase := 0x10000000004, hfqTail := 16 } }; ringOk s.cox.hfqBase 64 = true ∧ 16 ≤ (s.cox.hfqTail - s.cox.hfqHead).toNat)
    ∧ (((placed.latch 0 0 (.add {} 3 1 2) [0x00823000]).run_ fun r => { r with chain := some [0x00823000] }).thread 0 0).run.chain ≠ none
    ∧ ((cell0.launchOf 0).bind Launch.sup = none ∧ (faults.launchOf 0).bind Launch.sup = some 9 ∧ lptState (faults.lptEntry 0 9) ≠ 2)
    ∧ (let s := { faults with lpt := [(9, 0x20000)] }; (s.launchOf 0).bind Launch.sup = some 9 ∧ lptState (s.lptEntry 0 9) = 2)
    ∧ (ringOk cell0.cox.hfqBase 64 = false)
    ∧ (let s := { cell0 with cox := { cell0.cox with hfqBase := 0x10000000004 } }; ringOk s.cox.hfqBase 64 = true ∧ (s.cox.hfqTail - s.cox.hfqHead).toNat < 2 ^ (s.cox.hfqBase.toNat % 32)) := by
  decide +kernel

/-! #### O49 to O54 -/

theorem portsOpen_of {s : State} (h : (s.cells.all fun p => (List.range 6).all (fun d => !(vget p.2.net.votes d).closed) && !p.2.net.frozen) = true) : s.portsOpen := by
  have key : ∀ (l : List (Nat × Cell)) (n : Nat), (l.all fun p => (List.range 6).all (fun d => !(vget p.2.net.votes d).closed) && !p.2.net.frozen) = true →
      (∀ d, (vget (assocGet (Cell.init n) l n).net.votes d).closed = false) ∧ (assocGet (Cell.init n) l n).net.frozen = false := by
    intro l n hl
    induction l with
    | nil =>
      refine ⟨fun d => ?_, rfl⟩
      show (vget (Vector.replicate 6 ({} : Vote)) d).closed = false
      by_cases hd : d < 6
      · simp [vget, hd]
      · simp [vget, hd, default, instInhabitedVote.default]
    | cons p l ih =>
      obtain ⟨a, v⟩ := p
      simp only [List.all_cons, Bool.and_eq_true] at hl
      unfold assocGet
      split
      · refine ⟨fun d => ?_, by simpa using hl.1.2⟩
        by_cases hd : d < 6
        · simpa using List.all_eq_true.1 hl.1.1 d (List.mem_range.2 hd)
        · simp [vget, hd, default, instInhabitedVote.default]
      · exact ih hl.2
  exact ⟨fun n d => (key s.cells n h).1 d, fun n => (key s.cells n h).2⟩

/-- The message of an id, class and kind has arrived, and the condition holds of it and of the network without it. -/
def arr (s : State) (k c kind : Nat) (p : Msg → State → Bool) : Bool := match s.arrived k c kind with | some (m, u) => p m u | none => false
def ported (s : State) : Bool := s.cells.all fun p => (List.range 6).all (fun d => !(vget p.2.net.votes d).closed) && !p.2.net.frozen

/-- The context of the packet has slot 0 in cell 9, whose fault ring at 0x8000 holds 2 packets, with its counter at 0x7FFC; TAIL is `k`. -/
def ringed (k : Nat) : State :=
  ((faults.modErr 9 fun e => { e with faultQ := vset e.faultQ 0 (BitVec.ofNat 64 (0x7FFC * 2 ^ 36 + 2 ^ 32 + 0x8000)) }).modSched 9 fun c => { c with slotCtx := vset c.slotCtx 0 (some 0) }).put
    (nodeBase 9 + 0x8000) (natBytes 8 k)
theorem witness_TrapsFreezeTheThread_faultRings :
    let w (s : State) : Word := match s.arrived 4 5 0x20 with | some (m, _) => s.faultRing m | none => 0
    let used (s : State) : Nat := (s.fqTail 9 (w s) + 2 ^ 32 - s.fqHead 9 (w s)) % 2 ^ 32
    let on (s : State) : Bool := arr s 4 5 0x20 fun m u => decide (m.dst = 9) && decide (m.payload.length = 8) && decide (u.turnedAway m = none) && s.mem.wf && decide ((s.cell 9).mem.dir = []) && decide ((s.cell 9).mem.pending = []) && !s.poisoned (nodeBase 9 + fqCtr (s.faultRing m))
    let fits (w : Word) : Bool := decide (fqBase w + 64 + 64 * 2 ≤ 0x300000) && decide (fqCtr w + 4 ≤ fqBase w) && decide (fqLog w = 1)
    on faults = true ∧ fqLog (w faults) = 0 ∧ on (ringed 1) = true ∧ on (ringed 2) = true ∧ fits (w (ringed 1)) = true ∧ used (ringed 1) = 1 ∧ used (ringed 2) = 2 := by decide +kernel
theorem witness_DebugCommands :
    let fr := cell0.run_ fun r => { r with st := .frozen, cause := 1 }
    threadOk 0 15 = true ∧ ((fr.thread 0 0).run.st = .frozen ∧ (fr.thread 0 0).run.restart = true) ∧ ((fr.run_ fun r => { r with restart := false }).thread 0 0).run.restart = false
      ∧ ((cell0.thread 0 0).run.st = .running ∧ (cell0.thread 0 0).run.leaving = false) ∧ ((cell0.run_ fun r => { r with leaving := true }).thread 0 0).run.leaving = true
      ∧ (16 : Word) &&& ~~~15 ≠ 0 ∧ fr.fencedNode 0 = false ∧ (fr.thread 0 0).run.rolling = false
      ∧ (cell0.setLpt 0 (lptWord 0 2)).fencedNode 0 = true ∧ ((fr.run_ fun r => { r with rolling := true }).thread 0 0).run.rolling = true := by decide +kernel
/-- A held instruction of VRSUM behind one of another thread's; a descriptor with a landing slot; an undo entry of a line of the cell, whose
lines a rollback may write or another cell shares. -/
theorem witness_DebugCommands_effects :
    let e (k : Nat) (st : WuSt) : WuEnt := { op := { kind := .vrsum, d := 3 }, thr := k, ctx := 0, slot := 0, pc := 0, st := st }
    let s := (cell0.modCore 0 0 fun c => { c with wuq := [e 1 .queued, e 0 .held] }).run_ fun r =>
      { r with st := .frozen, cause := 1, desc := some { entry := 0x100, landing := some 3 }, undo := [{ line := 0x3000, bytes := List.replicate 64 0, mask := 1 }] }
    let roll := s.run_ fun r => { r with rolling := true }
    ((s.core 0 0).wuq = [e 1 .queued] ++ e 0 .held :: [] ∧ (e 0 .held).orphan = false ∧ e 1 .queued ≠ e 0 .held ∧ (e 0 .held).op.d < 32 ∧ (e 0 .held).sheaf = none)
      ∧ ((cell0.core 0 0).wuq.all fun x => !x.stuck) = true ∧ (s.thread 0 0).run.desc = some { entry := 0x100, landing := some 3 }
      ∧ (s.mem.wf = true ∧ (s.cell 0).mem.dir = [] ∧ ((s.thread 0 0).run.undo.map Undo.line).Nodup)
      ∧ ((s.thread 0 0).run.undo.all fun x => decide (x.line % 64 = 0) && decide (x.bytes.length = 64) && decide (homeOf x.line = some (0, 0x3000))) = true
      ∧ roll.mayB 0 0 (roll.thread 0 0).undoLines = true ∧ (roll.shared 0x3000).mayB 0 0 (roll.thread 0 0).undoLines = false := by decide +kernel
theorem witness_DebugCommands_debugWindows :
    let fr := cell0.run_ fun r => { r with st := .frozen, cause := 1 }
    let held := fr.modThread 0 0 fun th => { th with fullX := 0 }
    fr.fencedNode 0 = false ∧ windowWritable false 0 = true ∧ windowWritable false 0xF8 = true ∧ windowWritable false 0x3A0 = true ∧ windowWritable true 0x100 = false
      ∧ (cell0.thread 0 0).run.st ≠ .frozen ∧ fr.settled 0 0 = true ∧ held.settled 0 0 = false ∧ (0x80000 : Word).getLsbD 19 = true
      ∧ (0x400010000008 % 8 = 0 ∧ windowOf 0x400010000008 = some (0, 0) ∧ fr.misc.dbgHeld = [])
      ∧ (match fr.windowWrite 0 0 8 5 with | .done _ => true | .held => false) = true ∧ (match held.windowWrite 0 0 8 5 with | .done _ => false | .held => true) = true := by
  decide +kernel
/-- Core 1 holds one instruction. -/
def queued (e : WuEnt) : State := wide0.modCell 0 fun c => { c with cores := vset c.cores 1 { (vget c.cores 1) with wuq := [e] } }
theorem witness_WideUnitEvents :
    let e : WuEnt := { op := { kind := .vadd, fn := 3, d := 1, a := 2, b := 3 }, thr := 4, ctx := 0, slot := 0, pc := 0, sd := { addr := 0x4000, stride := 4 }, s1 := { addr := 0x5000, stride := 4 }, s2 := { addr := 0x5000, stride := 4 } }
    let s := (queued e).modThread 0 4 fun th => { th with run := { th.run with st := .running } }
    let f (st : WuSt) : State := (queued { e with st := st }).modThread 0 4 fun th => { th with run := { th.run with st := .running } }
    (((s.cell 0).winner.map Prod.fst = some 1 ∧ (s.cell 0).readyHead 1 = some e) ∧ isChan 0 = false ∧ (s.cell 0).net.frozen = false ∧ (s.cell 0).paused = false ∧ e.unitError (s.cell 0).wide = false
        ∧ (s.cell 0).wide.mismatch = 0 ∧ isOk (e.effect 0 s) = true ∧ isOk (e.effect 0 (s.bad_ 0x5000)) = false ∧ e.orphan = false)
      ∧ (cell0.cell 0).winner = none ∧ (vget ((f .started).cell 0).cores 1).wuq.find? (fun x => x.st = .started) = some { e with st := .started }
      ∧ ((f (.faulted 1 0 0)).thread 0 4).run.st = .running
      ∧ (let x : WuEnt := { e with st := .started, eff := { lm := [(0x4000, [1, 2])], reg := some (.x, 31, 7) } }
         (x.writeLines 0 = [0x4000] ∧ (f .started).mayB 0 (16 + 1) (x.writeLines 0) = true ∧ ((f .started).shared 0x4000).mayB 0 (16 + 1) (x.writeLines 0) = false)
          ∧ x.eff.lm ++ x.eff.sheaf = [(0x4000, [1, 2])] ∧ s.mem.wf = true ∧ (s.cell 0).mem.dir = [])
      ∧ ((cell0.cell 0).power.ret = false ∧ (cell0.cell 0).paused = false
        ∧ ((cell0.modCell 0 fun c => { c with power := { ret := true } }).cell 0).power.ret = true
        ∧ ((cell0.modCell 0 fun c => { c with power := { mig := some { began := 0, source := 0, target := 256, phase := 2 } } }).cell 0).paused = true) := by decide +kernel
theorem witness_WideUnitEvents_ballast :
    let b (w : Wide) : State := { (cell0.modCell 0 fun c => { c with wide := w }) with power := { pmCtl := 0x4007 } }
    let on (s : State) : Bool := s.power.pmCtl.getLsbD 2
    (2 * 10 + 16 < 37 ∧ 36 ≤ 2 * 10 + 16) ∧ (on (b {}) = true ∧ on { (b {}) with power := { pmCtl := 3 } } = false) ∧ (16 ≤ 16 ∧ 2 * 7 < 16 ∧ ¬2 * 8 < 16)
      ∧ (((b { target := 3, starts := 1, ballasts := 1 }).cell 0).winner = none ∧ 1 + 1 < 3) ∧ (3 ≤ 2 + 1) := by decide +kernel
theorem witness_TasksRun :
    let d : Desc := { entry := 0x100, ctx := 0 }
    let full : List ReadyEnt := List.replicate 32 { desc := d, age := 9, lead := 0, pass := 0 }
    let s (f : List FiredEnt) (r : Vector (List ReadyEnt) 8) : State := cell0.modSched 0 fun c => { c with fired := f, ready := r }
    let none_ : Vector (List ReadyEnt) 8 := Vector.replicate 8 []
    let one := s [] (vset none_ 5 [{ desc := d, age := 0, lead := 0, pass := 0 }])
    let one := one.modSched 0 fun c => { c with overdue := [0] }
    let going (g : Option Nat) := one.modSched 0 fun c => { c with moves := [{ age := 0, dst := 1, needs := [], msg := g }] }
    let mv (s : State) : Option Move := (s.cell 0).sched.take.bind (s.cell 0).sched.moveOf
    ((s [{ desc := d, place := .arm }] none_).cell 0).sched.fired = [{ desc := d, place := .arm }] ∧ (vget none_ 7).length < 32 ∧ (List.range (readyBanks 0)).all (fun b => decide (32 ≤ (vget (Vector.replicate 8 full) b).length)) = true
      ∧ (one.mayPop 0 = true ∧ ((one.cell 0).popper 0).isSome = true ∧ (one.cell 0).sched.take.isSome = true) ∧ (cell0.cell 0).sched.take = none
      ∧ (let h := cell0.modSched 0 fun c => { c with overdue := [0], ready := vset none_ 5 [{ desc := { d with handler := some (7, 8) }, age := 0, lead := 0, pass := 0 }] }
         ((h.cell 0).sched.take.bind fun e => e.desc.handler) = some (7, 8))
      ∧ (let t := cell0.modSched 0 fun c => { c with ctxSt := 0x40 }; (t.cell 0).sched.slotState 3 = 1 ∧ (t.cell 0).runCount 3 = 0) ∧ (cell0.cell 0).sched.slotState 3 ≠ 1
      ∧ (mv (going none)).map Move.msg = some none ∧ (mv (going (some 7))).map Move.msg = some (some 7) ∧ mv one = none := by decide +kernel
theorem witness_TasksRun_runsEnd :
    let e := cell0.run_ fun r => { r with ending := true, outbox := [{ kind := 1, dst := 1 }] }
    let h := cell0.run_ fun r => { r with halting := true }
    let left (s : State) : State := s.modThread 0 0 fun th => { th with run := { th.run with leaving := true, undo := [] } }
    let going (s : State) : Bool := decide ((s.thread 0 0).run.st = .running) && ((s.thread 0 0).run.ending || (s.thread 0 0).run.halting)
    let quiet (s : State) : Bool := (s.thread 0 0).allFull && s.wuIdle 0 0
    let err (s : State) : State := s.run_ fun r => { r with pendErr := some { addr := 0, src := 0 } }
    let undo (s : State) : State := s.run_ fun r => { r with undo := [{ line := 0x3000, bytes := List.replicate 64 0, mask := 1 }] }
    let stale := cell0.mapped.run_ fun r => { r with ending := true, outbox := [{ kind := 1, dst := 1, id := 9, va := some 0x6000000000, retr := true }] }
    (undo (err e)).mayB 0 0 ((undo (err e)).thread 0 0).undoLines = true ∧ ((undo (err e)).shared 0x3000).mayB 0 0 ((undo (err e)).thread 0 0).undoLines = false
      ∧ (match ((left stale).releaseAll 0 0).2 with | .fault _ => true | _ => false) = true ∧
    (going e = true ∧ going h = true ∧ quiet e = true ∧ quiet (e.modThread 0 0 fun th => { th with fullX := 0 }) = false) ∧ ((err e).mayRetry 0 0 = true ∧ ((err e).run_ fun r => { r with restart := false }).mayRetry 0 0 = false)
      ∧ (e.thread 0 0).run.pendErr = none ∧ ((left e).releaseAll 0 0).2 = .all ∧ ((left (e.behind 512)).releaseAll 0 0).2 = .full := by decide +kernel
theorem witness_TasksRun_balanceAndTimeouts :
    let d : Desc := { entry := 0x100, radius := 2 }
    let s := cell0.modSched 0 fun c => { c with moves := [{ age := 3, dst := 1, needs := [9] }], ready := vset c.ready 2 [{ desc := d, age := 3, lead := 0, pass := 0, moving := true }], balCtl := 0 }
    let places (k : Nat) : State := (cell0.modSched 0 fun c => { c with fired := List.replicate k { desc := d, place := .place } }).sent { cls := 4, kind := 0x10, src := 1, dst := 0, desc := some d }
    let tm (b : Bool) (st : Nat) : State := { (cell0.modSched 0 fun c => { c with barTmo := 100, timers := [{ off := 0x3000, started := st, suspended := b }] }) with fab := 150 }
    s.portsOpen ∧ ((s.cell 0).sched.moves = [{ age := 3, dst := 1, needs := [9] }] ∧ (s.cell 0).mem.fwd = [] ∧ ((s.cell 0).sched.ready.toList.flatMap id).find? (fun x => decide (x.age = 3)) = some { desc := d, age := 3, lead := 0, pass := 0, moving := true })
      ∧ (s.cell 0).sched.balCtl.getLsbD 12 = false
      ∧ (cell0.cell 0).paused = false ∧ ported (places 64) = true
      ∧ arr ((places 0).setLpt 0 (lptWord 0 2)) 4 4 0x10 (fun m u => (u.turnedAway m).isSome) = true
      ∧ arr (places 63) 4 4 0x10 (fun m u => m.desc.isSome && (u.turnedAway m).isNone && decide ((u.cell m.dst).sched.placesUsed < firedPlaces m.dst)) = true
      ∧ arr (places 64) 4 4 0x10 (fun m u => m.desc.isSome && (u.turnedAway m).isNone && decide (firedPlaces m.dst ≤ (u.cell m.dst).sched.placesUsed)) = true
      ∧ (let t := tm false 50; ((t.cell 0).sched.timers[0]?).isSome = true ∧ (t.cell 0).sched.barTmo ≠ 0 ∧ (t.cell 0).sched.barTmo.toNat ≤ t.fab - 50 ∧ t.readNat (nodeBase 0 + 0x3000) 8 / 2 ^ 24 % 4096 = 0)
      ∧ (tm false 51).fab - 51 < 100 ∧ ((tm true 0).put 0x3000 (natBytes 8 0x1000000)).readNat (nodeBase 0 + 0x3000) 8 / 2 ^ 24 % 4096 ≠ 0 := by
  refine ⟨portsOpen_of (by decide +kernel), ?_⟩; decide +kernel
/-- A request of cell 1's thread 2 to offset 0x3000 of cell 0. -/
def req (kind : BitVec 8) (b : Word) (aux : BitVec 6) (p : List Word) : State :=
  (cell0.put 0x3000 (natBytes 8 5)).sent { cls := 0, kind := kind, src := 1, dst := 0, thr := 2, opa := 0x3000, opb := b, aux := aux, payload := p }
theorem witness_RequestsAtTheirBank :
    let on (s : State) (kind : Nat) : Bool := ported s && arr s 4 0 kind fun m u => decide (u.turnedAway m = none) && decide ((u.cell m.dst).mem.pending = []) && decide ((u.cell m.dst).mem.dir = [])
      && decide (homeOf m.pa = some (m.dst, m.opa.toNat)) && s.mem.wf && !s.poisoned m.pa
    let away (s : State) (kind : Nat) : Bool := ported s && arr s 4 0 kind fun m u => (u.turnedAway m).isSome
    (on (req 0 0 0 []) 0 = true ∧ on (req 1 9 7 []) 1 = true ∧ on (req 2 1 16 []) 2 = true ∧ on (req 3 7 0 [5]) 3 = true ∧ on (req 3 7 0 [6]) 3 = true)
      ∧ ([0, 1, 2, 3, 4, 5, 6, 7, 8, 0xA, 0xB, 0xC, 0xD].all fun k => away { (req (BitVec.ofNat 8 k) 0 0 []) with lpt := [(0, 0x20000)] } k) = true := by decide +kernel
theorem witness_RequestsAtTheirBank_countersAndBarriersAtTheirHome :
    let on (s : State) (kind : Nat) (c : State → Bool) : Bool := ported s && arr s 4 0 kind fun m u => decide (u.turnedAway m = none) && decide ((u.cell m.dst).mem.pending = [])
      && decide ((u.cell m.dst).mem.dir = []) && decide (homeOf m.pa = some (m.dst, m.opa.toNat)) && s.mem.wf && !s.poisoned m.pa && decide (m.opa.toNat < 2 ^ 22) && c s
    let at_ (kind : BitVec 8) (x : Word) (v : Nat) : State := (req kind x 0 []).put 0x3000 (natBytes 8 v)
    let armed (st : ArmSt) (s : State) : State := s.modSched 0 fun c => { c with arms := [{ ctr := 0x3000, st := st, desc := { entry := 0x100 } }] }
    let find (st : ArmSt) (s : State) : Bool := ((s.cell 0).sched.arms.find? fun a => decide (a.ctr.toNat = 0x3000) && decide (a.st = st)).isSome
    let b (x : Word) (v : Nat) : State := at_ 0xB x v
    let w : State → Nat := fun s => s.readNat 0x3000 8
    let last : State → Bool := fun s => decide (w s < 2 ^ 63) && decide (barMembers (w s) ≠ 0) && decide (barLeft (w s) = 1)
      && (decide (barCtr (w s) + 4 ≤ 0x3000) || decide (0x3000 + 8 ≤ barCtr (w s))) && decide (homeOf (nodeBase 0 + barCtr (w s)) = some (0, barCtr (w s)))
    (on (at_ 4 0 5) 4 (fun _ => true) = true ∧ on (at_ 4 1 0) 4 (fun _ => true) = true ∧ on (at_ 4 4 5) 4 (fun _ => true) = true ∧ on (armed .armed (at_ 4 5 5)) 4 (find .armed) = true
        ∧ on (armed .armed (at_ 4 6 5)) 4 (find .armed) = true)
      ∧ (on (armed .reserved (at_ 0xD 0 5)) 0xD (find .reserved) = true ∧ on (armed .reserved (at_ 0xD 0 0)) 0xD (find .reserved) = true)
      ∧ (on (at_ 0xB 0 0) 0xB (fun s => let w := s.readNat 0x3000 8; decide (w < 2 ^ 63) && decide (barMembers w = 0)) = true ∧ on (at_ 0xB 0 (2 ^ 63)) 0xB (fun _ => true) = true)
      ∧ (on (b 7 (barWord 7 0x4000 3 4 2)) 0xB (fun s => decide (w s < 2 ^ 63) && decide (barMembers (w s) ≠ 0) && decide (barGen (w s) = 7) && decide (1 < barLeft (w s))) = true
        ∧ on (b 127 (barWord 127 0x3008 3 1 1)) 0xB (fun s => last s && decide (barGen (w s) = 127)) = true ∧ on (b 0 (barWord 0 0x2FFC 3 4095 1)) 0xB last = true
        ∧ on (b 6 (barWord 7 0x4000 3 4 2)) 0xB (fun s => decide (barGen (w s) ≠ 6)) = true)
      ∧ (on (at_ 0xC 1 (2 ^ 24)) 0xC (fun s => decide (barAbs (s.readNat 0x3000 8) ≠ 0)) = true ∧ on (at_ 0xC 0 0) 0xC (fun s => decide (barAbs (s.readNat 0x3000 8) ≠ 4095)) = true)
 := by decide +kernel
theorem witness_RequestsAtTheirBank_waitingAndPoisoned :
    let kinds : List (BitVec 8) := [0, 1, 2, 3, 4, 0xB, 0xC, 0xD]
    let at_ (k : BitVec 8) (s : State) (c : Msg → State → Bool) : Bool := ported s && arr s 4 0 k.toNat fun m u => decide (u.turnedAway m = none) && c m u
    let W (k : BitVec 8) (l : List PendReq) (c : Msg → State → Nat → Bool → Bool) : Bool := at_ k (((req k 1 0 [5]).shared 0x3000).claimed l) fun m u =>
      let p := (u.cell m.dst).mem.pending
      c m u (p.filter fun r => decide (r.owner = none) && decide (r.msg.cls ≠ 7) && decide (bankOf m.dst r.msg.opa.toNat = bankOf m.dst m.opa.toNat)).length (p.any fun r => decide (r.line = m.pa / 64 * 64))
    let slots (n line : Nat) : List PendReq := List.replicate n { msg := { id := 6, cls := 0, kind := 1, src := 1, dst := 0, opa := 0x3008 }, line := line, left := [3] }
    (kinds.all fun k => W k (slots 1 0x3000) (fun _ _ t w => decide (t < 16) && w) && W k (slots 16 0x3000) (fun _ _ t w => decide (16 ≤ t) && w)) = true
      ∧ (kinds.all fun k => W k [] fun m u t w => decide (t < 16) && !w && decide (u.sharersOf m.dst (m.pa / 64 * 64) ≠ []) && decide (m.opb ≠ 0) && !u.poisoned m.pa && decide (u.readNat m.pa 8 = (m.payload.headD 0).toNat)) = true
      ∧ (kinds.all fun k => W k (slots 16 0x7000) fun m u t w => decide (16 ≤ t) && !w && decide (u.sharersOf m.dst (m.pa / 64 * 64) ≠ [])) = true
      ∧ ([2, 3, 4, 0xB, 0xC].all fun k => at_ k { (req k 0 0 [5]) with poison := [0x3000] } fun m u => u.poisoned m.pa && u.mem.wf && decide ((u.cell m.dst).mem.dir = [])
          && decide ((u.cell m.dst).mem.pending = []) && decide (homeOf m.pa = some (m.dst, m.opa.toNat))) = true := by decide +kernel
/-- A SEND of cell 1 to channel 5 of cell 0, whose handler entry is `e`, with `land` landing slots from LM block 4. -/
def snd (e : Word) (land : Nat) (p : List Word) : State :=
  ((cell0.modSched 0 fun c => { c with handlers := vset c.handlers 5 e, inbox := BitVec.ofNat 64 (land * 2 ^ 32 + 4 * 2 ^ 11) })).sent
    { cls := 0, kind := 5, src := 1, dst := 0, thr := 2, aux := 5, payload := p }
def spawned : State := cell0.sent { cls := 0, kind := 10, src := 1, dst := 0, payload := [0x100, 7, 0] }
/-- The fired places of cell 0 are full; no context has a slot there. -/
def crowded (s : State) : State := s.modSched 0 fun c => { c with fired := List.replicate 64 { desc := { entry := 0x100 }, place := .place } }
def slotless (s : State) : State := s.modSched 0 fun c => { c with slotCtx := Vector.replicate 4 none }
theorem witness_RunsAndCommandsArrive :
    let good : Word := 0x8800000000000040
    let four : List Word := [1, 2, 3, 4]
    let on (s : State) (kind : Nat) (p : Msg → State → Bool) : Bool := ported s && arr s 4 0 kind fun m u => decide (u.turnedAway m = none) && p m s
    let e : Msg → State → Word := fun m s => vget (s.cell m.dst).sched.handlers m.aux.toNat
    let slot (m : Msg) (s : State) (v : Option (BitVec 2)) : Bool := decide (s.slotOf m.dst m.ctx = v)
    let ok : Msg → State → Bool := fun m s => slot m s (some 0) && (e m s).getLsbD 63 && decide ((e m s).extractLsb' 61 2 = 0)
    let room : State → Bool := fun s => decide ((s.cell 0).sched.placesUsed < firedPlaces 0)
    (on (slotless (snd good 2 four)) 5 (fun m s => slot m s none) = true
      ∧ on (snd 0x40 2 four) 5 (fun m s => slot m s (some 0) && !(e m s).getLsbD 63) = true
      ∧ on (snd (good + 2 ^ 61) 2 four) 5 (fun m s => slot m s (some 0) && decide ((e m s).extractLsb' 61 2 ≠ 0)) = true
      ∧ on (crowded (snd good 2 four)) 5 (fun m s => ok m s && !room s) = true
      ∧ on (snd good 0 four) 5 (fun m s => ok m s && room s && decide (4 ≤ m.payload.length) && decide ((s.cell 0).sched.freeSlot = none)) = true
      ∧ on (snd good 0 []) 5 (fun m s => ok m s && room s && decide (m.payload = [])) = true
      ∧ on (snd good 2 four) 5 (fun m s => ok m s && room s && decide (4 ≤ m.payload.length) && decide ((s.cell 0).sched.freeSlot = some 0) && s.mem.wf
          && decide ((s.cell 0).mem.dir = []) && nodeOk 0 && decide (8192 + 8 * m.payload.length ≤ nodeLimit 0)) = true
      ∧ on ((snd good 2 four).shared 0x2000) 5 (fun m s => ok m s && room s && decide (4 ≤ m.payload.length) && decide ((s.cell 0).sched.freeSlot = some 0)
          && !s.mayB m.dst (32 + m.id) (linesOf (nodeBase m.dst + inboxSlot (s.cell 0).sched.inbox 0) (8 * m.payload.length))) = true)
    ∧ (on spawned 10 (fun m s => slot m s (some 0) && room s) = true ∧ on (crowded spawned) 10 (fun m s => slot m s (some 0) && !room s) = true
      ∧ on (slotless spawned) 10 (fun m s => slot m s none) = true)
    ∧ (on (cell0.sent { cls := 0, kind := 6, src := 1, dst := 0 }) 6 (fun _ _ => true) = true ∧ on (cell0.sent { cls := 0, kind := 7, src := 1, dst := 0 }) 7 (fun _ _ => true) = true
      ∧ on (cell0.sent { cls := 0, kind := 8, src := 1, dst := 0 }) 8 (fun _ _ => true) = true) := by decide +kernel
theorem witness_RunsAndCommandsArrive_linesAndReports :
    let line (dst : Nat) (a : Word) : State := cell0.sent { cls := 2, kind := 0, src := 1, dst := dst, opa := a, bytes := 16, payload := [1, 2] }
    let on (s : State) (c : Msg → State → Bool) : Bool := ported s && arr s 4 2 0 fun m u => decide (u.turnedAway m = none) && s.mem.wf && decide (m.bytes ≤ 8 * m.payload.length) && c m u
    let full (k : Nat) (c : Word → Bool) (s : State) : Bool := ported s && arr s 4 5 0x20 fun m u => decide (u.turnedAway m = none) && c (s.faultRing m)
      && decide ((s.fqTail m.dst (s.faultRing m) + 2 ^ 32 - s.fqHead m.dst (s.faultRing m)) % 2 ^ 32 = k)
    on (line 0 0x3000) (fun m u => decide (portAt m.dst = none) && decide (m.dst ≠ coxNode) && decide ((u.cell m.dst).mem.pending = []) && decide ((u.cell m.dst).mem.dir = []) && decide (homeOf m.pa = some (m.dst, m.opa.toNat))) = true
      ∧ on (line coxNode 0x10000000000) (fun m _ => decide (m.dst = coxNode) && decide (spaceOf m.opa.toNat = .bulk)) = true
      ∧ on (line coxNode 0x800000000000) (fun m _ => decide (m.dst = coxNode) && decide (spaceOf m.opa.toNat = .host)) = true
      ∧ on (line (portNode 2) 0x3000) (fun m _ => decide (portAt m.dst = some 2)) = true
      ∧ (let s := (line 0 0x3000).setLpt 0 (lptWord 0 2); ported s && arr s 4 2 0 fun m u => (u.turnedAway m).isSome) = true
      ∧ full 0 (fun w => decide (fqLog w = 0)) faults = true ∧ full 2 (fun w => decide (fqLog w = 1)) (ringed 2) = true := by decide +kernel

/-- Cell 0's forward buffer holds one load to cell 1. -/
def fwd1 (st : FwdSt) (nacks : Nat) (m : Option Msg) : State :=
  let s := cell0.modMem 0 fun k => { k with fwd := [{ msg := { id := 4, cls := 0, kind := 0, src := 0, dst := 1 }, st := st, nacks := nacks }] }
  { s with net := m.toList }
/-- A write of one byte in cell 0 that waits for cell 3's acknowledgement, and for those of `l`. -/
def waiting (l : List Nat) (o : Option Nat) : List State :=
  [[], [{ line := 0x3000, sharers := 3 :: l }]].map fun dir =>
    { (cell0.modMem 0 fun k => { k with dir := dir, pending := [{ msg := { id := 6, cls := 0, kind := 1, src := 1, dst := 0, opa := 0x3008, opb := 7 }, line := 0x3000, left := 3 :: l, owner := o }] }) with
      net := [{ id := 4, cls := 1, kind := 2, src := 3, dst := 0, opa := 0x3000, opb := 3 }] }
theorem witness_MessagesAndTheirAnswers :
    let mine : State → (FwdEnt → Bool) → Bool := fun s p => ((s.cell 0).mem.fwd.find? fun x => decide (x.msg.id = 4)).any p
    let grew : State → FwdEnt → Bool := fun s e => e.msg.releases && decide (e.msg.scope.toNat < 3) && decide (3 ≤ max e.msg.scope.toNat (s.scopeOf e.msg.src e.msg.dst e.msg.launch).toNat)
    let rel (l : List FwdEnt) : State := cell0.modMem 0 fun k => { k with fwd := l ++ [{ msg := { id := 4, cls := 0, kind := 4, src := 0, dst := 1, scope := 2 }, st := .wait 0, nacks := 1, inj := 2 }] }
    let store : FwdEnt := { msg := { id := 3, cls := 0, kind := 1, src := 0, dst := 5 }, st := .sent, inj := 1 }
    let before : State := rel [{ store with msg := { store.msg with dst := 1 }, st := .queued, nacks := 1 }]
    let at_ (s : State) (p : Msg → Bool) : Bool := match s.net with | m :: _ => p m | [] => false
    let way : State := cell0.sent { cls := 0, kind := 1, src := 1, dst := 2 }
    let shut : State := (List.range 6).foldl (fun s d => s.modVote 1 d fun v => { v with closed := true }) way
    (mine (fwd1 .queued 0 none) fun e => (fwd1 .queued 0 none).canInject 0 e) = true ∧ (mine (fwd1 .sent 0 none) fun e => !(fwd1 .sent 0 none).canInject 0 e) = true
      ∧ (mine (fwd1 (.wait 0) 1 none) fun e => let s := fwd1 (.wait 0) 1 none; s.canRetry 0 e && !grew s e) = true ∧ (mine (fwd1 (.wait 1) 1 none) fun e => !(fwd1 (.wait 1) 1 none).canRetry 0 e) = true
      ∧ (mine (rel []) fun e => (rel []).canRetry 0 e && grew (rel []) e) = true
      ∧ (mine (rel [store]) fun e => (rel [store]).canRetry 0 e && grew (rel [store]) e && ((rel [store]).cell 0).mem.fwd.head?.any fun x => decide (x.msg.id ≠ 4) && x.msg.writes) = true
      ∧ (mine before fun e => !before.canRetry 0 e) = true
      ∧ (ported (fwd1 .queued 0 none) = true ∧ ported (fwd1 (.wait 0) 1 none) = true ∧ ported (rel []) = true ∧ ported (rel [store]) = true)
      ∧ at_ way (fun m => m.nackable && decide (m.rsv = 0) && decide (way.fencedBy m = none) && !way.behindNack m && !way.crossesLost m) = true
      ∧ at_ way (fun m => let s := way.setLpt 2 (lptWord 2 1); decide (s.fencedBy m = none) && !s.behindNack m && !s.crossesLost m && decide (lptState (s.seenEntry m.src m.dst) = 1)) = true
      ∧ at_ way (fun m => (shut.exitPort m).any (fun p => (shut.vote p.1 p.2).closed) && !shut.behindNack m && !shut.crossesLost m && (shut.fencedBy m).isSome) = true
      ∧ at_ way (fun m => (way.modCell 1 fun c => c.modNet fun x => { x with links := x.links.map fun l => { l with width := 0 } }).crossesLost m) = true
      ∧ before.behindNack { id := 4, src := 0, dst := 1 } = true := by decide +kernel
/-- A message on its way to cell 0, which a forward-buffer entry of cell 0 waits for. -/
def answered (k : BitVec 8) (aux : BitVec 6) (e : FwdEnt) : State :=
  (cell0.modMem 0 fun x => { x with fwd := [{ e with msg := { e.msg with id := 4, src := 0, dst := 1 }, st := .sent }] }).sent { cls := 1, kind := k, src := 1, dst := 0, aux := aux }
theorem witness_MessagesAndTheirAnswers_answers :
    let mine : State → (FwdEnt → Bool) → Bool := fun s p => ((s.cell 0).mem.fwd.find? fun x => decide (x.msg.id = 4)).any p
    let heard (s : State) (k : Nat) (c : Msg → Bool) : Bool := arr s 4 1 k fun m u => decide (m.dst = 0) && decide (u.fencedBy m = none) && c m
    let ans (aux : BitVec 6) : Option Msg := some { id := 4, cls := 1, kind := 0, src := 1, dst := 0, aux := aux, opa := 0x3008, payload := [1, 2, 3, 4, 5, 6, 7, 8] }
    let data (fl : File) (r : Nat) (hd : Bool) (aux : BitVec 6) : State := ((fwd1 .sent 0 (ans aux)).modThread 0 0 fun th => { th with outs := [{ file := fl, reg := r, value := 0, wait := some 4, held := hd }] }).modMem 0 fun k => { k with fwd := k.fwd.map fun e => { e with load := true } }
    let got (s : State) (fl : File) (r : Nat) (hd : Bool) (c : Msg → Bool) : Bool := heard s 0 fun m => c m && decide (m.thr < 16) && ((s.thread 0 m.thr).outs.find? fun x => decide (x.wait = some m.id)).any fun o =>
      decide (o.held = hd) && decide (o.file = fl) && decide (o.reg = r) && decide (o.laid = []) && decide (o.size = 8) && decide (m.payload.length = 8) && decide (m.opa.toNat % 8 = 0)
    let nack (s : State) (c : FwdEnt → Bool) : Bool := arr s 4 1 3 fun m _ => decide (m.dst = 0) && decide (m.aux.toNat < 8) && mine s c
    let req (cls : BitVec 3) (nk : Nat) : FwdEnt := { msg := { cls := cls, kind := if cls = 4 then 0x10 else 1, va := some 0x3000, payload := [0, 1] }, nacks := nk }
    let load (st : RunSt) : State := (answered 3 0 { req 0 15 with load := true }).modThread 0 0 fun th => { th with outs := [{ file := .x, reg := 3, value := 0, wait := some 4 }], run := { th.run with st := st } }
    let move (s : State) : State := s.modSched 0 fun c => { c with moves := [{ age := 3, dst := 1, needs := [], msg := some 4 }] }
    let moves (s : State) : Bool := ((s.cell 0).sched.moves.find? fun v => v.msg = some 4).isSome
    (got (data .x 31 false 0) .x 31 false (fun m => !m.aux.getLsbD 0) = true ∧ got (data .x 1 false 1) .x 1 false (fun m => m.aux.getLsbD 0) = true ∧ got (data .f 0 false 2) .f 0 false (fun m => m.aux.getLsbD 1) = true
        ∧ got (data .x 1 true 0) .x 1 true (fun _ => true) = true ∧ (mine (data .x 1 false 2) fun e => e.load && !e.nofill) = true)
      ∧ (heard (fwd1 .sent 0 ((ans 0).map fun m => { m with kind := 1 })) 1 fun _ => true) = true ∧ (let s := move (answered 1 0 (req 4 0)); heard s 1 (fun _ => moves s) = true)
      ∧ (nack (answered 3 0 (req 0 14)) fun e => decide (e.nacks < 15) && decide (e.msg.cls = 0)) = true ∧ (nack (answered 3 1 (req 5 3)) fun e => decide (e.nacks < 15) && decide (e.msg.cls = 5)) = true
      ∧ (let s := move (answered 3 0 (req 4 0)); nack s fun e => decide (e.msg.cls = 4) && !s.nackWaits 0 e && moves s) = true
      ∧ ((nack (answered 3 2 (req 5 0)) fun e => decide (e.msg.cls = 5) && !e.load) = true ∧ (nack (answered 3 0 (req 5 15)) fun e => decide (e.msg.cls = 5) && !e.load) = true)
      ∧ ((nack (answered 3 3 (req 0 15)) fun e => !e.load && decide (e.msg.cls = 0)) = true ∧ (nack (answered 3 0 (req 0 15)) fun e => !e.load && decide (e.msg.cls = 0)) = true)
      ∧ (nack (load .running) fun e => e.load && decide (e.msg.cls = 0) && decide (((load .running).thread 0 e.msg.thr).run.st ≠ .frozen)) = true
      ∧ (nack (load .frozen) fun e => (load .frozen).nackWaits 0 e) = true
      ∧ (let s := (answered 3 10 (req 0 0)).modMem 0 fun k => { k with engines := [{ id := 9, kind := 6, ctx := 0, slot := 1, thr := 2, launch := 0, scope := 3, w1 := 0, w2 := 0, dst := 0x403000, src := 0x3000, len := 100, ctr := 0x5000, hasCtr := true, begun := true, lines := [(4, 1, 64)] }] }
         arr s 4 1 3 fun m _ => decide (m.dst = 0) && decide (8 ≤ m.aux.toNat) && mine s fun e => (s.cell 0).mem.engines.any fun c => c.lines.any (fun l => decide (l.1 = e.msg.id)) && !c.stopped) = true
      ∧ (let inval : State := cell0.sent { cls := 4, kind := 0, src := 1, dst := 0, opa := 0x403000 }; let lost : State := inval.setLpt 0 (lptWord 0 2)
         ported inval = true ∧ ported lost = true ∧ arr inval 4 4 0 (fun m u => decide (u.fencedBy m = none)) = true ∧ arr lost 4 4 0 (fun m u => (u.fencedBy m).isSome) = true)
      ∧ ((waiting [] none).all fun s => heard s 2 fun m => s.mem.wf && match (s.cell 0).mem.pending with
          | [r] => decide (r.line = m.opa.toNat) && decide (r.left = [m.opb.toNat]) && decide (r.owner = none) && decide (r.msg.cls = 0) && decide (r.msg.kind = 1) && decide (r.msg.dst = 0)
              && decide (homeOf r.msg.pa = some (0, r.msg.opa.toNat)) && (s.cell 0).mem.dir.all (fun x => decide (x.line = r.line) && !x.ovf) && decide (lineOf r.msg.pa = r.line)
          | _ => false) = true
      ∧ ((waiting [] (some 9)).all fun s => heard s 2 fun m => match (s.cell 0).mem.pending with
          | [r] => decide (r.line = m.opa.toNat) && decide (r.left = [m.opb.toNat]) && decide (r.owner ≠ none) && (s.cell 0).mem.dir.all (fun x => decide (x.line = r.line) && !x.ovf)
          | _ => false) = true
      ∧ ((waiting [5] none).all fun s => heard s 2 fun m => match (s.cell 0).mem.pending with
          | [r] => decide (r.line = m.opa.toNat) && decide (r.left.filter (fun i => decide (i ≠ m.opb.toNat)) ≠ [])
          | _ => false) = true
      ∧ (let s := (answered 1 0 (req 0 0)).setLpt 0 (lptWord 0 2); arr s 4 1 1 fun m u => decide (m.dst = 0) && decide (u.fencedBy m ≠ none)) = true
      ∧ (let bad (m : Msg) : Bool := ((cell0.sent m).net.find? fun x => decide (x.id = 4) && (!kindOk x.cls.toNat x.kind.toNat || decide (x.rsv ≠ 0))).any fun m => ((cell0.sent m).exitPort m).any fun p => decide (p.2 < 6)
         bad { cls := 7, kind := 3, src := 1, dst := 0 } = true ∧ bad { cls := 0, kind := 0, rsv := 1, src := 1, dst := 0 } = true) := by decide +kernel
/-! #### O55 to O60 -/

/-- A copy of `len` bytes from 0x3000 to 0x403000 in cell 0's engine, at `pos`; its counter is at 0x5000. -/
def cmd (kind : BitVec 8) (w2 : BitVec 32) (pos : Nat) : EngCmd :=
  { id := 4, kind := kind, ctx := 0, slot := 1, thr := 2, launch := 0, scope := 3, w1 := 0, w2 := w2, dst := 0x403000, src := 0x3000, len := 100, ctr := 0x5000, hasCtr := true, pos := pos, done := pos }
def engine (c : EngCmd) : State := own.launched.modMem 0 fun m => { m with engines := [c] }
def held (s : State) (p : EngCmd → Bool) : Bool := (s.engCmd s.cur.1 4).any p
def ended (s : State) : Bool := (s.cell 0).mem.held.isEmpty
def coll (w2 : BitVec 32) : EngCmd := { cmd 8 w2 0 with len := 16, dst := 0x4000, begun := true, target := 15 }
/-- A copy that has begun, of which `k` source bytes wait to be sent. -/
def copying (kind : BitVec 8) (w2 : BitVec 32) (k : Nat) : EngCmd := { cmd kind w2 0 with begun := true, rpos := k, buf := List.replicate k 0 }
theorem witness_EngineCommandsRun :
    let runs (s : State) (p : EngCmd → Bool) : Bool := held s fun c => !c.stopped && !c.held && !(s.cell s.cur.1).net.frozen && p c
    let fresh (s : State) (p : EngCmd → Bool) : Bool := runs s fun c => !c.begun && p c
    let port (st gen : Nat) : State := { (engine { cmd 6 0 0 with port := some 2 }) with ports := vset own.ports 2 { st := BitVec.ofNat 3 st, gen := BitVec.ofNat 8 gen } }
    let at_ (s : State) (p : EngCmd → Nat → Bool) : Bool := fresh s fun c => c.port = some 2 && p c (vget s.ports 2).st.toNat
    let chunk (c : EngCmd) : Nat := min (c.len - c.pos) ((if c.port.isSome then 2048 else 64) - (c.dst + BitVec.ofNat 64 c.pos).toNat % if c.port.isSome then 2048 else 64)
    let go (s : State) (p : EngCmd → Bool) : Bool := runs s fun c => c.begun && !c.isColl && decide (c.pos < c.len) && p c
    let reads (s : State) (p : EngCmd → Except Fail Nat → Bool) : Bool := go s fun c => decide (c.buf.length < chunk c) && decide (c.rpos < c.len) && decide (cpyOrd c.w2 ≠ 1)
      && p c (s.translate s.cur.1 c.ctx .load (spaceCopySrc (isChan s.cur.1)) (c.src + BitVec.ofNat 64 c.rpos))
    let columns (s : State) (p : Except Fail (State × List Byte) → Bool) : Bool := go s fun c => decide (c.buf.length < chunk c) && decide (c.rpos < c.len) && decide (cpyOrd c.w2 = 1)
      && p (s.readLines s.cur.1 c.ctx (spaceCopySrc (isChan s.cur.1)) (c.src + BitVec.ofNat 64 c.rpos) 1024 16)
    let writes (s : State) (p : EngCmd → Except Fail Nat → Bool) : Bool := ported s && go s fun c => decide (chunk c ≤ c.buf.length)
      && p c (s.translate s.cur.1 c.ctx .store (if c.isBox then spaceBank else spaceCopyDst (isChan s.cur.1)) (c.dst + BitVec.ofNat 64 c.pos))
    let ok (p : Nat → Bool) (e : Except Fail Nat) : Bool := match e with | .ok a => p a | .error _ => false
    let aimed (dst : Word) : State := engine { copying 6 0 100 with dst := dst }
    let bulk := chan0.mapped.privileged.modMem 2048 fun m => { m with engines := [{ copying 6 0 100 with dst := 0x2000000000 }] }
    [held (engine { cmd 6 0 0 with held := true }) fun c => !c.begun && c.held, fresh (engine (cmd 6 0 0)) fun c => !c.isColl && decide (c.port = none),
      at_ (port 2 0) fun c v => decide (v = 2) && decide (c.gen = 0), [1, 3, 4].all fun k => at_ (port k 0) fun _ v => v == k, [0, 5, 6].all fun k => at_ (port k 0) fun _ v => v == k,
      at_ (port 2 1) fun c v => decide (v = 2) && decide (c.gen ≠ 1), runs (engine (coll 0)) fun c => c.begun && c.isColl, runs (engine { copying 6 0 0 with pos := 100 }) fun c => c.begun && decide (c.len ≤ c.pos),
      reads (engine (copying 6 0 0)) (fun _ e => ok (fun a => !(engine (copying 6 0 0)).poisoned a) e), reads ((engine (copying 6 0 0)).bad_ 0x3000) (fun _ e => ok (fun a => ((engine (copying 6 0 0)).bad_ 0x3000).poisoned a) e),
      reads (engine { copying 6 0 0 with src := 0x7000000000 }) (fun _ e => !isOk e), columns (engine { copying 6 8 0 with len := 1024 }) isOk, columns (engine { copying 6 8 0 with len := 1024, src := 0x7000000000 }) (fun e => !isOk e),
      writes (aimed 0x3000000000) (fun _ e => !isOk e), writes (aimed 0x403000) (fun c e => !c.isBox && ok (fun a => (homeOf a).isSome) e), writes bulk (fun c e => !c.isBox && ok (fun a => decide (spaceOf a = .bulk)) e),
      writes (aimed 0x4000000000) (fun c e => !c.isBox && ok (fun a => decide (spaceOf a = .host)) e), writes (aimed 0x5000000000) (fun c e => !c.isBox && ok (fun a => decide (spaceOf a = .port 0)) e),
      writes (engine (copying 7 0x100000 100)) (fun c e => c.isBox && ok (fun a => (homeOf a).isSome) e)].all id = true := by decide +kernel
theorem witness_EngineCommandsRun_completion :
    let ends (s : State) (p : EngCmd → Except Fail (List (Nat × Nat)) → Bool) : Bool := held s fun c => p c (if c.closing then .ok c.todo else s.cmdCounters s.cur.1 c)
    let room (s : State) (c : EngCmd) : Bool := !c.res || decide (((s.cell 0).mem.fifo c.isColl c.slot.toNat).length < 64)
    let fits (s : State) (c : EngCmd) (e : Except Fail (List (Nat × Nat))) : Bool := room s c && match e with | .ok d => decide ((s.cell 0).mem.fwdUsed + d.length ≤ fwdPlaces 0) | .error _ => false
    let copied (c : EngCmd) : Bool := c.begun && !c.stopped && !c.isColl && decide (c.len ≤ c.pos)
    let afterRead (kind : BitVec 8) (w2 : BitVec 32) : EngCmd := { cmd kind w2 100 with begun := true, rpos := 100 }
    let full (s : State) : State := s.modMem 0 fun m => { m with fifoC := vset m.fifoC 1 (List.replicate 64 0) }
    let sent : List (Nat × Nat × Nat) := [(5, 1, 64)]
    let done (p : State → EngCmd → Except Fail (List (Nat × Nat)) → Bool) (c : EngCmd) : Bool := let s := engine c; ended s && ends s fun c d => c.isColl && c.begun && !c.stopped && decide (c.lines = []) && p s c d
    let root (s : State) (c : EngCmd) : Bool := decide (s.cmdRoot 0 c = 0)
    let stop (kind : BitVec 8) (w2 : BitVec 32) : EngCmd := { cmd kind w2 0 with stopped := true, status := 2 }
    [[0, 0x10000].all fun w => ([6, 7].all fun k => let s := engine (afterRead k w); ends s fun c d => copied c && decide (c.isBox = (k == 7)) && decide (c.lines = []) && fits s c d)
        && (let s := engine { afterRead 7 (w + 0x100000) with closing := true, todo := [(0, 0x5000)] }; ends s fun c d => copied c && c.closing && fits s c d),
      (let s := engine { afterRead 7 0x100000 with lines := sent }; ends s fun c d => copied c && c.isBox && decide (c.lines ≠ []) && fits s c d && match d with | .ok d => d.any fun p => c.lines.all fun l => decide (l.2.1 ≠ p.1) | .error _ => false),
      [6, 7].all fun k => let s := engine { afterRead k 0 with ctr := 0x3000000000 }; ends s fun c d => copied c && room s c && decide (c.lines = []) && !isOk d,
      ends (engine { afterRead 6 0 with lines := sent }) fun c _ => copied c && !c.isBox && decide (c.lines ≠ []),
      [6, 7].all fun k => let s := full (engine (afterRead k 0x10000)); ends s fun c _ => copied c && !room s c,
      ends (engine (cmd 6 0 0)) fun c _ => !c.begun, ends (engine (copying 6 0 0)) fun c _ => decide (c.pos < c.len),
      done (fun s c d => !root s c && decide (collMode c.w2 = 0) && fits s c d) (coll 0x2000), done (fun s c d => !root s c && decide (c.pieces ≤ c.pos) && fits s c d) { coll 0x2020 with pos := 1 },
      done (fun s c d => root s c && c.sent && fits s c d) { coll 0x20 with sent := true }, done (fun s c d => root s c && !c.sent && decide (c.target ≤ c.pos) && !c.exact && decide (collMode c.w2 = 0) && fits s c d) { coll 0 with pos := 15 },
      done (fun s c _ => root s c && !c.sent && decide (c.pos < c.target)) (coll 0),
      done (fun s c _ => root s c && !c.sent && decide (c.target ≤ c.pos) && !c.exact && decide (collMode c.w2 ≠ 0) && ported s && (List.range c.pieces).all fun j => isOk (s.getPiece 0 c c.dst j)) { coll 0x20 with pos := 15 },
      done (fun s c _ => root s c && !c.sent && decide (c.target ≤ c.pos) && c.exact && decide (collMode c.w2 = 0) && decide (c.pieces = 1) && s.mayB 0 (cmdOwner 4) (s.pieceLines 0 c [0])
        && (match s.pieceAt 0 c 0 with | .ok [(_, a, b, k)] => decide (a = c.dst) && decide (b = 0) && decide (k = (c.rounded 0).length) | _ => false) && decide ((s.cell 0).mem.dir = []) && s.mem.wf)
        { coll 0x400 with pos := 15, acc := List.replicate 16 (1, 0) },
      [0, 0x10000].all fun w => (let s := engine (stop 6 w); ended s && ends s fun c _ => c.stopped && decide (c.lines = []) && room s c && decide (c.isColl = false)),
      (let s := engine (stop 8 0); ended s && ends s fun c _ => c.stopped && c.isColl && room s c), (let s := { (engine (stop 6 0)) with cox := { own.cox with launches := [] } }; ends s fun c _ => c.stopped && (s.launchOf c.launch).isNone),
      (let s := engine { stop 6 0 with lines := sent }; ended s && ends s fun c _ => c.stopped && !c.isColl && decide (c.lines ≠ [])),
      (let s := full (engine (stop 6 0x10000)); ended s && ends s fun c _ => c.stopped && !room s c), ends (engine (afterRead 6 0)) fun c _ => !c.stopped].all id = true := by decide +kernel
/-- A contribution of cell 1 to cell 0, or a result of it, where a collective's command stands. -/
def reduced (kind : BitVec 8) (w2 : BitVec 32) (l : List EngCmd) (k : Nat) : State :=
  let c := { cmd 8 w2 0 with len := 16, dst := 0x4000 }
  let s := own.launched.modMem 0 fun m => { m with engines := l, held := List.replicate k { msg := {} } }
  s.sent { cls := 3, kind := kind, src := 1, dst := 0, opa := 0, opb := c.terms, payload := List.range 8 |>.map (BitVec.ofNat 64 ·) }
theorem witness_EngineCommandsRun_collectivePieces :
    let start (w2 : BitVec 32) (p : State → EngCmd → Bool) (s : State) : Bool := let s := s.modMem 0 fun m => { m with engines := [{ coll w2 with begun := false, target := 0 }] }
      held s fun c => !c.begun && !c.stopped && !c.held && !(s.cell 0).net.frozen && c.isColl && decide (c.port = none) && p s c
    let root (s : State) (c : EngCmd) : Bool := decide (s.cmdRoot 0 c = 0)
    let alone (s : State) : Bool := s.mem.wf && decide ((s.cell 0).mem.dir = [])
    let part (s : State) (c : EngCmd) (j k : Nat) : Bool := match s.pieceAt 0 c j with | .ok [(pa, a, b, l)] => decide (a = c.dst + BitVec.ofNat 64 (64 * j)) && decide (b = 0) && decide (l = k) && (homeOf pa).isSome | _ => false
    let on (kind : Nat) (s : State) (p : Msg → State → Bool) : Bool := ported s && arr s 4 3 kind fun m u => decide (u.turnedAway m = none) && p m u
    let waiting (m : Msg) (u : State) : Nat := ((u.cell m.dst).mem.held.filter fun h => decide (h.msg.kind = 0)).length
    let mine (m : Msg) (u : State) (c : EngCmd) : Bool := decide (u.engCmd m.dst c.id = some c) && decide (m.opa.toNat < c.pieces)
    let free (m : Msg) (u : State) (c : EngCmd) : Bool := u.mayB m.dst (msgOwner m.id) (u.pieceLines m.dst c [m.opa.toNat])
    let took (s : State) (p : Msg → State → EngCmd → Bool) : Bool := on 0 s fun m u => (u.rootFor m).any fun c => mine m u c && p m u c
    let got (s : State) (p : Msg → State → EngCmd → Bool) : Bool := on 1 s fun m u => (u.partFor m).any fun c => mine m u c && p m u c
    let s := own.launched
    [start 0x2040 (fun s c => !root s c && decide (collMode c.w2 = 2)) s,
      start 0x2000 (fun s c => ported s && !root s c && decide (collMode c.w2 < 2) && (List.range c.pieces).all fun j => isOk (s.getPiece 0 c c.src j)) s,
      start 0 (fun s c => root s c && !s.mayB 0 (cmdOwner 4) (s.pieceLines 0 c (List.range c.pieces))) (s.shared 0x4000),
      [0, 0x40].all fun w => start w (fun s c => root s c && s.mayB 0 (cmdOwner 4) (s.pieceLines 0 c (List.range c.pieces)) && decide (c.pieces = 1) && isOk (s.getPiece 0 c c.src 0) && part s c 0 64 && alone s) s,
      on 0 (reduced 0 0 [] 15) fun m u => decide (u.rootFor m = none) && decide (waiting m u < 16), on 0 (reduced 0 0 [] 16) fun m u => decide (u.rootFor m = none) && decide (16 ≤ waiting m u),
      took (reduced 0 0x800 [coll 0x800] 0) fun m u c => free m u c && decide (m.opb = c.terms) && !c.exact && isOk (u.getPiece m.dst c c.dst m.opa.toNat) && part u c m.opa.toNat 64 && alone u,
      took (reduced 0 0x400 [{ coll 0x400 with acc := List.replicate 16 (1, 0) }] 0) fun m _ c => decide (m.opb = c.terms) && c.exact,
      took ((reduced 0 0x800 [coll 0x800] 0).shared 0x4000) fun m u c => !free m u c && !c.exact,
      on 1 (reduced 1 0x2860 [] 0) fun m u => decide (u.partFor m = none),
      got (reduced 1 0x2860 [coll 0x2860] 0) fun m u c => free m u c && decide (m.opb = c.terms) && part u c m.opa.toNat 64 && alone u,
      [0, 1].all fun k => let s := (reduced (BitVec.ofNat 8 k) 0 [] 0).setLpt 0 (lptWord 0 2); ported s && arr s 4 3 k fun m u => (u.turnedAway m).isSome].all id = true
    ∧ (2 ^ 32 - 1 < 2 ^ 32 ∧ 2 ^ 64 - 1 < 2 ^ 64 ∧ (2 ≤ 2 ∧ 31 < 32 ∧ 7 < 32 / 4 ∧ 3 < 4)) ∧ ((binary32.value true false 0).isNan = false ∧ (binary32.value true false 0x7FC00000).isNan = true
      ∧ 0 < cmpVal (binary32.value true false 0x3F800000) (binary32.value true false 0)) := by decide +kernel
/-- A stroke of the neighbour of cell 0 in direction `d`, which cell 0 sees as `v` at fabric cycle 4096. -/
def stroked (d : Nat) (v : Vote) : State :=
  { (cell0.modCell 0 fun c => c.modNet fun x => { x with votes := vset x.votes d v }) with fab := 4096, net := [{ id := 4, cls := 4, kind := 0x11, src := neighbour 0 d, dst := 0, stroke := 9 }] }
theorem witness_StrokesVotesAndAppeals :
    let at_ (v : Vote) (opa : Word) (num : BitVec 32) (d : Nat) : State := { (stroked d v) with net := [{ id := 4, cls := 4, kind := 0x11, src := neighbour 0 d, dst := 0, stroke := num, opa := opa }] }
    let comes (v : Vote) (opa : Word) (num : BitVec 32) (p : Bool → Bool → Bool → Vote → Bool) (d : Nat) : Bool := arr (at_ v opa num d) 4 4 0x11 fun m _ =>
      let w := (at_ v opa num d).vote 0 d
      decide (m.dst = 0) && decide (dirOf 0 m.src = some d) && p (decide (w.lastAt ≠ 0) && decide (4096 - w.lastAt < 2048)) (m.opa.getLsbD 16 || m.opa.getLsbD 17) (decide (2 ^ 31 ≤ (w.last - m.stroke).toNat)) w
    let few (w : Vote) : Bool := decide (w.strokes < 4) && decide (w.st.toNat < 2)
    let vote (cls : BitVec 3) (kind : BitVec 8) (j d : Nat) (v : Vote) : State := { (stroked d v) with net := [{ id := 4, cls := cls, kind := kind, src := neighbour 0 2, dst := 0, opa := BitVec.ofNat 64 (neighbour 0 d + j * 2 ^ 11) }] }
    let told (cls kind j d : Nat) (v : Vote) (p : Msg → State → Bool) : Bool := let s := vote (BitVec.ofNat 3 cls) (BitVec.ofNat 8 kind) j d v; arr s 4 cls kind fun m _ => decide (m.dst = 0) && decide (dirOf 0 (m.opa.toNat % 2 ^ 11) = some d) && p m s
    let freeze (phys : Nat) (ph : Nat) : State := (cell0.modCell 0 fun c => { c with power := { c.power with mig := some { began := 0, source := 0, target := 16, phase := ph } } }).sent { cls := 5, kind := 0x27, src := coxNode, dst := 0, phys := phys }
    let frozen := cell0.modCell 0 fun c => c.modNet fun x => { x with frozen := true }
    let few2 (s : State) : Nat := ((List.range 6).filter fun j => decide (lptState (s.seenEntry 0 (neighbour (neighbour 0 2) j)) ≠ 2)).length
    let lone : State := ((List.range 6).map fun d => neighbour (neighbour 0 2) d).foldl (fun s n => if n = 0 then s else s.setLpt n (lptWord (s.physOf n) 2)) (stroked 2 { missed := 2, round := 3, acc := 1 })
    [ported cell0 && !(cell0.cell 0).net.mute && decide (((cell0.cell 0).net.votes.toList.all fun v => decide (v.st.toNat < 2)) = true) && (List.range 6).all fun d => decide (lptState (cell0.seenEntry 0 (neighbour 0 d)) ≠ 2),
      ported lone && decide (few2 lone < 3) && decide ((lone.vote 0 2).missed = 2) && decide (lptState (lone.seenEntry 0 (neighbour 0 2)) ≠ 2), decide (few2 cell0 = 6), (frozen.cell 0).net.frozen,
      (List.range 6).all (comes { lastAt := 2048, strokes := 3, st := 1, acc := 63, msgs := 4096, malf := 4 } 0 9 fun e i n w => !e && !i && n && few w && decide (w.msgs ≤ 4096) && decide (w.malf ≤ 4)),
      comes {} 0 9 (fun e i n w => !e && !i && n && few w) 0, comes { lastAt := 2048, msgs := 4097, judge := 5, st := 1, acc := 63 } 0 9 (fun e i n w => !e && !i && n && few w && decide (4096 < w.msgs)) 1,
      comes { lastAt := 2048, malf := 5 } 0 9 (fun e i n w => !e && !i && n && few w && decide (4 < w.malf)) 1, comes { lastAt := 2048, last := 9 } 0 9 (fun e i n w => !e && !i && !n && few w && decide (w.judge = 0)) 1,
      (List.range 6).all (comes { lastAt := 2049 } 0 9 fun e _ _ w => e && decide (w.st.toNat < 2)), comes { strokes := 4 } 0 9 (fun e _ _ w => !e && decide (4 ≤ w.strokes) && decide (w.st.toNat < 2)) 0,
      [0x10000, 0x20000].all fun o => comes {} o 9 (fun e i _ w => !e && i && few w) 5, comes { st := 2 } 0 9 (fun _ _ _ w => decide (2 ≤ w.st.toNat)) 0, decide ((cell0.misc.fenceCtl.toNat / 2 ^ 16 % 2 ^ 16, cell0.misc.fenceCtl.toNat / 2 ^ 8 % 2 ^ 8) = (4096, 4)),
      told 4 0x12 5 1 { st := 1 } (fun m s => decide (m.opa.toNat / 2 ^ 11 % 8 < 6) && decide ((s.vote 0 1).st.toNat < 2)), told 4 0x12 5 1 { st := 1, acc := 15, round := 2 } (fun m s => ported s && decide (m.opa.toNat / 2 ^ 11 % 8 < 6)),
      told 4 0x12 6 1 { st := 1 } (fun m _ => decide (6 ≤ m.opa.toNat / 2 ^ 11 % 8)),
      told 4 0x13 5 1 { st := 1 } (fun _ s => ported s && decide ((s.vote 0 1).st.toNat < 2)), told 5 0x13 0 1 { st := 1 } (fun _ s => ported s && (s.arrived 4 4 0x13).isNone), told 4 0x13 5 1 { st := 2 } (fun _ s => decide (2 ≤ (s.vote 0 1).st.toNat)),
      [0, 1, 2, 3, 5].all fun ph => arr (freeze (cell0.physOf 0) ph) 4 5 0x27 fun m s => decide (m.dst = 0) && decide (m.phys = s.physOf 0) && (s.cell 0).power.mig.all fun g => decide (g.phase ≠ 4),
      arr (freeze (cell0.physOf 0) 4) 4 5 0x27 fun m s => (s.cell m.dst).power.mig.any fun g => decide (g.phase = 4), arr (freeze 99 0) 4 5 0x27 fun m s => decide (m.phys ≠ s.physOf m.dst),
      (stroked 0 { closed := true, st := 2 }).portShut { cls := 1, src := neighbour 0 0, dst := 0 } && decide ((1 : BitVec 3) ≠ 5),
      (cell0.pathAround 5 4 6).any fun p => !p.isEmpty].all id = true := by decide +kernel

/-- Coordinate 5 is FENCED. -/
def fenced5 : State := cell0.setLpt 5 (lptWord (cell0.physOf 5) 2)
/-- A MNT message, and what is known of the physical cell 5. -/
def mnt (e : Phys) (kind : BitVec 8) (src dst : Nat) (opa : Word) : State :=
  { cell0 with phys := [(5, e)], net := [{ id := 4, cls := 5, kind := kind, src := src, dst := dst, opa := opa }] }
theorem witness_StrokesVotesAndAppeals_fencedCellsAndSpares :
    let on (s : State) (kind : Nat) (p : Msg → State → Bool) : Bool := arr s 4 5 kind fun m _ => p m s
    let told (s : State) : State := s.sent { cls := 5, kind := 0x21, src := 0, dst := coxNode, opa := 5 }
    let isFenced (s : State) : Bool := decide (lptState (s.lptEntry 0 5) = 2)
    let noSpare : State := { fenced5 with phys := (List.range 272).map fun q => (q, { fenced := true }) }
    let alone : State := ((List.range 4).map fun d => neighbour 5 d).foldl (fun s n => s.setLpt n (lptWord (s.physOf n) 2)) fenced5
    let mapped (s : State) : Bool := isFenced s && !(s.physEnt (s.physOf 5)).unmapped
    let sent : State := { fenced5 with nextId := 5 }.modMem 0 fun k => { k with fwd := [{ msg := { id := 4, cls := 0, kind := 0, src := 0, dst := 5 }, st := .sent, nacks := 14 }] }
    let admitted (l : List Nat) : Phys := { fenced := true, appealing := true, asked := [4, 6], admits := l }
    let open_ (s : State) (x : Nat) : Bool := let e := s.physEnt 5; !(e.asked.all fun y => decide (y = x) || e.admits.contains y) && e.asked.all s.liveCell
    let heard (v : Vote) : Phys := { fenced := true, appealing := true, ports := [(6, { vote := v, good := 15 })] }
    let port (s : State) (m : Msg) (p : Appeal → Bool) : Bool := ((s.physEnt 5).port m.dst).any p
    let stroke (v : Vote) (opa : Word) (num : BitVec 32) (p : Bool → Bool → Vote → Bool) : Bool :=
      let s := { (mnt (heard v) 0x11 8197 6 opa) with fab := 4096, net := [{ id := 4, cls := 5, kind := 0x11, src := 8197, dst := 6, opa := opa, stroke := num }] }
      (s.arrived 4 4 0x11).isNone && on s 0x11 fun m s => decide (m.src = 8192 + 5) && port s m fun a => decide (a.vote.st = 3)
        && p ((decide (a.vote.lastAt = 0) || decide (2048 ≤ s.fab - a.vote.lastAt)) && !m.opa.getLsbD 16 && !m.opa.getLsbD 17 && decide (2 ^ 31 ≤ (a.vote.last - m.stroke).toNat))
          (decide (a.vote.strokes < 4) && decide (a.vote.msgs ≤ 4096) && decide (a.vote.malf ≤ 4)) a.vote
    [on (told cell0) 0x21 (fun m s => decide (m.opa.toNat % 2 ^ 11 = 5) && !isFenced s), on (told fenced5) 0x21 (fun m s => decide (m.opa.toNat % 2 ^ 11 = 5) && isFenced s),
      mapped fenced5 && decide (3 ≤ (fenced5.liveCrew 5).length) && (fenced5.spareFor 5).any fun q => decide (q < 2176), mapped noSpare && decide (noSpare.spareFor 5 = none),
      mapped alone && decide ((alone.liveCrew 5).length < 3), !isFenced cell0,
      (let s := (told cell0).modCell 5 fun c => { c with power := { c.power with mig := some { began := 0, source := 5, target := 21, phase := 4 } } }
       on s 0x21 fun m s => decide (m.opa.toNat % 2 ^ 11 = 5) && !isFenced s && (s.cell 5).power.mig.any fun g => decide (g.phase = 4) && decide (g.source < 2176)),
      (let row := physIndex (fenced5.physOf 5 % 16) 16 (fenced5.physOf 5 / 272)
       !(fenced5.physEnt row).fenced && decide ((fenced5.physEnt row).oldLid ≠ some 5) && !fenced5.reserved.contains row && (List.range 16).all fun y => decide (fenced5.physOf (cellId (xOf 5) y (zOf 5)) ≠ row)),
      decide ((fenced5.physEnt (fenced5.physOf 5)).appeals < fenced5.misc.fenceCtl.toNat % 16),
      decide (sent.dieOf 0 = 0) && decide (lptState (sent.lptEntry 0 5) = 2) && decide ((sent.cells.map Prod.fst).Nodup) && (sent.cells.map Prod.fst).contains 0
        && ((sent.cell 0).mem.fwd.all fun y => decide (y.msg.id < sent.nextId)) && decide (((sent.cell 0).mem.fwd.map fun y => y.msg.id).Nodup) && (sent.cell 0).mem.fwd.any (fun x => decide (x.msg.dst = 5) && decide (x.st = .sent) && decide (x.nacks < 15) && decide (x.msg.cls = 0)),
      decide (lptState (cell0.lptEntry 7 5) ≠ 2), on (mnt {} 0x22 coxNode 8197 0) 0x22 (fun m _ => decide (m.dst = 8192 + 5)),
      (((mnt { testing := true, oldLid := some 5 } 0 0 0 0).physEnt 5).testing && decide (((mnt { testing := true, oldLid := some 5 } 0 0 0 0).physEnt 5).oldLid = some 5)),
      !(cell0.physEnt 5).testing, decide ((cell0.physEnt 5).left = 0), (let e := (mnt { left := 16, asked := [4, 6] } 0 0 0 0).physEnt 5; decide (0 < e.left) && decide (e.asked ≠ [])),
      on (mnt (heard { st := 2, closed := true }) 0x23 8197 6 0) 0x23 (fun m s => decide (m.src = 8192 + 5) && port s m fun a => decide (a.vote.st = 2)), on (mnt {} 0x23 8197 6 0) 0x23 (fun m s => decide (m.src = 8192 + 5) && decide ((s.physEnt 5).port m.dst = none)),
      stroke { st := 3 } 0 9 (fun g w _ => g && w), stroke { st := 3, lastAt := 2048 } 0 9 (fun g w _ => g && w), stroke { st := 3, lastAt := 2049 } 0 9 (fun g _ _ => !g), stroke { st := 3 } 0x10000 9 (fun g _ _ => !g), stroke { st := 3, last := 9 } 0 9 (fun g _ _ => !g),
      stroke { st := 3, strokes := 4 } 0 9 (fun _ _ v => decide (4 ≤ v.strokes)),
      [true, false].all fun b => let s := mnt (heard { st := 3, seen := b }) 0 0 0 0; !(s.cell 6).net.frozen && decide ((s.phys.map Prod.fst).Nodup) && (s.phys.map Prod.fst).contains 5
        && (((s.physEnt 5).port 6).any fun a => decide (a.vote.st = 3) && decide (a.vote.judge = 0) && decide (a.vote.msgs ≤ 4096) && decide (a.vote.malf ≤ 4) && decide (a.good = 15)),
      on (mnt (admitted [4]) 0x24 6 8197 5) 0x24 (fun m s => decide (m.opa.toNat = 5) && (s.physEnt 5).appealing && decide ((s.physEnt 5).asked ≠ []) && !open_ s m.src),
      on (mnt (admitted []) 0x24 6 8197 5) 0x24 (fun m s => decide (m.opa.toNat = 5) && (s.physEnt 5).appealing && open_ s m.src),
      on (mnt (admitted []) 0x25 6 8197 5) 0x25 (fun m s => decide (m.opa.toNat = 5) && (s.physEnt 5).appealing), !(cell0.physEnt 5).appealing,
      on (mnt (heard { st := 3, closed := true, acc := 5 }) 0x26 6 6 5) 0x26 (fun m s => decide (m.opa.toNat = 5) && port s m fun a => decide (a.vote.st = 3)), on (mnt {} 0x26 6 6 5) 0x26 (fun m s => decide (m.opa.toNat = 5) && decide ((s.physEnt 5).port m.dst = none))].all id = true := by decide +kernel
/-- A command at HEAD of a queue of 16 in host memory: its bytes, a launch record at 0x800000002000 with one row for one cell, and room for the completion. -/
def queue (b : List Byte) : State :=
  let s := { cell0 with cox := { cell0.cox with cqBase := 0x800000001004, cqCbase := 0x800000001800, cqTail := 1 } }
  let s := s.put 0x800000001000 b
  let s := s.put 0x800000002000 ([0, 0, 0, 0, 1, 1, 1, 0, 1, 0, 0, 0, 0, 0, 0, 0] ++ natBytes 8 0x800000003000 ++ natBytes 8 0x800000004000 ++ natBytes 8 0x800000005000)
  s.put 0x800000003008 (natBytes 4 0x3000)
def launchCmd (arg : Nat) : List Byte := [1, 0, 0, 0, 7, 0, 0, 0] ++ natBytes 8 arg
/-- Context 0 is valid, with an allow box of `x` cells along X, and tears down or not. -/
def allowed (s : State) (x : Nat) (busy : Bool) : State :=
  { s with ctxs := assocSet s.ctxs 0 { words := #v[BitVec.ofNat 64 (0x8000000000000000 + placeRoot), BitVec.ofNat 64 ((0x10100 + x) * 2 ^ 32), 0, 0, 0, 0, 0, 0], busy := busy } }
theorem witness_CommandsAndPorts :
    let c (s : State) : Cmd := { bytes := s.bytes s.cox.headAddr 64 }
    let live (s : State) : Bool := s.mem.wf && s.cox.cqValid && decide (s.cox.cqHead ≠ s.cox.cqTail) && decide (s.cox.pending = .none)
    let on (s : State) (kind : CmdKind) (p : State → Bool) : Bool := live s && !s.poisonedIn s.cox.headAddr 64 && decide ((c s).kind = kind) && p s
    let lrec (s : State) (p : LRec → Bool) : Bool := match s.readLaunch (c s).arg with | .ok r => p r | .error _ => false
    let may (s : State) (r : LRec) : Bool := (s.ctxEnt (c s).ctx).v && !(s.ctxEnt (c s).ctx).busy && r.region.within (s.ctxEnt (c s).ctx).allow
    let la (x : Nat) (busy : Bool) : State := allowed (queue (launchCmd 0x800000002000)) x busy
    let full (s : State) : State := s.modSched 0 fun k => { k with slotCtx := Vector.replicate 4 (some 9) }
    let nodes (r : LRec) : List Nat := r.region.cells ++ rowChans r.rows
    let drain (v : BitVec 8) : State := { (cell0.modSched 0 fun k => { k with ctxSt := v }) with cox := { cell0.cox with pending := .drain 7 0 } }
    [on (queue []) .nop fun _ => true, on (queue [9]) .illegal fun _ => true, on (queue [0, 1]) .illegal fun _ => true, on (queue [0, 0, 0, 1]) .illegal fun _ => true,
      (let s := (queue []).bad_ 0x800000001000; live s && s.poisonedIn s.cox.headAddr 64), !cell0.cox.cqValid, (let s := queue []; decide ({ s.cox with cqTail := 0 }.cqHead = (0 : BitVec 32))),
      on (queue (launchCmd 0)) .launch fun s => match s.readLaunch (c s).arg with | .ok _ => false | .error _ => true,
      on (la 1 true) .launch fun s => lrec s fun _ => (s.ctxEnt 0).busy, on (la 0 false) .launch fun s => lrec s fun r => !r.region.within (s.ctxEnt 0).allow,
      on ({ (la 1 false) with ctxs := [] }) .launch fun s => lrec s fun _ => !(s.ctxEnt 0).v,
      on (full (la 1 false)) .launch fun s => lrec s fun r => may s r && (s.chooseSlot 0 r (nodes r)).isNone,
      on (la 1 false) .launch fun s => lrec s fun r => may s r && (s.chooseSlot 0 r (nodes r)).any fun k => (((nodes r).foldl (fun s n => s.takeSlot 0 k n) s).writePieces r.pieces).2,
      on (queue [3]) .ctxIn fun _ => true, on (queue [3, 0, 0, 0, 0, 0, 0, 0, 1]) .ctxDrain fun s => !(s.hostsOf (c s).ctx).isEmpty, (drain 2).allOut 0, !(drain 1).allOut 0].all id = true := by decide +kernel
/-- A LINKMAP of ports 0 and 7: 8 wavelengths at the first, `w` at the last. -/
def linkCmd (mask w : Nat) : List Byte := [2] ++ List.replicate 15 0 ++ natBytes 4 0xFF0000 ++ List.replicate 24 0 ++ natBytes 4 (w * 2 ^ 16) ++ [BitVec.ofNat 8 mask]
theorem witness_CommandsAndPorts_opticalPorts :
    let c (s : State) : Cmd := { bytes := s.bytes s.cox.headAddr 64 }
    let on (s : State) (bad may : Bool) : Bool :=
      let mask := fieldAt (c s).bytes 48 1
      let recs := fieldAt (c s).bytes 16 32
      s.cox.cqValid && decide (s.cox.cqHead ≠ s.cox.cqTail) && decide (s.cox.pending = .none) && !s.poisonedIn s.cox.headAddr 64 && decide ((c s).kind = .linkmap)
        && ((decide (mask = 0) || !zeroAt (c s).bytes 49 15 || (List.range 8).any fun k => mask.testBit k && recBad (recs / 2 ^ (32 * k) % 2 ^ 32)) == bad)
        && ((decide (mask &&& ctxPorts (vget (s.ctxEnt (c s).ctx).words 0) = mask) || s.priv (c s).ctx) == may)
    let at_ (phase w st : Nat) : State := { cell0 with cox := { cell0.cox with pending := .linkmap 7 0x81 (fieldAt (linkCmd 0x81 w) 16 32) phase }, ports := vset (vset cell0.ports 0 { wlit := BitVec.ofNat 8 w, st := BitVec.ofNat 3 st }) 7 { st := BitVec.ofNat 3 st }, ctxs := [(0, { words := #v[BitVec.ofNat 64 (0x80FF000000000000 + placeRoot), 0, 0, 0, 0, 0, 0, 0] })] }
    let p (s : State) : Port := vget s.ports 0
    let no (p : Port) (v : BitVec 8) : Bool := decide (v &&& ~~~p.wlit ≠ 0) || decide (ones8 (p.wlit &&& ~~~v) < (if p.minw = 0 then 8 else p.minw.toNat))
    let busy (s : State) : Bool := (List.range 8).any (fun k => Nat.testBit 0x81 k && (decide ((vget s.ports k).queue ≠ []) || decide ((vget s.ports k).unacked ≠ [])))
      || s.cells.any fun i => i.2.mem.engines.any fun x => x.begun && !x.stopped && x.port.any fun k => Nat.testBit 0x81 k
    let one (p : Port) : State := { (at_ 1 255 3) with ports := vset own.ports 0 p }
    let eng : State := (at_ 1 255 3).modMem 0 fun m => { m with engines := [{ copying 6 0 0 with port := some 7 }] }
    [on (queue (linkCmd 0 0)).privileged true true, on (queue (linkCmd 0x81 1)).privileged true true, on (queue (linkCmd 0x81 0)).privileged false true, on (queue (linkCmd 0x81 0)) false false,
      !busy (at_ 1 255 3), busy (one { st := 3, queue := [[0]] }), busy (one { st := 3, unacked := [{ seq := 0, lane := 0, flit := [] }] }), busy eng, Nat.testBit 0x81 0 && Nat.testBit 0x81 7 && !Nat.testBit 0x81 1,
      decide ((p (at_ 3 255 4)).wlit ≠ 0) && ((at_ 3 255 4).portOwner 0).isSome, (List.range 8).all fun k => !Nat.testBit 0x81 k || decide ((vget (at_ 3 0 4).ports k).wlit = 0), decide ((p (at_ 4 255 1)).st = 1),
      decide ((0 : BitVec 12) = BitVec.ofNat 12 (fieldAt (linkCmd 0x81 255) 16 32)) && decide ((1 : BitVec 12) ≠ BitVec.ofNat 12 (fieldAt (linkCmd 0x81 255) 16 32)),
      decide ((vget (at_ 4 255 1).ports 7).st = 1), decide ((vget (at_ 4 255 0).ports 7).st ≠ 1),
      no { wlit := 0x7F } 0x80, no { wlit := 0xFF } 1, !no { wlit := 0xFF, minw := 7 } 1, no { wlit := 0xFF, minw := 7 } 3, !no { wlit := 0xFF } 0].all id = true := by decide +kernel
theorem witness_CommandsAndPorts_framesOfThePeer :
    let hdr (cls : BitVec 3) (kind : BitVec 8) (rsv : BitVec 4) (a b : Word) (w : List Word) : List Word := ({ cls := cls, kind := kind, rsv := rsv, src := 1, dst := 0, opa := a, opb := b, payload := w } : Msg).header 0
    let rx (x : Option Nat) (h : List Word) (st : BitVec 3) : State := { cell0.mapped with
      ctxs := x.elim [] fun x => [(x, { words := #v[BitVec.ofNat 64 (0x8001000000000000 + placeRoot), 0, 0, 0, 0, 0, 0, 0] })]
      tlb := [{ die := 8, ctx := 0, level := 1, vpn := 2, leaf := 0x1000000001D }]
      ports := vset cell0.ports 0 { st := st, rxFlits := if h = [] then [] else [h], away := [{ cls := 2, kind := 0, src := 0, dst := portNode 0 }] } }
    let frame (s : State) (flit : List Word) (p : Bool → Msg → List Byte → Bool) : Bool :=
      let q := vget s.ports 0
      let flits := if (q.st = 2 ∨ q.st = 3) ∧ 0 = q.rxSeq ∧ flit ≠ [] then q.rxFlits ++ [flit] else q.rxFlits
      p (decide (flits ≠ []) && decide (headerFlits (flits.headD []) ≤ flits.length - 1)) (Msg.ofHeader (flits.headD [])) (wordBytes (flits.drop 1).flatten)
    let parts (s : State) (m : Msg) (bs : List Byte) : Except Fail (List (Nat × Word × Nat × Nat)) := let len := min m.opb.toNat bs.length
      { s with ports := vset s.ports 0 { vget s.ports 0 with rxFlits := [], rxSeq := 1 } }.partAddrs (portNode 0) 0 (spaceCopySrc true) (lineParts m.opa 0 len (len / 64 + 2))
    let ok (a : Word) (x : Option Nat) : State := rx x (hdr 2 0 0 a 16 [1, 2, 3, 4]) 2
    let line (s : State) (p : Msg → List Byte → Bool) : Bool := frame s [1, 2, 3, 4] fun w m bs => w && !m.malformed && decide (m.cls = 2) && p m bs
    let k : Port := { unacked := [{ seq := 5, lane := 0, flit := [] }, { seq := 6, lane := 0, flit := [] }] }
    let wakes : Port := { autowake := true, wthresh := 0, parked := 1, wlit := 255 }
    [frame (rx none (hdr 2 0 0 0x2000000000 16 [1, 2, 3, 4]) 2) [] fun w _ _ => !w, frame (ok 0x2000000000 none) [1, 2, 3, 4] fun w _ _ => w, line (ok 0x2000000000 none) fun _ _ => ((ok 0x2000000000 none).portOwner 0).isNone,
      line (ok 0x7000000000 (some 0)) fun m bs => decide ((ok 0x7000000000 (some 0)).portOwner 0 = some 0) && !isOk (parts (ok 0x7000000000 (some 0)) m bs),
      (let s := ok 0x2000000000 (some 0); line s fun m bs => decide (s.portOwner 0 = some 0) && match parts s m bs with | .ok [(pa, _, o, l)] => decide (homeOf pa = none) && decide (o = 0) && decide (l ≤ bs.length) && decide (0 < l) | _ => false),
      (let s := rx none [] 2; frame s (hdr 1 1 0 0 0 []) fun w m _ => w && !m.malformed && decide (m.cls = 1) && decide (m.kind = 1) && ((vget s.ports 0).away.find? fun x => decide (x.src = m.dst) && decide (x.seq = m.seq)).isSome),
      (let s := rx none [] 2; frame s (hdr 0 0 1 0 0 []) fun w m _ => w && m.malformed),
      k.unacked.head?.any fun f => decide (((6 : BitVec 24) - f.seq).toNat ≤ k.unacked.length),
      (wakes.push [[0]]).call && !wakes.call, { wakes with call := true }.call && decide (wakes.narrow = none) && decide (wakes.parked ≠ 0) && !wakes.wake, { wakes with wake := true }.wake].all id = true := by decide +kernel
/-- Context 1 with legal staged words. -/
def staged (busy : Bool) (w0 : Word) : State :=
  { cell0 with ctxs := assocSet cell0.ctxs 1 { words := #v[w0, 0x1010100000000, 0, 0, 0, 0, 0, 0], staged := #v[0, 0x1010100000000, 0, 0, 0, 0, 0, 0], busy := busy } }
theorem witness_ContextsAndTranslations :
    let bad (v : Word) : Bool := decide (v &&& ~~~0x3f37 ≠ 0) || decide ((v.extractLsb' 4 2).toNat = 3)
    let walk (va : Word) : State := { cell0 with walks := [{ die := 0, ctx := 0, va := va }] }
    let found (s : State) (p : Miss → Bool) : Bool := (s.walks.find? fun m => decide (m.die = 0)).any fun m => (s.tlbHit m.die m.ctx m.va).isNone && p m
    let up : Word := BitVec.ofNat 64 (0x8000000000000000 + placeRoot)
    let hosted (s : State) (st : BitVec 8) : State := s.modSched 0 fun k => { k with slotCtx := vset k.slotCtx 2 (some 1), ctxSt := st }
    let grants (s : State) : State := s.modErr 0 fun e => { e with grants := vset e.grants 2 0x0FF02A0001000003 }
    let drains (s : State) : State := { s with ctxs := assocSet s.ctxs 1 { (s.ctxEnt 1) with drain := some 0 } }
    let ports (w : Word) : State := drains (staged true (up + 0x81000000000000 + w))
    let waits (s : State) : Bool := let m := (vget (s.ctxEnt 1).words 0).toNat / 2 ^ 48 % 256
      ((List.range 8).any (fun k => m.testBit k && (decide ((vget s.ports k).queue ≠ []) || decide ((vget s.ports k).unacked ≠ [])))
        || s.cells.any fun i => i.2.mem.engines.any fun x => x.begun && !x.stopped && x.port.any fun k => m.testBit k) && decide (s.fab < 20000000)
    let full : State := { (ports 0) with ports := vset cell0.ports 0 { st := 3, queue := [[0]] } }
    let changed : State := { (staged false up) with ctxs := assocSet cell0.ctxs 1 { words := #v[up, 0x1010100000000, 0, 0, 0, 0, 0, 0], staged := #v[0, 0x2010100000000, 0, 0, 0, 0, 0, 0] } }
    let other : State := { (staged false 0) with ctxs := (0, { words := #v[up + 0x1000000000000, 0, 0, 0, 0, 0, 0, 0] }) :: (staged false 0).ctxs }
    [(staged false 0).commitFails 1 1, decide (spaceOf (entryAddr 0x8000000000004000) ≠ .bulk), (other.ctxs.any fun p => decide (p.1 ≠ 1) && p.2.v && decide (ctxPorts (vget p.2.words 0) &&& ctxPorts (up + 0x1000000000000) ≠ 0)),
      ((hosted (staged false up) 0).hostsOf 1).any (fun p => decide (((hosted (staged false up) 0).cell p.1).sched.slotState p.2 ≤ 1)),
      !((hosted changed 0).hostsOf 1).isEmpty && decide (vget ((hosted changed 0).ctxEnt 1).staged 1 ≠ vget ((hosted changed 0).ctxEnt 1).words 1), decide (((up + 1 <<< 56) ^^^ up) &&& ~~~0x0000ffffffffc000 ≠ 0),
      (let s := grants (hosted (staged true up) 2); (s.ctxEnt 1).busy && decide ((s.ctxEnt 1).drain = none) && decide ((s.cells.map Prod.fst).Nodup) && decide (((0, 2) : Nat × BitVec 2) ∈ s.hostsOf 1) && decide (grantBase (s.grant 0 2) < grantLimit (s.grant 0 2))
        && (s.hostsOf 1).all fun p => (List.range 4).all fun j => (vget (s.cell p.1).cores j).wuq.all fun x => decide (x.sheaf = none)),
      ((ports 0).ctxEnt 1).busy && decide (((ports 0).ctxEnt 1).drain = some 0) && !waits (ports 0), waits full, waits ((ports 0).modMem 0 fun m => { m with engines := [{ copying 6 0 0 with port := some 7 }] }), !waits { full with fab := 20000000 },
      !(staged false 0).commitFails 1 up && up.getLsbD 63, !(staged false up).commitFails 1 0, ((staged true up).ctxEnt 1).busy, !((staged false 0).ctxEnt 1).busy,
      bad 0x40, bad 0x30, !bad 0x3f27, !bad 0, !bad 0x10, found (walk 0x10000) fun m => match (walk 0x10000).walkFrom m.va ((walk 0x10000).ptRoot m.ctx) 0 4 with | .ok l => decide (leafCtx l.2 = m.ctx) | .error _ => false,
      found ({ (walk 0x10000) with walks := [{ die := 0, ctx := 3, va := 0x10000 }], ctxs := (3, { words := #v[up, 0, 0, 0, 0, 0, 0, 0] }) :: cell0.ctxs }) fun m => match cell0.walkFrom m.va placeRoot 0 4 with | .ok l => decide (leafCtx l.2 ≠ m.ctx) | .error _ => false,
      found (walk 0x10000000) fun m => match (walk 0x10000000).walkFrom m.va ((walk 0x10000000).ptRoot m.ctx) 0 4 with | .ok _ => false | .error _ => true,
      decide (ofDie 0 (walk 0).walks ≤ 192 ∧ ofDie 0 (walk 0).misses ≤ 2048 ∧ 8 < 9)].all id = true := by decide +kernel
/-- Cell 0 is idle, and its power side is `p`. -/
def idle (p : CellPower) (fab : Nat) : State := { (cell0.modCell 0 fun c => { c with power := p, threads := [] }) with fab := fab }
theorem witness_PowerAndRetention :
    let P (p : DevPower) (fab : Nat) : State := { cell0 with power := p, fab := fab }
    let st (s : State) (v : BitVec 8) (k : Nat) : Bool := s.power.ocCause.getLsbD k && v.getLsbD k
    let up : CellPower := { op := 5 }
    [decide (103 ≤ (103 : BitVec 8).toNat ∧ (97 : BitVec 8).toNat < 98 ∧ 100 < (101 : BitVec 8).toNat ∧ 105 ≤ (105 : BitVec 8).toNat ∧ (104 : BitVec 8).toNat < 105),
      !(P {} 0).power.bwin, (P { bwin := true } 0).power.bwin && decide (4600 < (4601 : BitVec 13).toNat), (P { recovery := true } 0).power.recovery, decide (4000 < (4001 : BitVec 13).toNat ∧ (3899 : BitVec 13).toNat < 3900),
      (P { bwin := true } 20000000).power.bwin && decide (20000000 ≤ (P { bwin := true } 20000000).fab), (P { bwin := true } 19999999).power.bwin && decide ((P { bwin := true } 19999999).fab < 20000000),
      (P { recovery := true, recAt := 1 } 20000001).power.recovery, decide ((P { recovery := true, recAt := 2 } 20000001).fab < 2 + 20000000),
      (let s := (idle up 0).modCell 0 fun c => { c with cores := c.cores.map fun k => { k with req := 7 } }; decide (4 < min (s.cell 0).request.toNat (s.cell 0).power.ceil.toNat) && !s.power.recovery),
      (cell0.cells.all fun q => decide (q.2.power.op.toNat ≤ 4)), decide (32 < (33 : BitVec 8).toNat ∧ (64 : BitVec 8).toNat < 65 ∧ (32 : BitVec 8).toNat ≤ 32),
      (let s := P { ocCause := 0xFF, present := 7, bwin := true, watts := 4601, warm := true } 0; (List.range 8).all (st s 255) && decide (s.power.present.toNat < 8)),
      (let s := P { ocCause := 0xFF } 0; (List.range 8).all (st s 255) && decide (s.power.present.toNat < 8) && decide (4600 ≥ s.power.watts.toNat)), { cell0 with phys := [(3, { temp := 105 })] }.phys.any fun q => decide (105 ≤ q.2.temp.toNat)].all id = true := by decide +kernel
theorem witness_PowerAndRetention_retentionAndMigration :
    let move (phase : Nat) : State := idle { mig := some { began := 0, source := 0, target := 256, phase := phase } } 0
    let hot : State := { (idle { hotSince := some 0, hot := true } 100000000) with power := { pmCtl := 0x4007 } }
    let nowhere : State := { hot with phys := (List.range 272).map fun q => (q, { fenced := true }) }
    let idles (s : State) : Nat := s.power.pmCtl.toNat / 2 ^ 8 % 2 ^ 16
    let quiet (s : State) : Bool := let c := s.cell 0; c.threads.all (fun q => decide (q.2.run.st = .free) || decide (q.2.run.st = .parked)) && decide (c.sched.fired = []) && (List.range 8).all (fun b => decide (vget c.sched.ready b = []))
      && (List.range 4).all fun k => decide ((vget c.cores k).wuq = [])
    let long (s : State) : Bool := let c := s.cell 0; decide (c.power.busyAt + 256 * idles s ≤ s.fab) && c.threads.all fun q => decide (q.2.run.freeAt + 256 * idles s ≤ s.fab)
    let fired (s : State) : State := s.modSched 0 fun c => { c with fired := [{ desc := { entry := 0x100 }, place := .place }] }
    let wakes (s : State) : Bool := let c := s.cell 0; decide (c.sched.fired ≠ []) || decide (c.mem.pending ≠ []) || s.net.any fun m => decide (m.dst = 0) && (decide (m.cls = 0) || decide (m.cls = 2) || (decide (m.cls = 3) && decide (m.kind = 1)) || (decide (m.cls = 5) && decide (m.kind = 0x20)))
    let asleep : State := idle { ret := true } 0
    let held (m : Nat) : State := ((move 5).modMem 0 fun k => { k with fwd := [{ msg := { id := 4, dst := 5 } }] }).modCell 0 fun c => { c with power := { c.power with mig := c.power.mig.map fun g => { g with drain := [m] } } }
    let at_ (s : State) (p : Migration → Bool) : Bool := (s.cell 0).power.mig.any p
    [(let s := idle {} 0x4000; decide (idles s ≠ 0) && quiet s && long s && !(s.cell 0).net.frozen && (s.cell 0).power.mig.isNone), (let s := idle {} 0x3FFF; !long s), (let s := fired (idle {} 0x4000); !quiet s),
      (let s := { (idle {} 0x4000) with power := { pmCtl := 7 } }; decide (idles s = 0)), wakes (fired asleep) && ((fired asleep).cell 0).power.ret,
      [(0, 0), (2, 0), (3, 1), (5, 0x20)].all (fun p : Nat × Nat => wakes (asleep.sent { cls := BitVec.ofNat 3 p.1, kind := BitVec.ofNat 8 p.2, src := 1, dst := 0 })), wakes (asleep.modMem 0 fun m => { m with pending := [{ msg := {}, line := 0, left := [] }] }),
      !wakes asleep, !wakes (asleep.sent { cls := 4, kind := 0x11, src := 1, dst := 0 }), !((idle {} 0).cell 0).power.ret,
      decide (0x400010000008 % 8 = 0) && decide (0x400010000008 < 0x400020000000) && decide (windowOf 0x400010000008 = some (0, 0)),
      hot.wantsMove 0 && (hot.targetFor 0).isSome && decide (hot.physOf 0 < 2176), nowhere.wantsMove 0 && (nowhere.targetFor 0).isNone, !cell0.wantsMove 0,
      [2, 3, 4, 5].all fun k => at_ (move k) fun m => decide (m.phase = k) && decide (m.target < 2176) && decide (m.source < 2176),
      (let s := move 2; decide ((s.cell 0).mem.pending = []) && (List.range 4).all fun k => decide ((vget (s.cell 0).cores k).wuq = [])),
      (let s := (move 2).modMem 0 fun m => { m with pending := [{ msg := {}, line := 0, left := [] }] }; at_ s fun m => decide (m.phase = 2) && decide ((s.cell 0).mem.pending ≠ [])),
      (let s := (queued { op := { kind := .vrsum }, thr := 4, ctx := 0, slot := 0, pc := 0, st := .started }).modCell 0 fun c => { c with power := { mig := some { began := 0, source := 0, target := 256, phase := 2 } } }
       at_ s fun _ => (List.range 4).any fun k => (vget (s.cell 0).cores k).wuq.any fun x => decide (x.st = .started)),
      !((move 3).physEnt 256).fenced, (({ (move 3) with phys := [(256, { fenced := true })] } : State).physEnt 256).fenced,
      at_ (held 9) fun m => decide (m.phase = 5) && ((held 9).cell 0).mem.fwd.all fun e => !m.drain.contains e.msg.id, at_ (held 4) fun m => decide (m.phase = 5) && ((held 4).cell 0).mem.fwd.any fun e => m.drain.contains e.msg.id].all id = true := by decide +kernel
/-- What an alarm's policy, the keys and the fuses are is a value of the part that the specification leaves open, so that no image can be written out
that verifies: the other conditions are met. -/
theorem witness_StoppingSecurityAndTheHost : (∀ image, firmwareOk image = true ∨ firmwareOk image = false)
    ∧ (let s := { State.reset with sec := { State.reset.sec with boot := 2 } }; s.misc.ready = false ∧ s.sec.boot = 2 ∧ s.sec.halted = false ∧ s.misc.found = {} ∧ s.lpt = [])
    ∧ { State.reset.misc with ready := true }.ready = true ∧ { State.reset.sec with halted := true }.halted = true ∧ { State.reset.sec with key := true }.key = true ∧ State.reset.sec.key = false
    ∧ { State.reset.power with standbyLost := true }.standbyLost = true ∧ (List.replicate 32 (1 : Byte)).length = 32 ∧ ([] : List Byte).length ≠ 32 := by
  refine ⟨fun image => ?_, by decide +kernel, rfl, rfl, rfl, rfl, rfl, rfl, by decide⟩
  cases firmwareOk image <;> simp
theorem witness_StoppingSecurityAndTheHost_theHostAndLinks :
    let dev (pa : Nat) : Bool := decide (spaceOf pa = .dev) && decide (pa % 8 = 0) && decide (windowOf pa = none)
    let entries (v : Word) (d i pa : Nat) : Bool := dev pa && decide (pa - 0x400000000000 = 0x100000 + 0x2000 * d + 4 * i) && decide ((v.extractLsb' 16 3).toNat ≤ 2) && decide ((v.extractLsb' 4 5).toNat ≤ 16)
      && decide ((v.extractLsb' 48 3).toNat ≤ 2) && decide ((v.extractLsb' 36 5).toNat ≤ 16)
    let width (w : BitVec 4) (lost : Nat) : State := cell0.modCell 0 fun c => c.modNet fun x => { x with links := vset x.links 0 { width := w, lost := Vector.replicate 8 lost } }
    let x (s : State) : Link := vget (s.cell 0).net.links 0
    let fwd : State := fwd1 .sent 0 none
    let loft (l : List LoftLine) : State := { cell0 with misc := { cell0.misc with loft := l } }
    let bulk : Nat := 0x10000000000
    let off : State := { cell0 with misc := { cell0.misc with loftSt := #v[2, 2] } }
    [dev 0x400000000048 && decide (0x400000000048 < 0x400020000000), decide (0x400000000044 % 8 ≠ 0), decide (spaceOf 0x300000 ≠ .dev), dev 0x400000100000, dev 0x40000010FFF8,
      entries 0x1020002 7 2046 (0x400000100000 + 0x2000 * 7 + 4 * 2046), dev (0x400000008000 + 8 * 0x122), decide ((5 : Word).toNat % 8 ≤ 5),
      cell0.mem.wf && decide (0x10000000000 % 8 = 0) && decide (spaceOf 0x10000000000 = .bulk) && decide (spaceOf 0x800000000000 = .host),
      decide ((x (width 1 7)).width = 1 ∧ vget (x (width 1 7)).lost 0 + 1 ≤ 8 ∧ 8 < vget (x (width 1 8)).lost 0 + 1), decide ((x (width 0 0)).width = 0),
      (ringOf 0 0).all fun k => decide (k = 0) || !(width 0 0).linkDown k 0, decide ((x cell0).width ≠ 0), decide (spaceOf 0x10000000040 = .bulk),
      decide (64 * 0xBFFF < 0x300000), ((fwd.cell 0).mem.fwd[0]?).isSome,
      decide ((vget (cell0.cell 0).net.links 4).width ≠ 0) && decide ((x cell0).width = 1),
      ((loft [{ line := bulk, layer := 1, dirty := true }]).misc.loft.find? fun e => decide (e.line = bulk)).any fun e => decide (e.layer < 2) && e.dirty && ([bulk + 3].map fun a => a / 64 * 64).contains e.line,
      ((loft []).misc.loft.find? fun e => decide (e.line = bulk)).isNone && ((loft []).misc.loftLayer bulk).isSome || ((loft []).misc.loft.find? fun e => decide (e.line = bulk)).isNone,
      (List.range 2).all fun k => decide (vget off.misc.loftSt k ≠ 0), dev 0x400000000048, decide (windowOf bulk = none),
      ((cell0.modSched 0 fun c => { c with ready := vset c.ready 2 [{ desc := { entry := 0x100 }, age := 3, lead := 0, pass := 0 }] }).cell 0).sched.ready.toList.flatten[0]?.isSome,
      ((((crowded cell0).cell 0).sched.fired.filter fun f => decide (f.place = .place))[63]?).isSome,
      (((cell0.modSched 0 fun c => { c with arms := [{ ctr := 0x3000, st := .armed, desc := { entry := 0x100 } }] }).cell 0).sched.arms[0]?).isSome,
      (((cell0.boxed 2 0).thread 0 (1 / 128)).run.outbox[1 % 128]?).isSome, decide (0 * 128 + 32 * 2 + 5 = 69 ∧ 2 < 4 ∧ 5 < 32), decide (spaceOf (bulk + 64 * 7) = .bulk) && (loft []).misc.loft.isEmpty].all id = true := by decide +kernel

end Sys2Proof.Tests
end

section
/-! SUPPORT. The names of cells and banks: coordinates and ids determine each other (R10), each of the six directions leads to its own
neighbour and back (R11), and an address of cell space is its cell's aperture and an offset (R18, R22). -/

namespace Sys2Proof.Machine

/-! ### Coordinates of a cell id (R10) -/

theorem mod16_lt (a : Nat) : a % 16 < 16 := Nat.mod_lt _ (by decide)
theorem mod8_lt (a : Nat) : a % 8 < 8 := Nat.mod_lt _ (by decide)

theorem xOf_lt (n : Nat) : xOf n < 16 := mod16_lt _
theorem yOf_lt (n : Nat) : yOf n < 16 := mod16_lt _
theorem zOf_lt (n : Nat) : zOf n < 8 := mod8_lt _

theorem cellId_lt {x y z : Nat} (hx : x < 16) (hy : y < 16) (hz : z < 8) : cellId x y z < 2048 := by
  unfold cellId; omega

@[simp] theorem xOf_cellId {x : Nat} (y z : Nat) (hx : x < 16) : xOf (cellId x y z) = x := by
  unfold xOf cellId; omega
@[simp] theorem yOf_cellId {x y : Nat} (z : Nat) (hx : x < 16) (hy : y < 16) : yOf (cellId x y z) = y := by
  unfold yOf cellId; omega
@[simp] theorem zOf_cellId {x y z : Nat} (hx : x < 16) (hy : y < 16) (hz : z < 8) : zOf (cellId x y z) = z := by
  unfold zOf cellId; omega

theorem coords_cellId {x y z : Nat} (hx : x < 16) (hy : y < 16) (hz : z < 8) :
    (xOf (cellId x y z), yOf (cellId x y z), zOf (cellId x y z)) = (x, y, z) ∧ cellId x y z < 2048 :=
  ⟨by rw [xOf_cellId y z hx, yOf_cellId z hx hy, zOf_cellId hx hy hz], cellId_lt hx hy hz⟩

theorem cellId_coords {n : Nat} (h : n < 2048) : cellId (xOf n) (yOf n) (zOf n) = n := by
  unfold cellId xOf yOf zOf; omega

/-! ### The torus (R11) -/

theorem ring_whole_turn {a j k m : Nat} (ha : a < m) (hm : j + k = m) : ((a + j) % m + k) % m = a := by
  rw [Nat.mod_add_mod, Nat.add_assoc, hm, Nat.add_mod_right, Nat.mod_eq_of_lt ha]

/-- Moves along a ring of `m` places by less than a whole turn end in different places: the rest of the turn past `a` leads back to the
length of the move. -/
theorem ring_move_inj {a j k m : Nat} (ha : a < m) (hj : j < m) (hk : k < m) : (a + j) % m = (a + k) % m ↔ j = k := by
  have hm : a + (m - a) = m := Nat.add_sub_cancel' (Nat.le_of_lt ha)
  constructor
  · intro h
    rw [← ring_whole_turn hj hm, Nat.add_comm j, h, Nat.add_comm a, ring_whole_turn hk hm]
  · intro h
    rw [h]

/-- One place on, one place back and staying are three different places of a ring. -/
theorem ring_neighbours_differ {a k m : Nat} (ha : a < m) (hk : k + 1 = m) (hm : 2 < m) :
    (a + 1) % m ≠ a ∧ (a + k) % m ≠ a ∧ (a + k) % m ≠ (a + 1) % m := by
  have hstay : (a + 0) % m = a := Nat.mod_eq_of_lt ha
  have hmove {i j : Nat} (hi : i < m) (hj : j < m) (hij : i ≠ j) : (a + i) % m ≠ (a + j) % m :=
    fun h => hij ((ring_move_inj ha hi hj).mp h)
  exact ⟨fun h => hmove (i := 1) (j := 0) (by omega) (by omega) (by omega) (h.trans hstay.symm),
    fun h => hmove (i := k) (j := 0) (by omega) (by omega) (by omega) (h.trans hstay.symm),
    hmove (by omega) (by omega) (by omega)⟩

/-- The direction in which a cell's neighbour lies, read off the coordinate that differs. -/
def directionTo (n m : Nat) : Nat :=
  if xOf m ≠ xOf n then (if xOf m = (xOf n + 1) % 16 then 0 else 1)
  else if yOf m ≠ yOf n then (if yOf m = (yOf n + 1) % 16 then 2 else 3)
  else if zOf m = (zOf n + 1) % 8 then 4 else 5

theorem direction_cases {d : Nat} (hd : d < 6) : d = 0 ∨ d = 1 ∨ d = 2 ∨ d = 3 ∨ d = 4 ∨ d = 5 := by omega

theorem directionTo_neighbour (n : Nat) {d : Nat} (hd : d < 6) : directionTo n (neighbour n d) = d := by
  have hx := xOf_lt n
  have hy := yOf_lt n
  have hz := zOf_lt n
  obtain ⟨hx1, hx15, hxne⟩ := ring_neighbours_differ (k := 15) hx (by decide) (by decide)
  obtain ⟨hy1, hy15, hyne⟩ := ring_neighbours_differ (k := 15) hy (by decide) (by decide)
  obtain ⟨-, -, hzne⟩ := ring_neighbours_differ (k := 7) hz (by decide) (by decide)
  rcases direction_cases hd with rfl | rfl | rfl | rfl | rfl | rfl <;>
    simp only [directionTo, neighbour, xOf_cellId, yOf_cellId, zOf_cellId, hx, hy, mod16_lt, mod8_lt, hx1, hx15, hxne,
      hy1, hy15, hyne, hzne, ne_eq, not_true_eq_false, not_false_eq_true, reduceIte]

/-- The six neighbours are six cells: the neighbour tells its direction. -/
theorem neighbour_injective (n : Nat) {d e : Nat} (hd : d < 6) (he : e < 6) (h : neighbour n d = neighbour n e) : d = e := by
  rw [← directionTo_neighbour n hd, h, directionTo_neighbour n he]

theorem neighbour_backDir {n d : Nat} (h : n < 2048) (hd : d < 6) : neighbour (neighbour n d) (backDir d) = n := by
  have hx := xOf_lt n
  have hy := yOf_lt n
  have hz := zOf_lt n
  rcases direction_cases hd with rfl | rfl | rfl | rfl | rfl | rfl <;>
    simp only [backDir, neighbour, xOf_cellId, yOf_cellId, zOf_cellId, hx, hy, hz, mod16_lt, mod8_lt, ring_whole_turn, cellId_coords h,
      Nat.reduceMod, Nat.reduceAdd, Nat.reduceSub, Nat.reduceEqDiff, reduceIte]

/-! ### Cell space (R18, R22) -/

theorem isChan_eq_false {n : Nat} (h : n < 2048) : isChan n = false := decide_eq_false (Nat.not_le.mpr h)

theorem nodeBase_eq_shiftLeft {n : Nat} (h : n < 2048) : nodeBase n = n <<< 22 := by
  rw [nodeBase, isChan_eq_false h, Nat.shiftLeft_eq]; rfl

theorem bankOf_eq {n : Nat} (o : Nat) (h : n < 2048) : bankOf n o = o >>> 6 % 3 := by
  rw [bankOf, isChan_eq_false h, Nat.shiftRight_eq_div_pow]; rfl

theorem lineOf_nodeBase_add {n : Nat} (o : Nat) (h : n < 2048) : lineOf (nodeBase n + o) = nodeBase n + 64 * (o >>> 6) := by
  simp only [lineOf, nodeBase_eq_shiftLeft h, Nat.shiftLeft_eq, Nat.shiftRight_eq_div_pow]; omega

/-- Bits [32:22] of an address of cell space name the cell, the bits below are the offset in its aperture. -/
theorem aperture_div_mod (n : Nat) {o : Nat} (ho : o < 0x400000) :
    (n <<< 22 + o) / Config.aperture = n ∧ (n <<< 22 + o) % Config.aperture = o := by
  simp only [Config.aperture, Nat.shiftLeft_eq]; omega

theorem spaceOf_aperture {n o : Nat} (h : n < 2048) (ho : o < 0x400000) :
    spaceOf (n <<< 22 + o) = if o < Config.lmBytes then .cell n else .none := by
  have hlt : n <<< 22 + o < 0x200000000 := by rw [Nat.shiftLeft_eq]; omega
  obtain ⟨hdiv, hmod⟩ := aperture_div_mod n ho
  rw [spaceOf, if_pos hlt, hdiv, hmod]

theorem homeOf_localMemory {n o : Nat} (h : n < 2048) (ho : o < 0x300000) : homeOf (n <<< 22 + o) = some (n, o) := by
  have ho' : o < 0x400000 := by omega
  have hlm : o < Config.lmBytes := ho
  simp only [homeOf, spaceOf_aperture h ho', if_pos hlm, (aperture_div_mod n ho').2]

theorem homeOf_hole {n o : Nat} (h : n < 2048) (hlo : 0x300000 ≤ o) (ho : o < 0x400000) : homeOf (n <<< 22 + o) = none := by
  have hlm : ¬ o < Config.lmBytes := Nat.not_lt.mpr hlo
  simp only [homeOf, spaceOf_aperture h ho, if_neg hlm]

end Sys2Proof.Machine

namespace Sys2Proof.Proofs
open Sys2Proof Sys2Proof.Machine

/-- Settles O8: coordinates and ids are inverse to each other, a neighbour's coordinates tell its direction, and an address of cell space
divides into its cell and its offset. -/
theorem cellsNeighboursAndBanks : Obligations.CellsNeighboursAndBanks := by
  refine ⟨fun x y z hx hy hz => ⟨rfl, cellId_lt hx hy hz, xOf_cellId y z hx, yOf_cellId z hx hy, zOf_cellId hx hy hz⟩,
    fun n hn => ⟨xOf_lt n, yOf_lt n, zOf_lt n, cellId_coords hn⟩, fun n hn => ?_, fun n o hn ho => ?_,
    fun n o hn hlo ho => homeOf_hole hn hlo ho⟩
  · have hx := xOf_lt n
    have hy := yOf_lt n
    have hz := zOf_lt n
    exact ⟨coords_cellId (mod16_lt _) hy hz, coords_cellId (mod16_lt _) hy hz, coords_cellId hx (mod16_lt _) hz,
      coords_cellId hx (mod16_lt _) hz, coords_cellId hx hy (mod8_lt _), coords_cellId hx hy (mod8_lt _),
      fun d e hd he => neighbour_injective n hd he, fun d hd => neighbour_backDir hn hd⟩
  · have hbase := nodeBase_eq_shiftLeft hn
    exact ⟨bankOf_eq o hn, lineOf_nodeBase_add o hn, hbase ▸ homeOf_localMemory hn ho, by rw [hbase]⟩

end Sys2Proof.Proofs
end

section
/-! SUPPORT. How one subject word decodes, alone or behind a PFX.MOD, through the encoding tables (R37 to R51), and the words of the divisions
and of the branches (R56). -/

namespace Sys2Proof.Machine

/-! ### Decoding one subject word (R37, R41, R51) -/

theorem fields_ofWord_toWord (x : Fields) : Fields.ofWord x.toWord = x := by
  obtain ⟨f4, f3, f2, f1, major, stall, p, kind⟩ := x
  simp only [Fields.ofWord, Fields.toWord, Fields.mk.injEq]
  refine ⟨?_, ?_, ?_, ?_, ?_, ?_, ?_, ?_⟩ <;> repeat refine (BitVec.extractLsb'_append_eq_of_le (by decide)).trans ?_
  · exact BitVec.extractLsb'_eq_self
  all_goals exact BitVec.extractLsb'_append_eq_right

theorem isPfx_toWord (x : Fields) : isPfx x.toWord = decide (x.kind = 3#2) :=
  congrArg (fun y : Fields => decide (y.kind = 3#2)) (fields_ofWord_toWord x)

theorem isPfx_pfxWord (type : BitVec 3) (m : BitVec 27) : isPfx (pfxWord type m) = true :=
  decide_eq_true BitVec.extractLsb'_append_eq_right

theorem chain_push_mod (m : BitVec 27) : ({} : Chain).push (pfxWord 3 m) = { mod := some m, n := 1 } := by
  have hpayload : (pfxWord 3 m).extractLsb' 5 27 = m :=
    (BitVec.extractLsb'_append_eq_of_le (by decide)).trans BitVec.extractLsb'_append_eq_left
  have htype : (pfxWord 3 m).extractLsb' 2 3 = 3#3 :=
    (BitVec.extractLsb'_append_eq_of_le (by decide)).trans BitVec.extractLsb'_append_eq_right
  rw [Chain.push, htype, hpayload]
  rfl

theorem decodeChain_of_not_isPfx (n : Nat) (h : Chain) {w : W32} (ws : List W32) (hw : isPfx w = false) :
    decodeChain n h (w :: ws) = decodeAfter h w ws := by
  rw [decodeChain.eq_def]
  simp only [hw, Bool.false_eq_true, if_false]

theorem decodeChain_of_isPfx (n : Nat) (h : Chain) {w : W32} (ws : List W32) (hw : isPfx w = true) :
    decodeChain (n + 1) h (w :: ws) = decodeChain n (h.push w) ws := by
  rw [decodeChain.eq_def]
  simp only [hw, if_true]

/-- The last word of a chain, of kind 00 or 01, with its P and the words before it in order (R51): what `decodeSubject` makes of it decides. -/
theorem decodeChain_short {h : Chain} {n : Nat} {x : Fields} {i : Instr} (hpfx : x.kind ≠ 3#2) (hlong : x.kind ≠ 2#2)
    (hp : x.p = 1#1 ↔ h.n ≠ 0) (hbad : h.bad = false) (hsubject : decodeSubject h x 0 = some i) :
    decodeChain n h [x.toWord] = if i.wf then .ok i else .error (.cause 0x01) := by
  rw [decodeChain_of_not_isPfx _ _ _ ((isPfx_toWord x).trans (decide_eq_false hpfx)), decodeAfter, fields_ofWord_toWord]
  dsimp only [List.headD]
  rw [if_neg (Classical.not_not.mpr (propext hp)), if_neg (fun hk => hlong hk.1), if_neg (by rw [hbad]; decide), hsubject]

section
variable {i : Instr} {e : Enc} {g : Sig}

/-- The word of an instruction of one word on page 0 or 1, behind a chain that carries its control part: it decodes to the instruction
where that is well formed, and raises 0x01 where it is not. -/
theorem decodeChain_subject {h : Chain} {n : Nat} {p : BitVec 1} (round : Laws.RoundTrip.Statement i) (henc : i.enc = some e)
    (hsig : i.sig = some g) (hshort : e.w2 = none ∧ e.page = false) (hctl : h.ctl g.ctl.stall = g.ctl)
    (hchain : h.page = none ∧ h.bad = false) (hp : p = 1#1 ↔ h.n ≠ 0) :
    decodeChain n h [Fields.toWord { e.x with stall := g.ctl.stall, p := p }] =
      if g.ok then .ok i else .error (.cause 0x01) := by
  obtain ⟨hw2, hpage⟩ := hshort
  obtain ⟨hnopage, hbad⟩ := hchain
  obtain ⟨⟨hkind, hlong, -, -⟩, hdec⟩ := round e g henc hsig
  have hsubject := hdec h p hctl (by rw [hnopage, hpage]; rfl)
  rw [hw2] at hsubject hlong
  have hwf : i.wf = g.ok := by rw [Instr.wf, hsig]; rfl
  rw [← hwf]
  exact decodeChain_short hkind (fun hk => Bool.noConfusion (hlong.mp hk)) hp hbad hsubject

/-- The word standing alone. -/
theorem decodeWords_subject {st : BitVec 3} (round : Laws.RoundTrip.Statement i) (henc : i.enc = some e) (hsig : i.sig = some g)
    (hshort : e.w2 = none ∧ e.page = false) (hctl : g.ctl = { stall := st }) :
    decodeWords [Fields.toWord { e.x with stall := st, p := 0 }] = if g.ok then .ok i else .error (.cause 0x01) := by
  have hst : g.ctl.stall = st := by rw [hctl]
  rw [← hst]
  exact decodeChain_subject round henc hsig hshort (by rw [hctl]; rfl) ⟨rfl, rfl⟩ (by decide)

/-- The word behind a PFX.MOD. -/
theorem decodeWords_mod_subject {st : BitVec 3} {m : BitVec 27} (round : Laws.RoundTrip.Statement i) (henc : i.enc = some e)
    (hsig : i.sig = some g) (hshort : e.w2 = none ∧ e.page = false) (hctl : g.ctl = { stall := st, mod := some m }) :
    decodeWords [pfxWord 3 m, Fields.toWord { e.x with stall := st, p := 1 }] = if g.ok then .ok i else .error (.cause 0x01) := by
  have hst : g.ctl.stall = st := by rw [hctl]
  rw [← hst, decodeWords, decodeChain_of_isPfx _ _ _ (isPfx_pfxWord 3 m), chain_push_mod]
  exact decodeChain_subject round henc hsig hshort (by rw [hctl]; rfl) ⟨rfl, rfl⟩ (iff_of_true rfl Nat.one_ne_zero)

end

/-- A subject that stands alone and whose register fields name x registers passes the checks of R51. -/
theorem sig_ok_of_unprefixed {g : Sig} {st : BitVec 3} (hctl : g.ctl = { stall := st }) (hpage : g.page = false)
    (htypes : g.types = true) (hx : ∀ q, some q ∈ g.slots → q.file = .x) : g.ok = true := by
  have hfiles : (g.slots.all fun s => s.all SlotSig.inFile) = true := by
    rw [List.all_eq_true]
    rintro (_ | q) hq
    · rfl
    · rw [Option.all_some, SlotSig.inFile, hx q hq]
      exact decide_eq_true q.num.isLt
  simp [Sig.ok, Sig.prefixes, Ctl.prefixes, hctl, hpage, htypes, hfiles]

/-- A subject that does not use SAT takes none (R46). -/
theorem sig_not_ok_of_sat {g : Sig} {m : BitVec 27} (hmod : g.ctl.mod = some m) (hsat : g.sat = false) (hm : modSat m ≠ 0) :
    g.ok = false := by
  have hfield : (g.sat || decide (modSat m = 0)) = false := by rw [hsat, decide_eq_false hm]; rfl
  have hmodOk : g.modOk m = false := by simp only [Sig.modOk, hfield, Bool.and_false, Bool.false_and]
  simp [Sig.ok, hmod, hmodOk]

/-! ### The words of divisions and of branches (R56) -/

/-- What the descriptions of the four divisions say of their fields. -/
def divisionSig (c : Ctl) (d a b : BitVec 5) : Sig :=
  { ctl := c, rep := true, d := some { file := .x, num := d, banks := dstBanks },
    a := some { file := .x, num := a, banks := srcBanks }, b := some { file := .x, num := b, banks := srcBanks } }

/-- What the descriptions of the six branches say of their fields. -/
def branchSig (c : Ctl) (a b : BitVec 5) : Sig :=
  { ctl := c, imm := true, a := some { file := .x, num := a }, b := some { file := .x, num := b } }

section
variable {i : Instr} {f d a b : BitVec 5} {st : BitVec 3}

theorem decodeWords_division (round : Laws.RoundTrip.Statement i) (henc : i.enc = some { x := encR 0 0 f b a d })
    (hsig : i.sig = some (divisionSig { stall := st } d a b)) :
    decodeWords [f ++ b ++ a ++ d ++ 0#6 ++ st ++ 0#1 ++ 0#2] = .ok i := by
  have hok : (divisionSig { stall := st } d a b).ok = true :=
    sig_ok_of_unprefixed (st := st) rfl rfl rfl (by simp [Sig.slots, divisionSig])
  exact (decodeWords_subject (st := st) round henc hsig ⟨rfl, rfl⟩ rfl).trans (if_pos hok)

theorem decodeWords_division_sat {m : BitVec 27} (hm : m.extractLsb' 3 2 ≠ 0) (round : Laws.RoundTrip.Statement i)
    (henc : i.enc = some { x := encR 0 0 f b a d }) (hsig : i.sig = some (divisionSig { stall := st, mod := some m } d a b)) :
    decodeWords [m ++ 3#3 ++ 3#2, f ++ b ++ a ++ d ++ 0#6 ++ st ++ 1#1 ++ 0#2] = .error (.cause 0x01) := by
  have hok : (divisionSig { stall := st, mod := some m } d a b).ok = false := sig_not_ok_of_sat rfl rfl hm
  exact (decodeWords_mod_subject (st := st) round henc hsig ⟨rfl, rfl⟩ rfl).trans (if_neg (by simp [hok]))

theorem decodeWords_branch {m : BitVec 6} {imm : BitVec 10} (round : Laws.RoundTrip.Statement i)
    (henc : i.enc = some { x := encI 0 m imm b a }) (hsig : i.sig = some (branchSig { stall := st } a b)) :
    decodeWords [imm ++ b ++ a ++ m ++ st ++ 0#1 ++ 0#2] = .ok i := by
  have hok : (branchSig { stall := st } a b).ok = true :=
    sig_ok_of_unprefixed (st := st) rfl rfl rfl (by simp [Sig.slots, branchSig])
  have hword : Fields.toWord { encI 0 m imm b a with stall := st, p := 0 } = imm ++ b ++ a ++ m ++ st ++ 0#1 ++ 0#2 :=
    congrArg (fun j : BitVec 10 => j ++ b ++ a ++ m ++ st ++ 0#1 ++ 0#2) (Laws.imm10_join imm)
  rw [← hword]
  exact (decodeWords_subject (st := st) round henc hsig ⟨rfl, rfl⟩ rfl).trans (if_pos hok)

end

end Sys2Proof.Machine
end

section
/-! SUPPORT. How an instruction's body settles what the instruction does, and the scalar operations of one rule each: the values of the four
divisions (R105), the branches (R112) and the touches (R120). -/

namespace Sys2Proof.Machine

/-! ### From an instruction's body to what it does -/

theorem does_of_body {i : Instr} {chk : Bool} {body : Args → State → Res} {when_ : Cond} {eff : Args → State → State}
    (hexec : ∀ s, exec i s = run i chk body s) (hbody : ∀ A s, when_ A s → body A s = .done (eff A s)) : Does i when_ eff := by
  intro g A s hi hw
  rw [hexec, run_of_issues chk body hi, hbody _ _ hw]
  rfl

theorem jumps_of_body {i : Instr} {chk : Bool} {body : Args → State → Res} {when_ : Cond} {eff : Args → State → State}
    {dst : Args → State → Word} (hexec : ∀ s, exec i s = run i chk body s)
    (hbody : ∀ A s, when_ A s → body A s = .jump (eff A s) (dst A s)) : Jumps i when_ eff dst := by
  intro g A s hi hw
  rw [hexec, run_of_issues chk body hi, hbody _ _ hw]
  rfl

/-- An instruction whose body is `aluVar f` writes `f` of its sources with a variable latency. -/
theorem writesVar_of_aluVar {i : Instr} {chk : Bool} {f : Word → Word → Word} {P : Args → State → Word → Prop}
    (hexec : ∀ s, exec i s = run i chk (aluVar f) s) (hP : ∀ A s, P A s (f (A.ra s) (A.rb s))) : WritesVar i always P :=
  fun _ A s hi _ => ⟨_, hP A s.startIssue, by rw [hexec, run_of_issues chk _ hi]; rfl⟩

/-! ### The values of the divisions (R105) -/

theorem divS_zero_of_pos {a : Word} (h : 0 < a.toInt) : (divS a 0).toInt = 2 ^ 63 - 1 := by
  have ha : a ≠ 0 := by rintro rfl; exact absurd h (by decide)
  rw [divS, if_pos rfl, if_neg ha, if_neg (Int.not_lt.mpr (Int.le_of_lt h))]
  rfl

theorem divS_zero_of_neg {a : Word} (h : a.toInt < 0) : (divS a 0).toInt = -2 ^ 63 := by
  have ha : a ≠ 0 := by rintro rfl; exact absurd h (by decide)
  rw [divS, if_pos rfl, if_neg ha, if_pos h]
  rfl

theorem divS_zero_zero : divS 0 0 = 0 := rfl

theorem divS_overflow : (divS (BitVec.intMin 64) (BitVec.allOnes 64)).toInt = 2 ^ 63 - 1 := by decide

/-- Away from a zero divisor and from the one quotient that overflows, the quotient is exact. -/
theorem divS_toInt {a b : Word} (hb : b.toInt ≠ 0) (h : ¬(a.toInt = -2 ^ 63 ∧ b.toInt = -1)) :
    (divS a b).toInt = a.toInt.tdiv b.toInt := by
  have hb' : b ≠ 0 := by rintro rfl; exact hb rfl
  have hov : ¬(a = BitVec.intMin 64 ∧ b = BitVec.allOnes 64) := by rintro ⟨rfl, rfl⟩; exact h ⟨rfl, rfl⟩
  have hfits : (a.sdiv b).toInt = a.toInt.tdiv b.toInt :=
    BitVec.toInt_sdiv_of_ne_or_ne a b (Classical.not_and_iff_not_or_not.mp hov)
  rw [divS, if_neg hb', if_neg hov, ← hfits, BitVec.ofInt_toInt]

theorem divS_spec (a b : Word) :
    (b.toInt = 0 → 0 < a.toInt → (divS a b).toInt = 2 ^ 63 - 1) ∧ (b.toInt = 0 → a.toInt < 0 → (divS a b).toInt = -2 ^ 63)
      ∧ (b.toInt = 0 → a.toInt = 0 → divS a b = 0) ∧ (a.toInt = -2 ^ 63 → b.toInt = -1 → (divS a b).toInt = 2 ^ 63 - 1)
      ∧ (b.toInt ≠ 0 → ¬(a.toInt = -2 ^ 63 ∧ b.toInt = -1) → (divS a b).toInt = a.toInt.tdiv b.toInt) := by
  refine ⟨fun hb ha => ?_, fun hb ha => ?_, fun hb ha => ?_, fun ha hb => ?_, divS_toInt⟩
  · obtain rfl : b = 0 := BitVec.eq_of_toInt_eq hb
    exact divS_zero_of_pos ha
  · obtain rfl : b = 0 := BitVec.eq_of_toInt_eq hb
    exact divS_zero_of_neg ha
  · obtain rfl : b = 0 := BitVec.eq_of_toInt_eq hb
    obtain rfl : a = 0 := BitVec.eq_of_toInt_eq ha
    exact divS_zero_zero
  · obtain rfl : a = BitVec.intMin 64 := BitVec.eq_of_toInt_eq ha
    obtain rfl : b = BitVec.allOnes 64 := BitVec.eq_of_toInt_eq hb
    exact divS_overflow

theorem divU_zero {a : Word} (h : a.toNat ≠ 0) : (divU a 0).toNat = 2 ^ 64 - 1 := by
  have ha : a ≠ 0 := by rintro rfl; exact h rfl
  rw [divU, if_pos rfl, if_neg ha]
  rfl

theorem divU_zero_zero : divU 0 0 = 0 := rfl

theorem divU_toNat {a b : Word} (hb : b.toNat ≠ 0) : (divU a b).toNat = a.toNat / b.toNat := by
  have hb' : b ≠ 0 := by rintro rfl; exact hb rfl
  rw [divU, if_neg hb', ← BitVec.toNat_udiv, BitVec.ofNat_toNat, BitVec.setWidth_eq]

theorem divU_spec (a b : Word) :
    (b.toNat = 0 → a.toNat ≠ 0 → (divU a b).toNat = 2 ^ 64 - 1) ∧ (b.toNat = 0 → a.toNat = 0 → divU a b = 0)
      ∧ (b.toNat ≠ 0 → (divU a b).toNat = a.toNat / b.toNat) := by
  refine ⟨fun hb ha => ?_, fun hb ha => ?_, divU_toNat⟩
  · obtain rfl : b = 0 := BitVec.eq_of_toNat_eq hb
    exact divU_zero ha
  · obtain rfl : b = 0 := BitVec.eq_of_toNat_eq hb
    obtain rfl : a = 0 := BitVec.eq_of_toNat_eq ha
    exact divU_zero_zero

theorem remS_zero (a : Word) : remS a 0 = a := rfl

/-- The signed remainder fits whatever the divisor is: it is smaller than the divisor. -/
theorem remS_toInt {a b : Word} (hb : b.toInt ≠ 0) : (remS a b).toInt = a.toInt.tmod b.toInt := by
  have hb' : b ≠ 0 := by rintro rfl; exact hb rfl
  rw [remS, if_neg hb', ← BitVec.toInt_srem, BitVec.ofInt_toInt]

theorem remS_overflow : remS (BitVec.intMin 64) (BitVec.allOnes 64) = 0 := by decide

theorem remS_spec (a b : Word) :
    (b.toInt = 0 → (remS a b).toInt = a.toInt) ∧ (a.toInt = -2 ^ 63 → b.toInt = -1 → remS a b = 0)
      ∧ (b.toInt ≠ 0 → (remS a b).toInt = a.toInt.tmod b.toInt) := by
  refine ⟨fun hb => ?_, fun ha hb => ?_, remS_toInt⟩
  · obtain rfl : b = 0 := BitVec.eq_of_toInt_eq hb
    rw [remS_zero]
  · obtain rfl : a = BitVec.intMin 64 := BitVec.eq_of_toInt_eq ha
    obtain rfl : b = BitVec.allOnes 64 := BitVec.eq_of_toInt_eq hb
    exact remS_overflow

theorem remU_zero (a : Word) : remU a 0 = a := rfl

theorem remU_toNat {a b : Word} (hb : b.toNat ≠ 0) : (remU a b).toNat = a.toNat % b.toNat := by
  have hb' : b ≠ 0 := by rintro rfl; exact hb rfl
  rw [remU, if_neg hb', ← BitVec.toNat_umod, BitVec.ofNat_toNat, BitVec.setWidth_eq]

theorem remU_spec (a b : Word) :
    (b.toNat = 0 → (remU a b).toNat = a.toNat) ∧ (b.toNat ≠ 0 → (remU a b).toNat = a.toNat % b.toNat) := by
  refine ⟨fun hb => ?_, remU_toNat⟩
  obtain rfl : b = 0 := BitVec.eq_of_toNat_eq hb
  rw [remU_zero]

/-! ### Branches (R112) and touches (R120) -/

theorem branch_taken {p : Word → Word → Bool} {imm : Word} {A : Args} {s : State} (h : p (A.ra s) (A.rb s) = true) :
    branch p imm A s = .jump s (A.pc + 4 * imm) := if_pos h

theorem branch_not_taken {p : Word → Word → Bool} {imm : Word} {A : Args} {s : State} (h : ¬p (A.ra s) (A.rb s) = true) :
    branch p imm A s = .done s := if_neg h

/-- Both ways of a branch whose test decides `taken`. -/
theorem branches_of_body {i : Instr} {chk : Bool} {p : Word → Word → Bool} {imm : Word} {taken : Word → Word → Prop}
    (hexec : ∀ s, exec i s = run i chk (branch p imm) s) (hp : ∀ x y, p x y = true ↔ taken x y) :
    Jumps i (fun A s => taken (A.ra s) (A.rb s)) (fun _ s => s) (fun A _ => A.pc + 4 * imm)
      ∧ Does i (fun A s => ¬taken (A.ra s) (A.rb s)) (fun _ s => s) :=
  ⟨jumps_of_body hexec fun _ _ h => branch_taken ((hp _ _).mpr h),
    does_of_body hexec fun _ _ h => branch_not_taken (mt (hp _ _).mp h)⟩

theorem not_slt_iff_toInt_le (x y : Word) : (!x.slt y) = true ↔ y.toInt ≤ x.toInt := by
  rw [Bool.not_eq_true', ← Bool.not_eq_true, BitVec.slt_iff_toInt_lt, Int.not_lt]

theorem not_ult_iff_toNat_le (x y : Word) : (!x.ult y) = true ↔ y.toNat ≤ x.toNat := by
  rw [Bool.not_eq_true', ← Bool.not_eq_true, BitVec.ult_iff_toNat_lt, Nat.not_lt]

/-! The body of each load form answers a destination x0 before it looks at the address. -/

theorem touches_of_loadBody {i : Instr} {chk : Bool} {len : Nat} {img : Nat → Word} {imm : Word}
    (hexec : ∀ s, exec i s = run i chk (loadBody len img imm) s) : Does i (fun A _ => A.fd = .x ∧ A.d = 0) fun A s => s.touch A.n :=
  does_of_body hexec fun _ _ hx0 => if_pos hx0

theorem touches_of_ldvBody {i : Instr} {chk : Bool} {len : Nat} {sext : Bool} {imm : Word}
    (hexec : ∀ s, exec i s = run i chk (ldvBody len sext imm) s) : Does i (fun A _ => A.fd = .x ∧ A.d = 0) fun A s => s.touch A.n :=
  does_of_body hexec fun _ _ hx0 => if_pos hx0

theorem touches_of_hldBody {i : Instr} {chk : Bool} {imm : Word} (hexec : ∀ s, exec i s = run i chk (hldBody imm) s) :
    Does i (fun A _ => A.fd = .x ∧ A.d = 0) fun A s => s.touch A.n :=
  does_of_body hexec fun _ _ hx0 => if_pos hx0

/-- A touch adds one to its cell's count; memory, threads and the other cells stand. -/
theorem touch_spec (s : State) (n : Nat) :
    ((s.touch n).cell n).err = { (s.cell n).err with touch := (s.cell n).err.touch + 1 } ∧ (s.touch n).mem = s.mem
      ∧ (∀ m k, (s.touch n).thread m k = s.thread m k) ∧ (∀ m, m ≠ n → (s.touch n).cell m = s.cell m) :=
  ⟨congrArg Cell.err (State.cell_modCell_self s n _), State.modErr_mem s n _, fun m k => State.thread_modErr s n m k _,
    fun m hm => State.cell_modCell_ne s n m _ hm⟩

end Sys2Proof.Machine

namespace Sys2Proof.Proofs
open Sys2Proof Sys2Proof.Machine

/-- Settles O12: each division's body is `aluVar` of a total function of its operands, and the SAT that a word carries is one that the
descriptions of the divisions do not use. -/
theorem divisionsAlwaysDefined : Obligations.DivisionsAlwaysDefined := by
  intro c d a b
  refine ⟨writesVar_of_aluVar (fun _ => rfl) fun _ _ => divS_spec _ _, writesVar_of_aluVar (fun _ => rfl) fun _ _ => divU_spec _ _,
    writesVar_of_aluVar (fun _ => rfl) fun _ _ => remS_spec _ _, writesVar_of_aluVar (fun _ => rfl) fun _ _ => remU_spec _ _,
    fun st m hm => ?_, fun st => ?_⟩
  · simp only [List.forall_mem_cons, List.not_mem_nil, false_imp_iff, implies_true, and_true]
    exact ⟨decodeWords_division_sat hm (Laws.RoundTrip.div _ d a b) rfl rfl,
      decodeWords_division_sat hm (Laws.RoundTrip.divu _ d a b) rfl rfl,
      decodeWords_division_sat hm (Laws.RoundTrip.rem _ d a b) rfl rfl,
      decodeWords_division_sat hm (Laws.RoundTrip.remu _ d a b) rfl rfl⟩
  · exact ⟨decodeWords_division (Laws.RoundTrip.div _ d a b) rfl rfl, decodeWords_division (Laws.RoundTrip.divu _ d a b) rfl rfl,
      decodeWords_division (Laws.RoundTrip.rem _ d a b) rfl rfl, decodeWords_division (Laws.RoundTrip.remu _ d a b) rfl rfl⟩

/-- Settles O14: the nine loads by offset share one body, the seven by virtual address another, HLD has its own, and each of the three
bodies touches where its destination is x0. -/
theorem touchesMakeNoAccess : Obligations.TouchesMakeNoAccess := by
  refine ⟨fun c d a i => ⟨?offset, ?virtual⟩, fun s n => ?count⟩
  case offset =>
    exact ⟨touches_of_loadBody fun _ => rfl, touches_of_loadBody fun _ => rfl, touches_of_loadBody fun _ => rfl,
      touches_of_loadBody fun _ => rfl, touches_of_loadBody fun _ => rfl, touches_of_loadBody fun _ => rfl,
      touches_of_loadBody fun _ => rfl, touches_of_loadBody fun _ => rfl, touches_of_loadBody fun _ => rfl⟩
  case virtual =>
    exact ⟨touches_of_ldvBody fun _ => rfl, touches_of_ldvBody fun _ => rfl, touches_of_ldvBody fun _ => rfl,
      touches_of_ldvBody fun _ => rfl, touches_of_ldvBody fun _ => rfl, touches_of_ldvBody fun _ => rfl,
      touches_of_ldvBody fun _ => rfl, touches_of_hldBody fun _ => rfl⟩
  case count =>
    obtain ⟨hcount, hmem, hthreads, hcells⟩ := touch_spec s n
    exact ⟨hcount, hmem, hthreads, hcells, fun m k => Thread.full_x0 _⟩

/-- Settles O19: the six branches share one body, and the test of each decides the comparison of its operands that its name says. -/
theorem branchesGoWhereTheySay : Obligations.BranchesGoWhereTheySay := by
  intro c a b i
  refine ⟨fun st => ?_, branches_of_body (fun _ => rfl) fun _ _ => beq_iff_eq, branches_of_body (fun _ => rfl) fun _ _ => bne_iff_ne,
    branches_of_body (p := BitVec.slt) (fun _ => rfl) (fun _ _ => BitVec.slt_iff_toInt_lt), branches_of_body (fun _ => rfl) not_slt_iff_toInt_le,
    branches_of_body (p := BitVec.ult) (fun _ => rfl) (fun _ _ => BitVec.ult_iff_toNat_lt), branches_of_body (fun _ => rfl) not_ult_iff_toNat_le⟩
  exact ⟨decodeWords_branch (Laws.RoundTrip.beq _ a b i) rfl rfl, decodeWords_branch (Laws.RoundTrip.bne _ a b i) rfl rfl,
    decodeWords_branch (Laws.RoundTrip.blt _ a b i) rfl rfl, decodeWords_branch (Laws.RoundTrip.bge _ a b i) rfl rfl,
    decodeWords_branch (Laws.RoundTrip.bltu _ a b i) rfl rfl, decodeWords_branch (Laws.RoundTrip.bgeu _ a b i) rfl rfl⟩

end Sys2Proof.Proofs
end
